-- ==== Sys2Proof/Word.lean ====
section
/-!
DEFINITION. The word and byte types: registers are 32 bits wide (R123), memory is addressed by bytes.
-/
namespace Sys2Proof

/-- A register word (R123). -/
abbrev Word := BitVec 32

/-- A byte of the frame store, of an image or of a message. -/
abbrev Byte := BitVec 8

end Sys2Proof
end

