-- ==== Sys2Proof/Config.lean ====
section
/-!
DEFINITION. The free values: what the spec leaves open, or what lies outside the boundary of the spec (a neighbour
unit, a sink, a standard that is cited and not given). Each is an opaque constant without a body, so that no
statement can lean on its value.
-/
namespace Sys2Proof.Config

/-- A low level on CRST_N held from 1 µs to 10 µs: "either outcome may occur" (R514). -/
opaque crstTaken (fresh : Nat) : Bool

/-- Some other unit or the chain driver pulls the shared CDONE line low (R80, R107). -/
opaque otherCdoneLow (raw : Nat) : Bool

/-- Some other unit pulls the shared CERR_N line low (R80, R107). -/
opaque otherCerrLow (raw : Nat) : Bool

/-- Where the device's transfer result lies in the band of one unit of binary16 about the exact value of code 1 to 4
at m × 2^e (R213): a number modulo 16,381, 8,190 for the exact value. -/
opaque transferError (code m : Nat) (e : Int) : Nat

/-- How the code takes an error of three or more symbols (R171): not as correctable, as a correctable error of a
symbol, whose byte it changes, or not at all. -/
opaque eccBeyond (wrong : BitVec 144) : Option (Option (Fin 18 × Byte))

/-- The four IV bytes that the unit's random-number source gives at a POR (R414), by the number of the draw. -/
opaque ringIv (draw : Nat) : BitVec 32

/-- In which sixteenth of a clk TSC a port takes a timestamp (R462), by the number of the draw. Used modulo 16. -/
opaque stampPhase (fresh : Nat) : Nat

/-- How far after t_a, in ns, the pulse fired for a late edge begins: R472 says within 200 ns. Used modulo 201. -/
opaque lateLead (fresh : Nat) : Nat

/-- Does a System Renewability Message verify against the DCP public key (R347)? HDCP 2.3 is cited, not given. -/
opaque srmOk (key message : List Byte) : Bool

/-- The version of a System Renewability Message. -/
opaque srmVersion (message : List Byte) : BitVec 16

/-- The receiver IDs that a System Renewability Message revokes. -/
opaque srmIds (message : List Byte) : List Nat

/-- Does a transaction of DPn's own run on the AUX channel, in a training or an authentication (R337), by the number
of the draw? -/
opaque ownAux (fresh : Nat) : Bool

/-- Has a running HDCP authentication gone on to its next stage (R344), by the number of the draw? -/
opaque hdcpStep (fresh : Nat) : Bool

/-- Word k of the DSC picture parameter set that the encoder builds (R343): by bits per component, BPP_X16, slices,
slice height, width and height. VESA DSC 1.2a is cited, not given. -/
opaque dscPps (bpc bpp slices sliceH hact vact k : Nat) : BitVec 32

/-- What a reservation register shows for a value above its field (R287); only a forced admission can reach one. -/
opaque reserveAbove (value : Nat) : Nat

end Sys2Proof.Config
end

