-- ==== Sys2Proof/Machine/Sparse.lean ====
section
/-!
DEFINITION. Sparse storage by address, and bit fields of natural numbers: the helpers every register and every byte of
the frame store is read and written with. A store lists, with strictly rising addresses, only the cells that differ
from what an unlisted cell holds, so that equal contents are equal data.
-/
namespace Sys2Proof.Machine

/-- Bits [hi:lo] of n (R14). -/
def bits (n hi lo : Nat) : Nat := (n >>> lo) % 2 ^ (hi + 1 - lo)

/-- Bit i of n. -/
def bit (n i : Nat) : Bool := (n >>> i) % 2 == 1

/-- n with bits [hi:lo] replaced by v (R14); the rest of n unchanged. -/
def setBits (n hi lo v : Nat) : Nat :=
  (n >>> (hi + 1)) <<< (hi + 1) + (v % 2 ^ (hi + 1 - lo)) <<< lo + n % 2 ^ lo

/-- 1 for true, 0 for false. -/
def b2n (b : Bool) : Nat := if b then 1 else 0

/-- The two's-complement value of a w-bit field (R15). -/
def signed (w v : Nat) : Int := if v % 2 ^ w < 2 ^ (w - 1) then (v % 2 ^ w : Nat) else ((v % 2 ^ w : Nat) : Int) - (2 ^ w : Nat)

/-- The w-bit two's-complement pattern of an integer (R15). -/
def unsigned (w : Nat) (z : Int) : Nat := (z % (2 ^ w : Nat)).toNat

/-- What a sparse store holds at an address; `d` is what unlisted addresses hold. -/
def cellAt {α : Type} (d : Nat → α) : List (Nat × α) → Nat → α
  | [], a => d a
  | (b, x) :: t, a => if a = b then x else cellAt d t a

/-- Put (a, x) into a store, at its place in the rising order. -/
def putCell {α : Type} : List (Nat × α) → Nat → α → List (Nat × α)
  | [], a, x => [(a, x)]
  | (b, y) :: t, a, x =>
    if a < b then (a, x) :: (b, y) :: t else if a = b then (a, x) :: t else (b, y) :: putCell t a x

/-- Write x at address a, keeping the store free of cells that hold what unlisted addresses hold. -/
def setCell {α : Type} [DecidableEq α] (d : Nat → α) (m : List (Nat × α)) (a : Nat) (x : α) : List (Nat × α) :=
  if x = d a then m.filter (fun c => c.1 != a) else putCell m a x

/-- The canonical form: strictly rising addresses, no cell that holds what an unlisted address holds. -/
def wfCells {α : Type} [DecidableEq α] (d : Nat → α) : List (Nat × α) → Bool
  | [] => true
  | (a, x) :: t => decide (x ≠ d a) && t.all (fun c => decide (a < c.1)) && wfCells d t

/-- The cells of a store transformed by f, without those that then hold the unlisted value. -/
def mapCells {α : Type} [DecidableEq α] (d : Nat → α) (f : Nat → α → α) : List (Nat × α) → List (Nat × α)
  | [] => []
  | (a, x) :: t =>
    if f a x = d a then (mapCells d f t).filter (fun c => c.1 != a) else (a, f a x) :: mapCells d f t

/-- Element i of a fixed-length table, or `d` past its end. -/
def at' {α : Type} {n : Nat} (v : Vector α n) (i : Nat) (d : α) : α := v[i]?.getD d

/-- A fixed-length table with element i changed by f (unchanged past its end). -/
def upd {α : Type} {n : Nat} (v : Vector α n) (i : Nat) (f : α → α) : Vector α n :=
  match v[i]? with
  | some x => v.setIfInBounds i (f x)
  | none => v

/-- Byte k of a number. -/
def byteOf (n k : Nat) : Byte := BitVec.ofNat 8 (n >>> (8 * k))

/-- The little-endian value of bytes (R14). -/
def leNat : List Byte → Nat
  | [] => 0
  | b :: t => b.toNat + 256 * leNat t

/-- The big-endian value of bytes (R14: ring and time frames). -/
def beNat (l : List Byte) : Nat := l.foldl (fun a b => a * 256 + b.toNat) 0

/-- n as k little-endian bytes. -/
def toLe (k n : Nat) : List Byte := (List.range k).map (byteOf n)

/-- n as k big-endian bytes. -/
def toBe (k n : Nat) : List Byte := (toLe k n).reverse

/-- Is every element of the first list free of a repeat? -/
def distinct (l : List Nat) : Bool :=
  match l with
  | [] => true
  | a :: t => !(t.contains a) && distinct t

/-- `n` bytes from offset `o`. -/
def slice (l : List Byte) (o n : Nat) : List Byte := (l.drop o).take n

/-- A little-endian field of an image (R41). -/
def field (l : List Byte) (o n : Nat) : Nat := leNat (slice l o n)

/-- Ceiling division. -/
def ceilDiv (a b : Nat) : Nat := (a + b - 1) / b

end Sys2Proof.Machine
end

