-- ==== Sys2Proof/Machine/Float.lean ====
section
/-!
DEFINITION. The arithmetic of the pixel path: binary32 and binary16 (FP16, R15) values as exact dyadic numbers,
rounded to nearest with ties to even after every operation (R215, R237, R247), and the transfer functions of R213.
-/
namespace Sys2Proof.Machine

/-- The value (−1)^neg × m × 2^e. A zero keeps its sign. -/
structure Fl where
  neg : Bool
  m : Nat
  e : Int
  deriving DecidableEq, Repr

namespace Fl

def zero : Fl := ⟨false, 0, 0⟩
def one : Fl := ⟨false, 1, 0⟩

/-- A natural number. -/
def ofNat (n : Nat) : Fl := ⟨false, n, 0⟩

/-- z × 2^e. -/
def ofInt (z : Int) (e : Int := 0) : Fl := ⟨decide (z < 0), z.natAbs, e⟩

/-- Round to p significant bits with least exponent emin, to nearest with ties to even. -/
def roundTo (p : Nat) (emin : Int) (x : Fl) : Fl :=
  let drop : Int := max ((x.m.log2 + 1 : Nat) - p) (emin - x.e)
  if x.m = 0 ∨ drop ≤ 0 then x
  else
    let k := drop.toNat
    let q := x.m / 2 ^ k
    let r := x.m % 2 ^ k
    let up := decide (2 ^ (k - 1) < r) || (r == 2 ^ (k - 1) && q % 2 == 1)
    ⟨x.neg, if up then q + 1 else q, x.e + k⟩

/-- Round to binary32. -/
def r32 (x : Fl) : Fl := x.roundTo 24 (-149)

/-- Exact sum; a zero sum of unlike signs is +0. -/
def addX (a b : Fl) : Fl :=
  let e := min a.e b.e
  let z := fun (x : Fl) => (if x.neg then -1 else 1) * ((x.m * 2 ^ (x.e - e).toNat : Nat) : Int)
  let s := z a + z b
  if s = 0 then ⟨a.neg && b.neg, 0, 0⟩ else ⟨decide (s < 0), s.natAbs, e⟩

def neg' (a : Fl) : Fl := { a with neg := !a.neg }

/-- Exact product. -/
def mulX (a b : Fl) : Fl := ⟨a.neg != b.neg, a.m * b.m, a.e + b.e⟩

/-- binary32 sum, difference, product. -/
def add (a b : Fl) : Fl := (addX a b).r32
def sub (a b : Fl) : Fl := (addX a b.neg').r32
def mul (a b : Fl) : Fl := (mulX a b).r32

/-- binary32 quotient by a non-zero value (0 for a zero divisor). -/
def div (a b : Fl) : Fl :=
  if b.m = 0 then zero
  else
    let k := b.m.log2 + 26
    let n := a.m * 2 ^ k
    let q := 2 * (n / b.m) + (if n % b.m = 0 then 0 else 1)
    (⟨a.neg != b.neg, q, a.e - b.e - k - 1⟩ : Fl).r32

/-- a < b -/
def lt (a b : Fl) : Bool := let d := addX a b.neg'; d.neg && d.m != 0

/-- Clamp to [lo, hi]. -/
def clamp (x lo hi : Fl) : Fl := if x.lt lo then lo else if hi.lt x then hi else x

/-- The greatest integer at or below. -/
def floor (x : Fl) : Int :=
  let z : Int := if x.neg then -(x.m : Int) else x.m
  if 0 ≤ x.e then z * ((2 ^ x.e.toNat : Nat) : Int) else z / ((2 ^ (-x.e).toNat : Nat) : Int)

/-- x × 2^k, exactly. -/
def scale (x : Fl) (k : Int) : Fl := { x with e := x.e + k }

/-- 65,504, the largest finite FP16 value. -/
def maxHalf : Fl := ⟨false, 65504, 0⟩

/-- The FP16 pattern of a value within ±65,504, rounded to nearest even. -/
def toHalf (x : Fl) : Nat :=
  let r := x.roundTo 11 (-24)
  let s := if r.neg then 0x8000 else 0
  if r.m = 0 then s
  else
    -- r = q × 2^-24 with q a natural number
    let q := if r.e ≥ -24 then r.m * 2 ^ (r.e + 24).toNat else r.m / 2 ^ (-24 - r.e).toNat
    if q < 1024 then s + q
    else
      let l := q.log2
      if 39 < l then s + 0x7BFF
      else s + ((l - 9) * 1024 + (q / 2 ^ (l - 10) - 1024))

/-- The value of an FP16 pattern as a layer decodes it: NaN is 0, infinities are ±65,504 (R202). -/
def ofHalf (h : Nat) : Fl :=
  let neg := bit h 15
  let ex : Nat := bits h 14 10
  let m := bits h 9 0
  if ex = 31 then (if m = 0 then ⟨neg, 65504, 0⟩ else zero)
  else if ex = 0 then ⟨neg, m, -24⟩
  else ⟨neg, 1024 + m, (ex : Int) - 25⟩

/-- v / d in binary32, for natural numbers (R202). -/
def frac (v d : Nat) : Fl := div (ofNat v) (ofNat d)

/-- Floor of x + 1/2: rounding half up to an integer. -/
def roundHalfUp (x : Fl) : Int := (addX x ⟨false, 1, -1⟩).floor

end Fl

/-! Transfer functions (R213). The device's result lies within one unit of binary16 of the exact function; the model
computes the exact function on a lattice of 24 significant bits and adds a free error within that bound. ST 2084's constants
are the standard's (PRESUMED, log entry 20). -/

/-- The value of an extended FP16 pattern with 13 more fraction bits: the binary32 values of FP16's range. -/
def fineValue (p : Nat) : Fl :=
  let ex : Nat := p / 2 ^ 23
  let m := p % 2 ^ 23
  if ex = 0 then ⟨false, m, -37⟩ else ⟨false, 2 ^ 23 + m, (ex : Int) - 38⟩

/-- The greatest extended pattern below 2^bits + lo whose value satisfies a downward-closed test. -/
def fineSearch (test : Fl → Bool) : Nat → Nat → Nat
  | 0, lo => lo
  | k + 1, lo => fineSearch test k (if test (fineValue (lo + 2 ^ k)) then lo + 2 ^ k else lo)

/-- m × 2^e ≤ n × 2^f for non-negative values. -/
def leX (a b : Fl) : Bool := !(b.lt a)

/-- Exact n-th power. -/
def powX (a : Fl) : Nat → Fl
  | 0 => Fl.one
  | n + 1 => (powX a n).mulX a

/-- Does y lie at or below the exact transfer of x (codes 1 to 3, 0 ≤ x ≤ 1)? -/
def belowTransfer (code : Nat) (x y : Fl) : Bool :=
  match code with
  | 1 =>
    -- 0.04045 = 4045 / 100000
    if leX ((Fl.ofNat 100000).mulX x) (Fl.ofNat 4045) then leX ((Fl.ofNat 1292).mulX y) ((Fl.ofNat 100).mulX x)
    else
      -- y^5 × 1055^12 ≤ (1000 x + 55)^12
      leX ((powX y 5).mulX (Fl.ofNat (1055 ^ 12))) (powX (((Fl.ofNat 1000).mulX x).addX (Fl.ofNat 55)) 12)
  | 2 => leX (powX y 5) (powX x 11)
  | _ => leX (powX y 5) (powX x 12)

/-! SMPTE ST 2084 (R213, code 4; PRESUMED, log entry 20): L / 10,000 = (max(t − c1, 0) / (c2 − c3 t))^(1 / m1) with
t = E^(1 / m2), m1 = 2610 / 16384, m2 = 2523 / 32, c1 = 3424 / 4096, c2 = 77216 / 4096, c3 = 76544 / 4096. -/

/-- The next bits of log₂ of v / 2^160, which lies in [1, 2), by squaring. -/
def lgBits : Nat → Nat → Nat → Nat
  | 0, _, acc => acc
  | k + 1, v, acc =>
    let s := v * v / 2 ^ 160
    if 2 ^ 161 ≤ s then lgBits k (s / 2) (2 * acc + 1) else lgBits k s (2 * acc)

/-- log₂ (a / b) of positive numbers in units of 2⁻⁶⁴, rounded down. -/
def lgFix (a b : Nat) : Int :=
  let k : Int := (a.log2 : Int) - b.log2
  let v := a * 2 ^ (160 + (-k).toNat) / (b * 2 ^ k.toNat)
  if 2 ^ 160 ≤ v then k * 2 ^ 64 + (lgBits 64 v 0 : Nat) else (k - 1) * 2 ^ 64 + (lgBits 64 (2 * v) 0 : Nat)

/-- The greatest number of n + 1 bits above lo that satisfies a downward-closed test. -/
def natSearch (test : Nat → Bool) : Nat → Nat → Nat
  | 0, lo => lo
  | k + 1, lo => natSearch test k (if test (lo + 2 ^ k) then lo + 2 ^ k else lo)

/-- log₂ of (L / 10,000)^m1 for a component E in [0, 1], in units of 2⁻⁶⁴; none: L is 0. -/
def pqLg (x : Fl) : Option Int :=
  if x.m = 0 then none
  else
    let lgE := if 0 ≤ x.e then lgFix (x.m * 2 ^ x.e.toNat) 1 else lgFix x.m (2 ^ (-x.e).toNat)
    let t := natSearch (fun t => decide (lgFix t (2 ^ 80) * 2523 ≤ lgE * 32)) 81 0
    if 4096 * t ≤ 3424 * 2 ^ 80 then none
    else some (lgFix (4096 * t - 3424 * 2 ^ 80) (77216 * 2 ^ 80 - 76544 * t))

/-- Does y lie at or below L / 203, from `pqLg`? -/
def belowPq (lgR : Option Int) (y : Fl) : Bool :=
  if y.m = 0 then true
  else match lgR with
    | none => false
    | some r =>
      let lgY := if 0 ≤ y.e then lgFix (203 * y.m * 2 ^ y.e.toNat) 10000 else lgFix (203 * y.m) (10000 * 2 ^ (-y.e).toNat)
      decide (lgY * 2610 ≤ r * 16384)

/-- The pattern that lies `err` − 8,190 steps of p's binade from p: one step is 2⁻¹³ of a unit of binary16 there, and
half a step of the next binade above. -/
def offBy (p err : Nat) : Nat :=
  let q := p + err - 8190
  let top := (p / 2 ^ 23 + 1) * 2 ^ 23
  if 2 ^ 23 ≤ p ∧ top < q then top + (q - top) / 2 else q

/-- Linear light of a component (R213). -/
def toLinear (code : Nat) (x : Fl) : Fl :=
  if code = 0 ∨ 5 ≤ code then x.clamp Fl.maxHalf.neg' Fl.maxHalf
  else
    let x := x.clamp Fl.zero Fl.one
    let lgR := if code = 4 then pqLg x else none
    let p := fineSearch (if code = 4 then belowPq lgR else belowTransfer code x) 29 0
    fineValue (offBy p (Config.transferError code x.m x.e % 16381))

end Sys2Proof.Machine
end

