-- ==== Sys2Proof/Machine/Crypto.lean ====
section
/-!
DEFINITION. The ciphers and signatures that the spec names by their standards and does not spell out: SHA-256 and
ECDSA P-256 of FIPS 186 (R60, R382), AES-256 key wrap of RFC 3394 (R383), AES-256-GCM of NIST SP 800-38D (R384,
R414). What is here is those standards as generally known (PRESUMED, log entry 13).
-/
namespace Sys2Proof.Machine

/-! SHA-256. -/

/-- The round constants. -/
def shaConstants : List Word :=
  [0x428a2f98, 0x71374491, 0xb5c0fbcf, 0xe9b5dba5, 0x3956c25b, 0x59f111f1, 0x923f82a4, 0xab1c5ed5,
   0xd807aa98, 0x12835b01, 0x243185be, 0x550c7dc3, 0x72be5d74, 0x80deb1fe, 0x9bdc06a7, 0xc19bf174,
   0xe49b69c1, 0xefbe4786, 0x0fc19dc6, 0x240ca1cc, 0x2de92c6f, 0x4a7484aa, 0x5cb0a9dc, 0x76f988da,
   0x983e5152, 0xa831c66d, 0xb00327c8, 0xbf597fc7, 0xc6e00bf3, 0xd5a79147, 0x06ca6351, 0x14292967,
   0x27b70a85, 0x2e1b2138, 0x4d2c6dfc, 0x53380d13, 0x650a7354, 0x766a0abb, 0x81c2c92e, 0x92722c85,
   0xa2bfe8a1, 0xa81a664b, 0xc24b8b70, 0xc76c51a3, 0xd192e819, 0xd6990624, 0xf40e3585, 0x106aa070,
   0x19a4c116, 0x1e376c08, 0x2748774c, 0x34b0bcb5, 0x391c0cb3, 0x4ed8aa4a, 0x5b9cca4f, 0x682e6ff3,
   0x748f82ee, 0x78a5636f, 0x84c87814, 0x8cc70208, 0x90befffa, 0xa4506ceb, 0xbef9a3f7, 0xc67178f2]

/-- The eight words before the first block. -/
def shaStart : List Word :=
  [0x6a09e667, 0xbb67ae85, 0x3c6ef372, 0xa54ff53a, 0x510e527f, 0x9b05688c, 0x1f83d9ab, 0x5be0cd19]

/-- The message with its padding: a one bit, zeros and the length in bits, to a whole number of 64-byte blocks. -/
def shaPadded (m : List Byte) : List Byte := m ++ 0x80 :: List.replicate ((119 - m.length % 64) % 64) 0 ++ toBe 8 (8 * m.length)

/-- The message schedule, newest word first, from the 16 words of a block. -/
def shaSchedule : Nat → List Word → List Word
  | 0, w => w
  | k + 1, w =>
    let s0 := fun (x : Word) => x.rotateRight 7 ^^^ x.rotateRight 18 ^^^ (x >>> 3)
    let s1 := fun (x : Word) => x.rotateRight 17 ^^^ x.rotateRight 19 ^^^ (x >>> 10)
    shaSchedule k ((s1 (w.getD 1 0) + w.getD 6 0 + s0 (w.getD 14 0) + w.getD 15 0) :: w)

/-- One round: the working variables, the round constant and the schedule word. -/
def shaRound (v : List Word) (kw : Word × Word) : List Word :=
  match v with
  | [a, b, c, d, e, f, g, h] =>
    let s1 := e.rotateRight 6 ^^^ e.rotateRight 11 ^^^ e.rotateRight 25
    let t1 := h + s1 + ((e &&& f) ^^^ (~~~e &&& g)) + kw.1 + kw.2
    let s0 := a.rotateRight 2 ^^^ a.rotateRight 13 ^^^ a.rotateRight 22
    [t1 + s0 + ((a &&& b) ^^^ (a &&& c) ^^^ (b &&& c)), a, b, c, d + t1, e, f, g]
  | _ => v

/-- The hash after one more block. -/
def shaBlock (h : List Word) (block : List Byte) : List Word :=
  let w := (List.range 16).map (fun i => BitVec.ofNat 32 (beNat (slice block (4 * i) 4)))
  let v := (shaConstants.zip (shaSchedule 48 w.reverse).reverse).foldl shaRound h
  h.zipWith (· + ·) v

/-- The SHA-256 digest, 32 bytes. -/
def sha256 (m : List Byte) : List Byte :=
  let p := shaPadded m
  ((List.range (p.length / 64)).foldl (fun h i => shaBlock h (slice p (64 * i) 64)) shaStart).flatMap
    (fun w => toBe 4 w.toNat)

/-! ECDSA over P-256. -/

/-- The field's prime. -/
def p256Prime : Nat := 0xFFFFFFFF00000001000000000000000000000000FFFFFFFFFFFFFFFFFFFFFFFF

/-- The order of the group. -/
def p256Order : Nat := 0xFFFFFFFF00000000FFFFFFFFFFFFFFFFBCE6FAADA7179E84F3B9CAC2FC632551

/-- The curve's constant b; its a is −3. -/
def p256B : Nat := 0x5AC635D8AA3A93E7B3EBBD55769886BC651D06B0CC53B0F63BCE3C3E27D2604B

/-- A point in Jacobian coordinates: (X / Z², Y / Z³); Z = 0 is the point at infinity. -/
abbrev JPoint := Nat × Nat × Nat

/-- The base point. -/
def p256Base : JPoint :=
  (0x6B17D1F2E12C4247F8BCE6E563A440F277037D812DEB33A0F4A13945D898C296,
   0x4FE342E2FE1A7F9B8EE7EB4A7C0F9E162BCE33576B315ECECBB6406837BF51F5, 1)

/-- x^e modulo m, over the low 256 bits of e. -/
def powMod (m x e : Nat) : Nat :=
  (List.range 256).reverse.foldl (fun a i => let q := a * a % m; if bit e i then q * x % m else q) 1

/-- Difference in the field. -/
def fieldSub (a b : Nat) : Nat := (a + p256Prime - b % p256Prime) % p256Prime

/-- Twice a point. -/
def pointDouble (q : JPoint) : JPoint :=
  let (x, y, z) := q
  let p := p256Prime
  let yy := y * y % p
  let s := 4 * x * yy % p
  let zz := z * z % p
  let m := 3 * fieldSub x zz * (x + zz) % p
  let x' := fieldSub (m * m) (2 * s)
  (x', fieldSub (m * fieldSub s x') (8 * yy * yy), 2 * y * z % p)

/-- The sum of two points. -/
def pointAdd (a b : JPoint) : JPoint :=
  let (x1, y1, z1) := a
  let (x2, y2, z2) := b
  let p := p256Prime
  if z1 = 0 then b
  else if z2 = 0 then a
  else
    let zz1 := z1 * z1 % p
    let zz2 := z2 * z2 % p
    let u1 := x1 * zz2 % p
    let h := fieldSub (x2 * zz1) u1
    let s1 := y1 * z2 * zz2 % p
    let r := fieldSub (y2 * z1 * zz1) s1
    if h = 0 then (if r = 0 then pointDouble a else (1, 1, 0))
    else
      let hh := h * h % p
      let v := u1 * hh % p
      let x := fieldSub (r * r) (hh * h + 2 * v)
      (x, fieldSub (r * fieldSub v x) (s1 * hh * h), h * z1 * z2 % p)

/-- k times a point. -/
def pointMul (k : Nat) (q : JPoint) : JPoint :=
  (List.range 256).reverse.foldl (fun a i => let t := pointDouble a; if bit k i then pointAdd t q else t) (1, 1, 0)

/-- Is (x, y) a point of the curve? -/
def onCurve (x y : Nat) : Bool :=
  decide (x < p256Prime ∧ y < p256Prime) &&
    y * y % p256Prime == fieldSub (x * x * x + p256B) (3 * x)

/-- Does a signature, r then s, verify under a public key, X then Y, with the SHA-256 digest of `message` (R60, R382)?
A key that is no point of the curve verifies nothing. -/
def signatureOk (key message sig : List Byte) : Bool :=
  let n := p256Order
  let r := beNat (slice sig 0 32)
  let s := beNat (slice sig 32 32)
  let x := beNat (slice key 0 32)
  let y := beNat (slice key 32 32)
  if r = 0 ∨ n ≤ r ∨ s = 0 ∨ n ≤ s ∨ !onCurve x y then false
  else
    let w := powMod n s (n - 2)
    let u1 := beNat (sha256 message) * w % n
    let u2 := r * w % n
    let q := pointAdd (pointMul u1 p256Base) (pointMul u2 (x, y, 1))
    q.2.2 != 0 && q.1 * powMod p256Prime (q.2.2 * q.2.2) (p256Prime - 2) % p256Prime % n == r

/-! AES-256. -/

/-- Twice each byte of a block in the field of AES. A block is a number, its first byte the most significant. -/
def xtimes (a : Nat) : Nat :=
  ((a &&& 0x7F7F7F7F7F7F7F7F7F7F7F7F7F7F7F7F) <<< 1) ^^^
    (((a >>> 7) &&& 0x01010101010101010101010101010101) * 0x1B)

/-- Each byte of a block times m, below 2^k, in the field of AES. -/
def gmul : Nat → Nat → Nat → Nat
  | 0, _, _ => 0
  | k + 1, a, m => (if m % 2 = 1 then a else 0) ^^^ gmul k (xtimes a) (m / 2)

/-- AES's substitution of a byte as a table: its row number is the byte's high half, and the bytes of a row are
written in the order of the low half. -/
def subTable : List Nat :=
  [0x637c777bf26b6fc53001672bfed7ab76, 0xca82c97dfa5947f0add4a2af9ca472c0,
   0xb7fd9326363ff7cc34a5e5f171d83115, 0x04c723c31896059a071280e2eb27b275,
   0x09832c1a1b6e5aa0523bd6b329e32f84, 0x53d100ed20fcb15b6acbbe394a4c58cf,
   0xd0efaafb434d338545f9027f503c9fa8, 0x51a3408f929d38f5bcb6da2110fff3d2,
   0xcd0c13ec5f974417c4a77e3d645d1973, 0x60814fdc222a908846eeb814de5e0bdb,
   0xe0323a0a4906245cc2d3ac629195e479, 0xe7c8376d8dd54ea96c56f4ea657aae08,
   0xba78252e1ca6b4c6e8dd741f4bbd8b8a, 0x703eb5664803f60e613557b986c11d9e,
   0xe1f8981169d98e949b1e87e9ce5528df, 0x8ca1890dbfe6426841992d0fb054bb16]

/-- The inverse substitution. -/
def unsubTable : List Nat :=
  [0x52096ad53036a538bf40a39e81f3d7fb, 0x7ce339829b2fff87348e4344c4dee9cb,
   0x547b9432a6c2233dee4c950b42fac34e, 0x082ea16628d924b2765ba2496d8bd125,
   0x72f8f66486689816d4a45ccc5d65b692, 0x6c704850fdedb9da5e154657a78d9d84,
   0x90d8ab008cbcd30af7e45805b8b34506, 0xd02c1e8fca3f0f02c1afbd0301138a6b,
   0x3a9111414f67dcea97f2cfcef0b4e673, 0x96ac7422e7ad3585e2f937e81c75df6e,
   0x47f11a711d29c5896fb7620eaa18be1b, 0xfc563e4bc6d279209adbc0fe78cd5af4,
   0x1fdda8338807c731b11210592780ec5f, 0x60517fa919b54a0d2de57a9f93c99cef,
   0xa0e03b4dae2af5b0c8ebbb3c83539961, 0x172b047eba77d626e169146355210c7d]

/-- The byte that a table gives for x. -/
def lookUp (table : List Nat) (x : Nat) : Nat := table.getD (x / 16) 0 >>> (8 * (15 - x % 16)) % 256

/-- XOR of two lists of bytes. -/
def xorBytes (a b : List Byte) : List Byte := a.zipWith (· ^^^ ·) b

/-- n bytes of a number substituted. -/
def subBytes (table : List Nat) (n a : Nat) : Nat :=
  (List.range n).foldl (fun x i => x * 256 + lookUp table (a >>> (8 * (n - 1 - i)) % 256)) 0

/-- The key schedule, newest word first: k more words, of number i on. -/
def aesSchedule : Nat → Nat → Nat → List Nat → List Nat
  | 0, _, _, w => w
  | k + 1, i, rcon, w =>
    let t := w.headD 0
    let t' := if i % 8 = 0 then subBytes subTable 4 (t % 2 ^ 24 * 256 + t / 2 ^ 24) ^^^ (rcon * 2 ^ 24)
      else if i % 8 = 4 then subBytes subTable 4 t else t
    aesSchedule k (i + 1) (if i % 8 = 0 then xtimes rcon else rcon) ((w.getD 7 0 ^^^ t') :: w)

/-- The 15 round keys of a 32-byte key. -/
def aesKeys (key : List Byte) : List Nat :=
  let k := slice (key ++ List.replicate 32 0) 0 32
  let w := (aesSchedule 52 8 1 ((List.range 8).map (fun i => beNat (slice k (4 * i) 4))).reverse).reverse
  (List.range 15).map fun i => ((w.drop (4 * i)).take 4).foldl (fun x y => x * 2 ^ 32 + y) 0

/-- Each column of a block turned up by j bytes. -/
def turnColumns (j a : Nat) : Nat :=
  let m := 2 ^ (8 * (4 - j)) - 1
  let low := m * 0x00000001000000010000000100000001
  ((a &&& low) <<< (8 * j)) ||| ((a >>> (8 * (4 - j))) &&& ((2 ^ (8 * j) - 1) * 0x00000001000000010000000100000001))

/-- The columns of a block multiplied by the circulant matrix whose first row is m. -/
def mixWith (m : List Nat) (a : Nat) : Nat := m.zipIdx.foldl (fun x p => x ^^^ gmul 4 (turnColumns p.2 a) p.1) 0

/-- The bytes of a block substituted and its rows shifted: byte i from byte i + `step` × row. -/
def shiftRows (table : List Nat) (step a : Nat) : Nat :=
  (List.range 16).foldl (fun x i =>
    x * 256 + lookUp table (a >>> (8 * (15 - (i + step * (i % 4)) % 16)) % 256)) 0

/-- A block enciphered under round keys. -/
def aesEncrypt (keys : List Nat) (block : Nat) : Nat :=
  (keys.zipIdx.drop 1).foldl (fun s k =>
    let t := shiftRows subTable 4 s
    (if k.2 = 14 then t else mixWith [2, 3, 1, 1] t) ^^^ k.1) (block ^^^ keys.headD 0)

/-- A block deciphered under round keys. -/
def aesDecrypt (keys : List Nat) (block : Nat) : Nat :=
  (keys.zipIdx.drop 1).foldr (fun k s =>
    let t := s ^^^ k.1
    shiftRows unsubTable 12 (if k.2 = 14 then t else mixWith [14, 11, 13, 9] t)) block ^^^ keys.headD 0

/-! AES key wrap. -/

/-- The steps of the unwrap from t down to 1: the check register and the blocks, in the order in which they are used,
last first. -/
def unwrapSteps (keys : List Nat) : Nat → Nat → List Nat → Nat × List Nat
  | 0, a, r => (a, r)
  | t + 1, a, r =>
    let b := aesDecrypt keys ((a ^^^ (t + 1)) * 2 ^ 64 + r.headD 0)
    unwrapSteps keys t (b / 2 ^ 64) (r.drop 1 ++ [b % 2 ^ 64])

/-- The 32-byte key that 40 bytes wrap, if the integrity check passes with the default initial value (R383). -/
def unwrapKey (kek wrapped : List Byte) : Option (List Byte) :=
  let r := unwrapSteps (aesKeys kek) 24 (beNat (slice wrapped 0 8))
    ((List.range 4).map (fun i => beNat (slice wrapped (32 - 8 * i) 8)))
  if r.1 = 0xA6A6A6A6A6A6A6A6 then some (r.2.reverse.flatMap (toBe 8)) else none

/-! AES-256-GCM with an IV of 12 bytes, here as the number that they form, most significant byte first. -/

/-- The product in GHASH's field, bit 0 the most significant. -/
def ghashMul (x y : Nat) : Nat :=
  ((List.range 128).foldl (fun (s : Nat × Nat) i =>
    (if bit x (127 - i) then s.1 ^^^ s.2 else s.1,
      if s.2 % 2 = 1 then (s.2 / 2) ^^^ (0xE1 * 2 ^ 120) else s.2 / 2)) (0, y)).1

/-- Bytes with zeros up to a multiple of 16. -/
def pad16 (l : List Byte) : List Byte := l ++ List.replicate ((16 - l.length % 16) % 16) 0

/-- The hash of whole blocks. -/
def ghash (h : Nat) (l : List Byte) : Nat :=
  (List.range (l.length / 16)).foldl (fun a i => ghashMul (a ^^^ beNat (slice l (16 * i) 16)) h) 0

/-- XOR with the key stream of a key and IV. -/
def gcmMix (keys : List Nat) (iv : Nat) (l : List Byte) : List Byte :=
  xorBytes l ((List.range (ceilDiv l.length 16)).flatMap (fun i => toBe 16 (aesEncrypt keys (iv * 2 ^ 32 + i + 2))))

/-- The 16-byte tag of additional data and ciphertext. -/
def gcmTagOf (keys : List Nat) (iv : Nat) (aad cipher : List Byte) : List Byte :=
  let s := ghash (aesEncrypt keys 0)
    (pad16 aad ++ pad16 cipher ++ toBe 8 (8 * aad.length) ++ toBe 8 (8 * cipher.length))
  toBe 16 (s ^^^ aesEncrypt keys (iv * 2 ^ 32 + 1))

/-- Ciphertext and tag (R384, R414). -/
def gcmSeal (key : List Byte) (iv : Nat) (aad plain : List Byte) : List Byte :=
  let keys := aesKeys key
  let c := gcmMix keys iv plain
  c ++ gcmTagOf keys iv aad c

/-- The plaintext of ciphertext and tag, if the tag verifies (R384, R414). -/
def gcmOpen (key : List Byte) (iv : Nat) (aad sealed : List Byte) : Option (List Byte) :=
  let keys := aesKeys key
  let n := sealed.length - 16
  let c := sealed.take n
  if sealed.drop n = gcmTagOf keys iv aad c then some (gcmMix keys iv c) else none

end Sys2Proof.Machine
end

