-- ==== Sys2Proof/Machine/RegTable.lean ====
section
/-!
DEFINITION. The register table: every direct register of chapter 17 with the fields, types, reset values and reset
classes its owning chapter gives (R8, R12), block by block, and every RX register of the indirect spaces (R131).
Written from the tables of spec/; `INVENTORY.md` lists the same rows with their rules.
-/
namespace Sys2Proof.Machine

/-- Register field types of R8. `seq` is SEQ of an RS register (R142); `fp` is a floorplan-owned RO field (R73). -/
inductive FieldType where
  | rw | ro | rs | seq | wo | wp | fp
  deriving DecidableEq, Repr

/-- Reset classes of R11; `fixed` is the class "—" of R12 (hard-wired or loaded from OTP). -/
inductive ResetClass where
  | por | crst | flr | hrst | srst | fixed
  deriving DecidableEq, Repr

/-- One field of a register: name, bits [hi:lo], type, reset value, reset class (R12). -/
structure FieldDef where
  name : String
  hi : Nat
  lo : Nat
  ty : FieldType
  rst : Nat
  cls : ResetClass
  deriving DecidableEq, Repr

/-- One row of a block's register table: the offset of the first instance, the strides and counts of its indexes
(outermost first), its fields. -/
structure RegRow where
  name : String
  off : Nat
  dims : List (Nat × Nat)
  fields : List FieldDef
  deriving DecidableEq, Repr

/-- The 18 kinds of register block (R523). -/
inductive Block where
  | SY | CH | GV | CL | FS | IC | TS | EV | SH | RP | AS | KY | CP | BX | CN | HD | DP | LE
  deriving DecidableEq, Repr

/-- The block that occupies a slot and its number among its kind; none: an unpopulated slot (R523, R524). -/
def blockOfSlot (s : Nat) : Option (Block × Nat) :=
  if 0 ≤ s ∧ s < 1 then some (.SY, s - 0)
  else if 1 ≤ s ∧ s < 2 then some (.CH, s - 1)
  else if 2 ≤ s ∧ s < 3 then some (.GV, s - 2)
  else if 3 ≤ s ∧ s < 4 then some (.CL, s - 3)
  else if 4 ≤ s ∧ s < 8 then some (.FS, s - 4)
  else if 8 ≤ s ∧ s < 9 then some (.IC, s - 8)
  else if 9 ≤ s ∧ s < 10 then some (.TS, s - 9)
  else if 10 ≤ s ∧ s < 11 then some (.EV, s - 10)
  else if 11 ≤ s ∧ s < 12 then some (.SH, s - 11)
  else if 12 ≤ s ∧ s < 14 then some (.RP, s - 12)
  else if 14 ≤ s ∧ s < 15 then some (.AS, s - 14)
  else if 15 ≤ s ∧ s < 16 then some (.KY, s - 15)
  else if 16 ≤ s ∧ s < 20 then some (.CP, s - 16)
  else if 20 ≤ s ∧ s < 22 then some (.BX, s - 20)
  else if 22 ≤ s ∧ s < 24 then some (.CN, s - 22)
  else if 32 ≤ s ∧ s < 40 then some (.HD, s - 32)
  else if 40 ≤ s ∧ s < 48 then some (.DP, s - 40)
  else if 64 ≤ s ∧ s < 128 then some (.LE, s - 64)
  else none

/-- The first slot of a block kind (R523). -/
def Block.base : Block → Nat
  | .SY => 0
  | .CH => 1
  | .GV => 2
  | .CL => 3
  | .FS => 4
  | .IC => 8
  | .TS => 9
  | .EV => 10
  | .SH => 11
  | .RP => 12
  | .AS => 14
  | .KY => 15
  | .CP => 16
  | .BX => 20
  | .CN => 22
  | .HD => 32
  | .DP => 40
  | .LE => 64

/-- How many blocks of a kind there are (R523). -/
def Block.count : Block → Nat
  | .SY => 1
  | .CH => 1
  | .GV => 1
  | .CL => 1
  | .FS => 4
  | .IC => 1
  | .TS => 1
  | .EV => 1
  | .SH => 1
  | .RP => 2
  | .AS => 1
  | .KY => 1
  | .CP => 4
  | .BX => 2
  | .CN => 2
  | .HD => 8
  | .DP => 8
  | .LE => 64

/-- SY registers of 04_register_interface.md (R2, R111, R112, R113, R114, R115, R157, R158). -/
def rowsSY0 : List RegRow := [
  ⟨"SY_DEVICE_ID", 0x0000, [], [⟨"PART", 31, 16, .ro, 0x8416, .fixed⟩, ⟨"STEP_MAJOR", 15, 12, .ro, 0xB, .fixed⟩, ⟨"STEP_MINOR", 11, 8, .ro, 1, .fixed⟩, ⟨"VARIANT", 7, 0, .ro, 0, .fixed⟩]⟩,
  ⟨"SY_RESET_CAUSE", 0x0040, [], [⟨"SEQ", 31, 24, .seq, 0, .por⟩, ⟨"SRST_REFUSED", 3, 3, .rs, 0, .crst⟩, ⟨"POR", 2, 2, .rs, 1, .por⟩, ⟨"CRST", 1, 1, .rs, 0, .por⟩, ⟨"FLR", 0, 0, .rs, 0, .crst⟩]⟩,
  ⟨"SY_HRST", 0x0044, [], [⟨"HEAD", 7, 0, .wp, 0, .flr⟩]⟩,
  ⟨"SY_SRST", 0x0048, [], [⟨"BLOCK", 19, 0, .wp, 0, .flr⟩]⟩,
  ⟨"SY_SRST_LE_LO", 0x004C, [], [⟨"LE", 31, 0, .wp, 0, .flr⟩]⟩,
  ⟨"SY_SRST_LE_HI", 0x0050, [], [⟨"LE", 31, 0, .wp, 0, .flr⟩]⟩,
  ⟨"SY_RESET_BUSY", 0x0054, [], [⟨"SRST_BUSY", 8, 8, .ro, 0, .por⟩, ⟨"HRST_BUSY", 7, 0, .ro, 0, .por⟩]⟩,
  ⟨"SY_BRINGUP", 0x0058, [], [⟨"READY", 15, 15, .ro, 0, .crst⟩, ⟨"PCIE_UP", 12, 12, .ro, 0, .crst⟩, ⟨"SERDES_UP", 10, 8, .ro, 0, .crst⟩, ⟨"FS_UP", 7, 4, .ro, 0, .crst⟩]⟩,
  ⟨"SY_FAULT_STATUS", 0x0080, [], [⟨"SEQ", 31, 24, .seq, 0, .flr⟩, ⟨"STAT_SAT", 3, 3, .rs, 0, .flr⟩, ⟨"CFG_PARITY", 2, 2, .rs, 0, .flr⟩, ⟨"LOCK_VIOLATION", 1, 1, .rs, 0, .flr⟩, ⟨"BUS_ERROR", 0, 0, .rs, 0, .flr⟩]⟩,
  ⟨"SY_BUSERR_INFO", 0x0084, [], [⟨"BAR", 29, 28, .ro, 0, .flr⟩, ⟨"WRITE", 27, 27, .ro, 0, .flr⟩, ⟨"SIZE", 26, 24, .ro, 0, .flr⟩, ⟨"CAUSE", 7, 0, .ro, 0, .flr⟩]⟩,
  ⟨"SY_BUSERR_ADDR", 0x0088, [], [⟨"ADDR", 31, 0, .ro, 0, .flr⟩]⟩,
  ⟨"SY_BUSERR_COUNT", 0x008C, [], [⟨"COUNT", 31, 0, .ro, 0, .flr⟩]⟩]

/-- SY registers of 04_register_interface.md (R158, R517). -/
def rowsSY1 : List RegRow := [
  ⟨"SY_LOCK_ADDR", 0x0090, [], [⟨"ADDR", 31, 0, .ro, 0, .flr⟩]⟩,
  ⟨"SY_LOCK_COUNT", 0x0094, [], [⟨"COUNT", 31, 0, .ro, 0, .flr⟩]⟩,
  ⟨"SY_STALE_CLEAR", 0x0098, [], [⟨"STALE_CLEAR", 31, 0, .ro, 0, .flr⟩]⟩,
  ⟨"SY_STALE_ADDR", 0x009C, [], [⟨"ADDR", 31, 0, .ro, 0, .flr⟩]⟩,
  ⟨"SY_PARITY_LOC", 0x00A0, [], [⟨"SLOT", 22, 16, .ro, 0, .flr⟩, ⟨"OFFSET", 15, 0, .ro, 0, .flr⟩]⟩,
  ⟨"SY_PARITY_COUNT", 0x00A4, [], [⟨"COUNT", 31, 0, .ro, 0, .flr⟩]⟩,
  ⟨"SY_PARITY_CTRL", 0x00A8, [], [⟨"INJECT", 31, 31, .wp, 0, .flr⟩, ⟨"TARGET", 22, 2, .rw, 0, .flr⟩]⟩,
  ⟨"SY_COMPAT_MISS", 0x00AC, [], [⟨"COUNT", 31, 0, .ro, 0, .flr⟩]⟩,
  ⟨"SY_THERMAL", 0x00C0, [], [⟨"TRIPPED", 31, 31, .ro, 0, .por⟩, ⟨"WARN", 16, 16, .ro, 0, .por⟩, ⟨"WARN_C", 15, 8, .rw, 0x64, .flr⟩, ⟨"TJ_C", 7, 0, .ro, 0, .por⟩]⟩]

/-- CH registers of 02_floorplan_image.md (R67, R68, R69, R70, R71, R72, R106, R107, R108, R109, R110). -/
def rowsCH0 : List RegRow := [
  ⟨"CH_LOAD_CTRL", 0x0000, [], [⟨"ABORT", 1, 1, .wp, 0, .flr⟩, ⟨"START", 0, 0, .wp, 0, .flr⟩]⟩,
  ⟨"CH_LOAD_DATA", 0x0004, [], [⟨"DATA", 31, 0, .rw, 0, .flr⟩]⟩,
  ⟨"CH_LOAD_STATUS", 0x0008, [], [⟨"SEQ", 31, 24, .seq, 0, .flr⟩, ⟨"CONFIGURED", 7, 7, .ro, 0, .crst⟩, ⟨"BUSY", 6, 6, .ro, 0, .crst⟩, ⟨"ZEROFILL", 5, 5, .ro, 0, .crst⟩, ⟨"KEY_LOCKED", 4, 4, .ro, 0, .crst⟩, ⟨"REJECTED", 3, 3, .rs, 0, .flr⟩, ⟨"ERROR", 2, 2, .rs, 0, .flr⟩, ⟨"DONE", 1, 1, .rs, 0, .flr⟩]⟩,
  ⟨"CH_LOAD_ERR", 0x000C, [], [⟨"SOURCE", 29, 28, .ro, 0, .flr⟩, ⟨"RECORD", 27, 16, .ro, 0, .flr⟩, ⟨"SECTION", 15, 8, .ro, 0, .flr⟩, ⟨"CODE", 7, 0, .ro, 0, .flr⟩]⟩,
  ⟨"CH_LOAD_COUNT", 0x0010, [], [⟨"BYTES", 15, 0, .ro, 0, .flr⟩]⟩,
  ⟨"CH_IMG_ID", 0x0014, [], [⟨"IMAGE_ID", 31, 0, .ro, 0, .crst⟩]⟩,
  ⟨"CH_IMG_HDR_CRC", 0x0018, [], [⟨"HDR_CRC", 31, 0, .ro, 0, .crst⟩]⟩,
  ⟨"CH_CHAIN_ADDR", 0x0020, [], [⟨"ENUM_DONE", 7, 7, .ro, 0, .crst⟩, ⟨"ADDR", 5, 0, .ro, 0, .crst⟩]⟩,
  ⟨"CH_CHAIN_STATUS", 0x0024, [], [⟨"SEQ", 31, 24, .seq, 0, .crst⟩, ⟨"CDONE_PIN", 10, 10, .ro, 0, .crst⟩, ⟨"CERR_PIN", 9, 9, .ro, 0, .crst⟩, ⟨"CERR_DRIVE", 8, 8, .ro, 0, .crst⟩, ⟨"STAT_SAT", 5, 5, .rs, 0, .crst⟩, ⟨"STALL", 4, 4, .rs, 0, .crst⟩, ⟨"EARLY", 3, 3, .rs, 0, .crst⟩, ⟨"HDR_BAD", 2, 2, .rs, 0, .crst⟩, ⟨"ENUM_ERR", 1, 0, .ro, 0, .crst⟩]⟩,
  ⟨"CH_CHAIN_CTRL", 0x0028, [], [⟨"CERR_RELEASE", 0, 0, .wp, 0, .flr⟩]⟩,
  ⟨"CH_STAGGER", 0x002C, [], [⟨"SLOT_MS", 3, 0, .rw, 5, .por⟩]⟩,
  ⟨"CH_CHAIN_FRAMES", 0x0030, [], [⟨"LOADED", 31, 16, .ro, 0, .crst⟩, ⟨"SEEN", 15, 0, .ro, 0, .crst⟩]⟩]

/-- GV registers of 08_governor.md (R283, R284, R285, R286, R287). -/
def rowsGV0 : List RegRow := [
  ⟨"GV_CTRL", 0x0000, [], [⟨"FORCE", 1, 1, .rw, 0, .srst⟩, ⟨"FLAT_EN", 0, 0, .rw, 1, .srst⟩]⟩,
  ⟨"GV_MODEL_CFG", 0x0004, [], [⟨"MARGIN_NS", 27, 16, .rw, 0x64, .srst⟩, ⟨"GUARD", 7, 0, .rw, 0x20, .srst⟩]⟩,
  ⟨"GV_FLAT_CFG", 0x0008, [], [⟨"STABLE_N", 7, 0, .rw, 8, .srst⟩]⟩,
  ⟨"GV_MODEL_CTRL", 0x000C, [], [⟨"RELEARN", 3, 0, .wp, 0, .srst⟩]⟩,
  ⟨"GV_STATUS", 0x0010, [], [⟨"SEQ", 31, 24, .seq, 0, .srst⟩, ⟨"STALE", 23, 20, .ro, 0, .crst⟩, ⟨"TABLE", 19, 16, .ro, 0xF, .crst⟩, ⟨"FORCED_ACTIVE", 9, 9, .ro, 0, .flr⟩, ⟨"SAFE", 8, 8, .ro, 0, .srst⟩, ⟨"STAT_SAT", 4, 4, .rs, 0, .srst⟩, ⟨"CAPTURE_ABORT", 3, 3, .rs, 0, .srst⟩, ⟨"FLAT_DISSOLVE", 2, 2, .rs, 0, .srst⟩, ⟨"MODEL_STALE", 1, 1, .rs, 0, .srst⟩, ⟨"REFUSED", 0, 0, .rs, 0, .srst⟩]⟩,
  ⟨"GV_VERDICT_HDn", 0x0040, [(4, 8)], [⟨"RESULT", 31, 28, .ro, 0, .srst⟩, ⟨"TRIGGER", 27, 24, .ro, 0, .srst⟩, ⟨"RES", 15, 8, .ro, 0, .srst⟩, ⟨"REASON", 7, 0, .ro, 0, .srst⟩]⟩,
  ⟨"GV_SHORT_DEMAND_HDn", 0x0180, [(8, 8)], [⟨"DEMAND", 31, 0, .ro, 0, .srst⟩]⟩,
  ⟨"GV_SHORT_CAP_HDn", 0x0184, [(8, 8)], [⟨"CAP", 31, 0, .ro, 0, .srst⟩]⟩,
  ⟨"GV_RES_FSs", 0x0080, [(4, 4)], [⟨"BPC", 15, 0, .ro, 0, .flr⟩]⟩,
  ⟨"GV_RES_LINK", 0x0090, [], [⟨"W2E", 31, 16, .ro, 0, .flr⟩, ⟨"E2W", 15, 0, .ro, 0, .flr⟩]⟩,
  ⟨"GV_RES_TAGS", 0x0094, [], [⟨"TAGS", 13, 0, .ro, 0, .flr⟩]⟩,
  ⟨"GV_MODEL_FSs", 0x00A0, [(4, 4)], [⟨"ADMIT_NS", 31, 16, .ro, 0x320, .crst⟩, ⟨"MODEL_NS", 15, 0, .ro, 0, .crst⟩]⟩]

/-- GV registers of 08_governor.md (R287, R288, R289, R290). -/
def rowsGV1 : List RegRow := [
  ⟨"GV_LEARN_FSs", 0x00B0, [(4, 4)], [⟨"EXCURSIONS", 9, 8, .ro, 0, .crst⟩, ⟨"FRAMES", 7, 0, .ro, 0, .crst⟩]⟩,
  ⟨"GV_TABLE_0", 0x00C0, [], [⟨"RHO_MAX", 31, 16, .ro, 0x80, .fixed⟩, ⟨"NS", 15, 0, .ro, 0x320, .fixed⟩]⟩,
  ⟨"GV_TABLE_1", 0x00C4, [], [⟨"RHO_MAX", 31, 16, .ro, 0x100, .fixed⟩, ⟨"NS", 15, 0, .ro, 0x3E8, .fixed⟩]⟩,
  ⟨"GV_TABLE_2", 0x00C8, [], [⟨"RHO_MAX", 31, 16, .ro, 0x180, .fixed⟩, ⟨"NS", 15, 0, .ro, 0x578, .fixed⟩]⟩,
  ⟨"GV_TABLE_3", 0x00CC, [], [⟨"RHO_MAX", 31, 16, .ro, 0x1C0, .fixed⟩, ⟨"NS", 15, 0, .ro, 0x708, .fixed⟩]⟩,
  ⟨"GV_ADMIT_COUNT", 0x00D0, [], [⟨"COUNT", 31, 0, .ro, 0, .srst⟩]⟩,
  ⟨"GV_REFUSE_COUNT", 0x00D4, [], [⟨"COUNT", 31, 0, .ro, 0, .srst⟩]⟩,
  ⟨"GV_FORCE_COUNT", 0x00D8, [], [⟨"COUNT", 31, 0, .ro, 0, .srst⟩]⟩,
  ⟨"GV_STALE_COUNT", 0x00DC, [], [⟨"COUNT", 31, 0, .ro, 0, .srst⟩]⟩,
  ⟨"GV_FLAT_COUNT", 0x00E0, [], [⟨"COUNT", 31, 0, .ro, 0, .srst⟩]⟩,
  ⟨"GV_DISSOLVE_COUNT", 0x00E4, [], [⟨"COUNT", 31, 0, .ro, 0, .srst⟩]⟩,
  ⟨"GV_FLATk_STATE", 0x0100, [(16, 8)], [⟨"STATE", 31, 28, .ro, 0, .srst⟩, ⟨"LAST", 27, 24, .ro, 0, .srst⟩, ⟨"HEAD", 18, 16, .ro, 0, .srst⟩, ⟨"CLEARING", 15, 8, .ro, 0, .srst⟩, ⟨"NODE", 5, 0, .ro, 0, .srst⟩]⟩]

/-- GV registers of 08_governor.md (R290). -/
def rowsGV2 : List RegRow := [
  ⟨"GV_FLATk_POS", 0x0104, [(16, 8)], [⟨"Y", 31, 16, .ro, 0, .srst⟩, ⟨"X", 15, 0, .ro, 0, .srst⟩]⟩,
  ⟨"GV_FLATk_SIZE", 0x0108, [(16, 8)], [⟨"H", 31, 16, .ro, 0, .srst⟩, ⟨"W", 15, 0, .ro, 0, .srst⟩]⟩,
  ⟨"GV_FLATk_SIG", 0x010C, [(16, 8)], [⟨"SIG", 31, 0, .ro, 0, .srst⟩]⟩]

/-- CL registers of 05_frame_store.md (R192, R193, R194, R195, R196). -/
def rowsCL0 : List RegRow := [
  ⟨"CL_ARB_WEIGHT", 0x0000, [], [⟨"HOST", 27, 24, .rw, 2, .flr⟩, ⟨"RP1", 23, 20, .rw, 4, .flr⟩, ⟨"RP0", 19, 16, .rw, 4, .flr⟩, ⟨"AS", 15, 12, .rw, 8, .flr⟩, ⟨"BX1", 11, 8, .rw, 2, .flr⟩, ⟨"BX0", 7, 4, .rw, 2, .flr⟩, ⟨"GV", 3, 0, .rw, 4, .flr⟩]⟩,
  ⟨"CL_TAG_STATUS", 0x0008, [], [⟨"HIGH_WATER", 30, 16, .ro, 0, .flr⟩, ⟨"INFLIGHT", 14, 0, .ro, 0, .flr⟩]⟩,
  ⟨"CL_TAG_CTRL", 0x000C, [], [⟨"HW_RESET", 0, 0, .wp, 0, .flr⟩]⟩,
  ⟨"CL_FAULT_STATUS", 0x0010, [], [⟨"SEQ", 31, 24, .seq, 0, .flr⟩, ⟨"STAT_SAT", 1, 1, .rs, 0, .flr⟩, ⟨"ACCESS_FAULT", 0, 0, .rs, 0, .flr⟩]⟩,
  ⟨"CL_FAULT_INFO", 0x0014, [], [⟨"WRITE", 31, 31, .ro, 0, .flr⟩, ⟨"REASON", 30, 28, .ro, 0, .flr⟩, ⟨"REQ", 27, 24, .ro, 0, .flr⟩, ⟨"LE", 21, 16, .ro, 0, .flr⟩, ⟨"CLEARING", 7, 0, .ro, 0, .flr⟩]⟩,
  ⟨"CL_FAULT_ADDR", 0x0018, [], [⟨"ADDR", 29, 0, .ro, 0, .flr⟩]⟩,
  ⟨"CL_FAULT_COUNT", 0x001C, [], [⟨"COUNT", 31, 0, .ro, 0, .flr⟩]⟩,
  ⟨"CL_WINn_CTRL", 0x0020, [(4, 4)], [⟨"CLEARING", 31, 24, .rw, 0, .flr⟩, ⟨"AUTO", 16, 16, .rw, 0, .flr⟩, ⟨"PAGE", 15, 0, .rw, 0, .flr⟩]⟩,
  ⟨"CL_Cccc_ATTR", 0x1000, [(16, 256)], [⟨"VALID", 31, 31, .fp, 0, .crst⟩, ⟨"OWNER", 19, 16, .fp, 0, .crst⟩, ⟨"HALF", 8, 8, .fp, 0, .crst⟩, ⟨"ATTR", 7, 0, .fp, 0, .crst⟩]⟩,
  ⟨"CL_Cccc_BASE", 0x1004, [(16, 256)], [⟨"BASE", 31, 0, .fp, 0, .crst⟩]⟩,
  ⟨"CL_Cccc_SIZE", 0x1008, [(16, 256)], [⟨"SIZE", 31, 0, .fp, 0, .crst⟩]⟩,
  ⟨"CL_Cccc_TAG", 0x100C, [(16, 256)], [⟨"RING_TAG", 15, 0, .fp, 0, .crst⟩]⟩]

/-- FS registers of 05_frame_store.md (R187, R188, R189, R190). -/
def rowsFS0 : List RegRow := [
  ⟨"FSn_STATE", 0x0000, [], [⟨"HOT", 3, 3, .ro, 0, .srst⟩, ⟨"SELF_REFRESH", 2, 2, .ro, 0, .srst⟩, ⟨"SAFE", 1, 1, .ro, 0, .srst⟩, ⟨"TRAINED", 0, 0, .ro, 0, .srst⟩]⟩,
  ⟨"FSn_SCRUB_CTRL", 0x0010, [], [⟨"WB_DEMAND", 8, 8, .rw, 1, .srst⟩, ⟨"PERIOD_H", 7, 0, .rw, 0x18, .srst⟩]⟩,
  ⟨"FSn_SCRUB_POS", 0x0014, [], [⟨"POS", 27, 0, .ro, 0, .srst⟩]⟩,
  ⟨"FSn_ERR_STATUS", 0x0020, [], [⟨"SEQ", 31, 24, .seq, 0, .srst⟩, ⟨"STAT_SAT", 4, 4, .rs, 0, .srst⟩, ⟨"UE_PARTIAL", 3, 3, .rs, 0, .srst⟩, ⟨"SCRUB_UE", 2, 2, .rs, 0, .srst⟩, ⟨"UE", 1, 1, .rs, 0, .srst⟩, ⟨"CE", 0, 0, .rs, 0, .srst⟩]⟩,
  ⟨"FSn_UE_ADDR", 0x0024, [], [⟨"ADDR", 29, 0, .ro, 0, .srst⟩]⟩,
  ⟨"FSn_CE_ADDR", 0x0028, [], [⟨"ADDR", 29, 0, .ro, 0, .srst⟩]⟩,
  ⟨"FSn_ERR_INFO", 0x002C, [], [⟨"CE_SYMBOL", 20, 16, .ro, 0, .srst⟩, ⟨"UE_LE", 13, 8, .ro, 0, .srst⟩, ⟨"UE_REQ", 3, 0, .ro, 0, .srst⟩]⟩,
  ⟨"FSn_CE_COUNT", 0x0030, [], [⟨"COUNT", 31, 0, .ro, 0, .srst⟩]⟩,
  ⟨"FSn_UE_COUNT", 0x0034, [], [⟨"COUNT", 31, 0, .ro, 0, .srst⟩]⟩,
  ⟨"FSn_SCRUB_PASSES", 0x0038, [], [⟨"COUNT", 31, 0, .ro, 0, .srst⟩]⟩,
  ⟨"FSn_RD_BURSTS", 0x0040, [(4, 2)], [⟨"COUNT", 31, 0, .ro, 0, .srst⟩]⟩,
  ⟨"FSn_WR_BURSTS", 0x0048, [(4, 2)], [⟨"COUNT", 31, 0, .ro, 0, .srst⟩]⟩]

/-- FS registers of 05_frame_store.md (R134, R135, R190). -/
def rowsFS1 : List RegRow := [
  ⟨"FSn_SCANOUT_BURSTS", 0x0050, [(4, 2)], [⟨"COUNT", 31, 0, .ro, 0, .srst⟩]⟩,
  ⟨"FSn_LAT_CTRL", 0x0060, [], [⟨"LAT_RESET", 0, 0, .wp, 0, .srst⟩]⟩,
  ⟨"FSn_IND_ADDR", 0x0FF0, [], [⟨"STRIDE", 23, 16, .rw, 1, .srst⟩, ⟨"ADDR", 15, 2, .rw, 0, .srst⟩]⟩,
  ⟨"FSn_IND_DATA", 0x0FF4, [], [⟨"DATA", 31, 0, .ro, 0, .srst⟩]⟩,
  ⟨"FSn_IND_STATUS", 0x0FF8, [], [⟨"TIMEOUT", 1, 1, .ro, 0, .srst⟩, ⟨"NOADDR", 0, 0, .ro, 0, .srst⟩]⟩]

/-- IC registers of 15_interrupts.md (R498, R499, R500). -/
def rowsIC0 : List RegRow := [
  ⟨"IC_PEND_w", 0x0000, [(4, 32)], [⟨"PEND", 31, 0, .rw, 0, .srst⟩]⟩,
  ⟨"IC_EN_w", 0x0080, [(4, 32)], [⟨"EN", 31, 0, .rw, 0, .srst⟩]⟩,
  ⟨"IC_STATUS", 0x0100, [], [⟨"SEQ", 31, 24, .seq, 0, .srst⟩, ⟨"SAFE", 8, 8, .ro, 0, .srst⟩, ⟨"STAT_SAT", 1, 1, .rs, 0, .srst⟩, ⟨"STACK_FAULT", 0, 0, .rs, 0, .srst⟩]⟩,
  ⟨"IC_EMPTY_CLAIM", 0x0104, [], [⟨"COUNT", 31, 0, .ro, 0, .srst⟩]⟩,
  ⟨"IC_FAULT_TARGETS", 0x0108, [], [⟨"FAULT", 15, 0, .ro, 0, .srst⟩]⟩,
  ⟨"IC_COAL_FLUSH", 0x0110, [], [⟨"FLUSH", 31, 1, .wp, 0, .srst⟩]⟩,
  ⟨"IC_Tt_CFG", 0x0200, [(16, 16)], [⟨"RESET", 8, 8, .wp, 0, .srst⟩, ⟨"SUBBITS", 2, 0, .rw, 0, .srst⟩]⟩,
  ⟨"IC_Tt_CLAIM", 0x0204, [(16, 16)], [⟨"CLAIM_PRIO", 31, 24, .ro, 0, .srst⟩, ⟨"SOURCE", 9, 0, .ro, 0x3FF, .srst⟩]⟩,
  ⟨"IC_Tt_COMPLETE", 0x0208, [(16, 16)], [⟨"SOURCE", 9, 0, .rw, 0x3FF, .srst⟩]⟩,
  ⟨"IC_Tt_STATE", 0x020C, [(16, 16)], [⟨"FAULT", 31, 31, .ro, 0, .srst⟩, ⟨"LINE", 30, 30, .ro, 0, .srst⟩, ⟨"DEPTH", 28, 24, .ro, 0, .srst⟩, ⟨"TOP_PRIO", 23, 16, .ro, 0, .srst⟩, ⟨"TOP_SRC", 9, 0, .ro, 0x3FF, .srst⟩]⟩,
  ⟨"IC_COALg", 0x0404, [(4, 31)], [⟨"TIME_US", 31, 16, .rw, 0, .srst⟩, ⟨"OPEN", 15, 15, .ro, 0, .srst⟩, ⟨"COUNT", 7, 0, .rw, 1, .srst⟩]⟩,
  ⟨"IC_WAKE_EN", 0x0500, [(4, 2)], [⟨"EN", 31, 0, .rw, 0, .por⟩]⟩]

/-- IC registers of 15_interrupts.md (R134, R135, R500, R501). -/
def rowsIC1 : List RegRow := [
  ⟨"IC_WAKE_CLR", 0x0508, [(4, 2)], [⟨"CLR", 31, 0, .wp, 0, .por⟩]⟩,
  ⟨"IC_WAKE_PIN", 0x0510, [], [⟨"EN", 0, 0, .rw, 0, .por⟩]⟩,
  ⟨"IC_IND_ADDR", 0x0FF0, [], [⟨"STRIDE", 23, 16, .rw, 1, .srst⟩, ⟨"ADDR", 15, 2, .rw, 0, .srst⟩]⟩,
  ⟨"IC_IND_DATA", 0x0FF4, [], [⟨"DATA", 31, 0, .ro, 0, .srst⟩]⟩,
  ⟨"IC_IND_STATUS", 0x0FF8, [], [⟨"TIMEOUT", 1, 1, .ro, 0, .srst⟩, ⟨"NOADDR", 0, 0, .ro, 0, .srst⟩]⟩,
  ⟨"IC_SRCs", 0x1000, [(4, 1024)], [⟨"LEVEL", 24, 24, .ro, 0, .srst⟩, ⟨"TARGET", 19, 16, .fp, 0xE, .crst⟩, ⟨"COAL", 12, 8, .rw, 0, .srst⟩, ⟨"PRIO", 7, 0, .rw, 0, .srst⟩]⟩,
  ⟨"IC_MSIXv_ADDR_LO", 0x2000, [(16, 14)], [⟨"ADDR", 31, 2, .rw, 0, .flr⟩]⟩,
  ⟨"IC_MSIXv_ADDR_HI", 0x2004, [(16, 14)], [⟨"ADDR", 31, 0, .rw, 0, .flr⟩]⟩,
  ⟨"IC_MSIXv_DATA", 0x2008, [(16, 14)], [⟨"DATA", 31, 0, .rw, 0, .flr⟩]⟩,
  ⟨"IC_MSIXv_CTRL", 0x200C, [(16, 14)], [⟨"MASK", 0, 0, .rw, 1, .flr⟩]⟩,
  ⟨"IC_PBA", 0x3000, [], [⟨"PENDING", 13, 0, .ro, 0, .flr⟩]⟩]

/-- TS registers of 14_time_and_events.md (R477, R478). -/
def rowsTS0 : List RegRow := [
  ⟨"TS_CTRL", 0x0000, [], [⟨"SLEW_PPM", 31, 16, .rw, 0x64, .srst⟩, ⟨"AUTO_ACTIVE", 1, 1, .rw, 0, .srst⟩, ⟨"ACTIVE", 0, 0, .rw, 0, .srst⟩]⟩,
  ⟨"TS_STATUS", 0x0004, [], [⟨"SEQ", 31, 24, .seq, 0, .srst⟩, ⟨"SLEWING", 20, 20, .ro, 0, .srst⟩, ⟨"ACTIVE_NOW", 16, 16, .ro, 0, .srst⟩, ⟨"EVENTS", 8, 0, .rs, 0, .srst⟩]⟩,
  ⟨"TS_SNAP", 0x0008, [], [⟨"SNAP", 0, 0, .wp, 0, .srst⟩]⟩,
  ⟨"TS_RAW", 0x0010, [(4, 2)], [⟨"RAW", 31, 0, .ro, 0, .crst⟩]⟩,
  ⟨"TS_SNAP_RAW", 0x0018, [(4, 2)], [⟨"RAW", 31, 0, .ro, 0, .srst⟩]⟩,
  ⟨"TS_SNAP_y_S_LO", 0x0020, [(16, 3)], [⟨"S", 31, 0, .ro, 0, .srst⟩]⟩,
  ⟨"TS_SNAP_y_S_HI", 0x0024, [(16, 3)], [⟨"S", 15, 0, .ro, 0, .srst⟩]⟩,
  ⟨"TS_SNAP_y_NS", 0x0028, [(16, 3)], [⟨"NS", 29, 0, .ro, 0, .srst⟩]⟩,
  ⟨"TS_CLOCK_ID_LO", 0x0050, [], [⟨"ID", 31, 0, .rw, 0xFE000000, .crst⟩]⟩,
  ⟨"TS_CLOCK_ID_HI", 0x0054, [], [⟨"ID", 31, 0, .rw, 0x24D56FF, .crst⟩]⟩,
  ⟨"TS_CALA_CTRL", 0x0100, [], [⟨"DOMAIN", 30, 24, .rw, 0, .srst⟩, ⟨"MODE", 9, 8, .rw, 0, .srst⟩]⟩,
  ⟨"TS_CALB_CTRL", 0x0180, [], [⟨"DOMAIN", 30, 24, .rw, 1, .srst⟩, ⟨"MODE", 9, 8, .rw, 0, .srst⟩]⟩]

/-- TS registers of 14_time_and_events.md (R478). -/
def rowsTS1 : List RegRow := [
  ⟨"TS_CALx_STATE", 0x0104, [(128, 2)], [⟨"STATE", 31, 28, .ro, 0, .flr⟩, ⟨"PORT0", 27, 24, .ro, 0, .flr⟩, ⟨"PORT1", 23, 20, .ro, 0, .flr⟩]⟩,
  ⟨"TS_CALx_GAIN", 0x0108, [(128, 2)], [⟨"KP", 31, 16, .rw, 0x8000, .srst⟩, ⟨"KI", 15, 0, .rw, 0x2000, .srst⟩]⟩,
  ⟨"TS_CALx_LOCK_CFG", 0x010C, [(128, 2)], [⟨"STEP_NS", 31, 16, .rw, 0x3E8, .srst⟩, ⟨"UNLOCK_NS", 15, 8, .rw, 0x64, .srst⟩, ⟨"LOCK_NS", 7, 0, .rw, 8, .srst⟩]⟩,
  ⟨"TS_CALx_RATE", 0x0110, [(128, 2)], [⟨"RATE", 31, 0, .rw, 0, .flr⟩]⟩,
  ⟨"TS_CALx_STEP_NS", 0x0114, [(128, 2)], [⟨"STEP", 31, 0, .rw, 0, .srst⟩]⟩,
  ⟨"TS_CALx_STEP_S", 0x0118, [(128, 2)], [⟨"STEP", 31, 0, .rw, 0, .srst⟩]⟩,
  ⟨"TS_CALx_CMD", 0x011C, [(128, 2)], [⟨"STEP", 1, 1, .wp, 0, .srst⟩, ⟨"SET", 0, 0, .wp, 0, .srst⟩]⟩,
  ⟨"TS_CALx_SET_S_LO", 0x0120, [(128, 2)], [⟨"S", 31, 0, .rw, 0, .srst⟩]⟩,
  ⟨"TS_CALx_SET_S_HI", 0x0124, [(128, 2)], [⟨"S", 15, 0, .rw, 0, .srst⟩]⟩,
  ⟨"TS_CALx_SET_NS", 0x0128, [(128, 2)], [⟨"NS", 29, 0, .rw, 0, .srst⟩]⟩,
  ⟨"TS_CALx_OFFSET", 0x012C, [(128, 2)], [⟨"THETA", 31, 0, .ro, 0, .flr⟩]⟩,
  ⟨"TS_CALx_INTEG", 0x0130, [(128, 2)], [⟨"I", 31, 0, .ro, 0, .flr⟩]⟩]

/-- TS registers of 14_time_and_events.md (R478, R479). -/
def rowsTS2 : List RegRow := [
  ⟨"TS_CALx_HINT_S_LO", 0x0138, [(128, 2)], [⟨"S", 31, 0, .rw, 0, .srst⟩]⟩,
  ⟨"TS_CALx_HINT_S_HI", 0x013C, [(128, 2)], [⟨"S", 15, 0, .rw, 0, .srst⟩]⟩,
  ⟨"TS_CALx_HINT_AGE", 0x0140, [(128, 2)], [⟨"VALID", 16, 16, .ro, 0, .srst⟩, ⟨"MS", 15, 0, .ro, 0xFFFF, .srst⟩]⟩,
  ⟨"TS_CALx_GM_ID_LO", 0x0148, [(128, 2)], [⟨"ID", 31, 0, .ro, 0, .flr⟩]⟩,
  ⟨"TS_CALx_GM_ID_HI", 0x014C, [(128, 2)], [⟨"ID", 31, 0, .ro, 0, .flr⟩]⟩,
  ⟨"TS_CALx_PRIO", 0x0150, [(128, 2)], [⟨"PRIORITY1", 31, 24, .rw, 0x80, .srst⟩, ⟨"PRIORITY2", 23, 16, .rw, 0x80, .srst⟩, ⟨"CLOCK_CLASS", 15, 8, .rw, 0xF8, .srst⟩, ⟨"ACCURACY", 7, 0, .rw, 0xFE, .srst⟩]⟩,
  ⟨"TS_CALx_STEP_COUNT", 0x0154, [(128, 2)], [⟨"COUNT", 31, 0, .ro, 0, .flr⟩]⟩,
  ⟨"TS_RPp_CFG", 0x0300, [(64, 2)], [⟨"EN", 31, 31, .rw, 1, .srst⟩, ⟨"ANN_TIMEOUT", 27, 24, .rw, 3, .srst⟩, ⟨"LOG_PDELAY", 23, 16, .rw, 0, .srst⟩, ⟨"LOG_ANNOUNCE", 15, 8, .rw, 0, .srst⟩, ⟨"LOG_SYNC", 7, 0, .rw, 0xFD, .srst⟩]⟩,
  ⟨"TS_RPp_ASYM", 0x0304, [(64, 2)], [⟨"PS", 31, 0, .rw, 0, .srst⟩]⟩,
  ⟨"TS_RPp_PDELAY", 0x0308, [(64, 2)], [⟨"NS", 31, 0, .ro, 0, .srst⟩]⟩,
  ⟨"TS_RPp_RX_MSGS", 0x0310, [(64, 2)], [⟨"COUNT", 31, 0, .ro, 0, .srst⟩]⟩,
  ⟨"TS_RPp_TX_MSGS", 0x0314, [(64, 2)], [⟨"COUNT", 31, 0, .ro, 0, .srst⟩]⟩]

/-- TS registers of 14_time_and_events.md (R479). -/
def rowsTS3 : List RegRow := [
  ⟨"TS_RPp_RX_DROP", 0x0318, [(64, 2)], [⟨"COUNT", 31, 0, .ro, 0, .srst⟩]⟩]

/-- EV registers of 14_time_and_events.md (R480, R481). -/
def rowsEV0 : List RegRow := [
  ⟨"EVnn_CTRL", 0x0000, [(64, 48)], [⟨"DISARM", 31, 31, .wp, 0, .srst⟩, ⟨"ARM", 30, 30, .wp, 0, .srst⟩, ⟨"POP", 29, 29, .wp, 0, .srst⟩, ⟨"FILTER", 27, 24, .rw, 0, .srst⟩, ⟨"NUMBER", 20, 16, .rw, 0, .srst⟩, ⟨"NOTICE_EN", 15, 15, .rw, 0, .srst⟩, ⟨"SKIP_LATE", 14, 14, .rw, 0, .srst⟩, ⟨"LEVEL", 13, 13, .rw, 0, .srst⟩, ⟨"POL", 12, 12, .rw, 0, .srst⟩, ⟨"EDGE", 9, 8, .rw, 0, .srst⟩, ⟨"CAL", 5, 4, .rw, 0, .srst⟩, ⟨"MODE", 2, 0, .rw, 0, .srst⟩]⟩,
  ⟨"EVnn_STATUS", 0x0004, [(64, 48)], [⟨"SEQ", 31, 24, .seq, 0, .srst⟩, ⟨"FIFO_LEVEL", 20, 16, .ro, 0, .srst⟩, ⟨"ARMED", 15, 15, .ro, 0, .srst⟩, ⟨"PIN", 14, 14, .ro, 0, .srst⟩, ⟨"EVENTS", 5, 0, .rs, 0, .srst⟩]⟩,
  ⟨"EVnn_START_NS", 0x0008, [(64, 48)], [⟨"NS", 29, 0, .rw, 0, .srst⟩]⟩,
  ⟨"EVnn_START_S", 0x000C, [(64, 48)], [⟨"S", 31, 0, .rw, 0, .srst⟩]⟩,
  ⟨"EVnn_PERIOD_NS", 0x0010, [(64, 48)], [⟨"NS", 31, 0, .rw, 0, .srst⟩]⟩,
  ⟨"EVnn_PERIOD_FRAC", 0x0014, [(64, 48)], [⟨"FRAC", 31, 0, .rw, 0, .srst⟩]⟩,
  ⟨"EVnn_WIDTH", 0x0018, [(64, 48)], [⟨"NS", 29, 0, .rw, 0, .srst⟩]⟩,
  ⟨"EVnn_COUNT", 0x001C, [(64, 48)], [⟨"COUNT", 31, 0, .rw, 0, .srst⟩]⟩,
  ⟨"EVnn_DELAY", 0x0020, [(64, 48)], [⟨"NS", 31, 0, .rw, 0, .srst⟩]⟩,
  ⟨"EVnn_CAP_INFO", 0x0024, [(64, 48)], [⟨"VALID", 31, 31, .ro, 0, .srst⟩, ⟨"LEVEL", 16, 16, .ro, 0, .srst⟩, ⟨"ERR", 1, 0, .ro, 0, .srst⟩]⟩,
  ⟨"EVnn_CAP_TS", 0x0028, [(64, 48)], [⟨"TS", 31, 0, .ro, 0, .srst⟩]⟩,
  ⟨"EVnn_LATE_NS", 0x0030, [(64, 48)], [⟨"NS", 29, 0, .ro, 0, .srst⟩]⟩]

/-- EV registers of 14_time_and_events.md (R481). -/
def rowsEV1 : List RegRow := [
  ⟨"EVnn_LATE_S", 0x0034, [(64, 48)], [⟨"S", 31, 0, .ro, 0, .srst⟩]⟩,
  ⟨"EVnn_EDGES", 0x0038, [(64, 48)], [⟨"COUNT", 31, 0, .ro, 0, .srst⟩]⟩,
  ⟨"EVnn_MISS", 0x003C, [(64, 48)], [⟨"COUNT", 31, 0, .ro, 0, .srst⟩]⟩]

/-- SH registers of 13_ring_network.md (R448, R453). -/
def rowsSH0 : List RegRow := [
  ⟨"SH_RING_CFG", 0x0000, [], [⟨"TIMEOUT_US", 27, 16, .rw, 0x32, .srst⟩, ⟨"RETRIES", 11, 8, .rw, 3, .srst⟩, ⟨"UNITS", 5, 0, .rw, 0, .srst⟩]⟩,
  ⟨"SH_STATUS", 0x0004, [], [⟨"SEQ", 31, 24, .seq, 0, .srst⟩, ⟨"SAFE", 17, 17, .ro, 0, .srst⟩, ⟨"EVENTS", 10, 0, .rs, 0, .srst⟩]⟩,
  ⟨"SH_NOTICE_STATUS", 0x0008, [], [⟨"SEQ", 31, 24, .seq, 0, .srst⟩, ⟨"NOTICE", 23, 0, .rs, 0, .srst⟩]⟩,
  ⟨"SH_NOTICE_TX", 0x000C, [], [⟨"GO", 31, 31, .wp, 0, .srst⟩, ⟨"DEST", 13, 8, .rw, 0, .srst⟩, ⟨"NUMBER", 4, 0, .rw, 0, .srst⟩]⟩,
  ⟨"SH_RMT_CTRL", 0x0010, [], [⟨"GO", 31, 31, .wp, 0, .srst⟩, ⟨"WRITE", 16, 16, .rw, 0, .srst⟩, ⟨"DEST", 13, 8, .rw, 0, .srst⟩]⟩,
  ⟨"SH_RMT_ADDR", 0x0014, [], [⟨"OFFSET", 23, 2, .rw, 0, .srst⟩]⟩,
  ⟨"SH_RMT_DATA", 0x0018, [], [⟨"DATA", 31, 0, .rw, 0, .srst⟩]⟩,
  ⟨"SH_RMT_STATUS", 0x001C, [], [⟨"BUSY", 8, 8, .ro, 0, .srst⟩, ⟨"RESULT", 3, 0, .ro, 0, .srst⟩]⟩,
  ⟨"SH_TILES_RX", 0x0020, [], [⟨"COUNT", 31, 0, .ro, 0, .srst⟩]⟩,
  ⟨"SH_LATE_COUNT", 0x0024, [], [⟨"COUNT", 31, 0, .ro, 0, .srst⟩]⟩,
  ⟨"SH_STALE_COUNT", 0x0028, [], [⟨"COUNT", 31, 0, .ro, 0, .srst⟩]⟩,
  ⟨"SH_RETRY_COUNT", 0x002C, [], [⟨"COUNT", 31, 0, .ro, 0, .srst⟩]⟩]

/-- SH registers of 13_ring_network.md (R448, R449, R450). -/
def rowsSH1 : List RegRow := [
  ⟨"SH_NOTICE_SRCn", 0x0040, [(8, 24)], [⟨"COUNT", 31, 16, .ro, 0, .srst⟩, ⟨"SRC", 5, 0, .ro, 0, .srst⟩]⟩,
  ⟨"SH_NOTICE_TIMEn", 0x0044, [(8, 24)], [⟨"TIME", 31, 0, .ro, 0, .srst⟩]⟩,
  ⟨"SH_TCc_CIR", 0x0100, [(16, 8)], [⟨"MBPS", 16, 0, .rw, 0, .srst⟩]⟩,
  ⟨"SH_TCc_PIR", 0x0104, [(16, 8)], [⟨"MBPS", 16, 0, .rw, 0x186A0, .srst⟩]⟩,
  ⟨"SH_TCc_CBS", 0x0108, [(16, 8)], [⟨"BYTES", 19, 0, .rw, 0, .srst⟩]⟩,
  ⟨"SH_TCc_PBS", 0x010C, [(16, 8)], [⟨"BYTES", 19, 0, .rw, 0x10000, .srst⟩]⟩,
  ⟨"SH_TCc_QUANTUM", 0x0180, [(4, 6)], [⟨"BYTES", 15, 0, .rw, 0x2420, .srst⟩]⟩,
  ⟨"SH_ALMp_CTRL", 0x0200, [(64, 2)], [⟨"CHANGE", 31, 31, .wp, 0, .srst⟩, ⟨"CANCEL", 30, 30, .wp, 0, .srst⟩, ⟨"PEND_COUNT", 24, 16, .rw, 0, .srst⟩, ⟨"CAL", 4, 4, .rw, 0, .srst⟩, ⟨"EN", 0, 0, .rw, 0, .srst⟩]⟩,
  ⟨"SH_ALMp_BASE_NS", 0x0208, [(64, 2)], [⟨"NS", 29, 0, .rw, 0, .srst⟩]⟩,
  ⟨"SH_ALMp_BASE_S", 0x020C, [(64, 2)], [⟨"S", 31, 0, .rw, 0, .srst⟩]⟩,
  ⟨"SH_ALMp_STATE", 0x0210, [(64, 2)], [⟨"PENDING", 31, 31, .ro, 0, .srst⟩, ⟨"RUNNING", 30, 30, .ro, 0, .srst⟩, ⟨"ERR", 29, 27, .ro, 0, .srst⟩, ⟨"OPER_BANK", 24, 24, .ro, 0, .srst⟩, ⟨"OPER_COUNT", 23, 8, .ro, 0, .srst⟩, ⟨"ENTRY", 7, 0, .ro, 0, .srst⟩]⟩,
  ⟨"SH_ALMp_START_NS", 0x0218, [(64, 2)], [⟨"NS", 29, 0, .ro, 0, .srst⟩]⟩]

/-- SH registers of 13_ring_network.md (R450, R451, R452). -/
def rowsSH2 : List RegRow := [
  ⟨"SH_ALMp_START_S", 0x021C, [(64, 2)], [⟨"S", 31, 0, .ro, 0, .srst⟩]⟩,
  ⟨"SH_ALMp_Bb_Ee", 0x1000, [(2048, 2), (1024, 2), (4, 256)], [⟨"GATES", 31, 24, .rw, 0xFF, .srst⟩, ⟨"INTERVAL", 23, 0, .rw, 0, .srst⟩]⟩,
  ⟨"SH_STRm_CTRL", 0x0400, [(32, 16)], [⟨"BAND_ROWS_M1", 31, 24, .rw, 0, .srst⟩, ⟨"CLEARING", 23, 16, .rw, 0, .srst⟩, ⟨"LE", 13, 8, .rw, 0, .srst⟩, ⟨"HEAD", 6, 4, .rw, 0, .srst⟩, ⟨"EN", 0, 0, .rw, 0, .srst⟩]⟩,
  ⟨"SH_STRm_BUF_OFF", 0x0404, [(32, 16)], [⟨"OFF", 29, 0, .rw, 0, .srst⟩]⟩,
  ⟨"SH_STRm_BUF_STRIDE", 0x0408, [(32, 16)], [⟨"STRIDE", 29, 0, .rw, 0, .srst⟩]⟩,
  ⟨"SH_STRm_PITCH", 0x040C, [(32, 16)], [⟨"PITCH", 19, 0, .rw, 0, .srst⟩]⟩,
  ⟨"SH_STRm_SIZE", 0x0410, [(32, 16)], [⟨"ROWS", 30, 16, .rw, 0, .srst⟩, ⟨"ROW_BYTES", 15, 0, .rw, 0, .srst⟩]⟩,
  ⟨"SH_STRm_STATE", 0x0414, [(32, 16)], [⟨"SFRAME", 31, 16, .ro, 0, .srst⟩, ⟨"ERR", 11, 8, .ro, 0, .srst⟩, ⟨"BANDS", 6, 0, .ro, 0, .srst⟩]⟩,
  ⟨"SH_STRm_LATE", 0x0418, [(32, 16)], [⟨"FRAME", 31, 16, .ro, 0, .srst⟩, ⟨"BAND", 5, 0, .ro, 0, .srst⟩]⟩,
  ⟨"SH_SRCs_CTRL", 0x0600, [(32, 8)], [⟨"BAND_ROWS_M1", 31, 24, .rw, 0, .srst⟩, ⟨"STREAM", 19, 16, .rw, 0, .srst⟩, ⟨"DEST", 13, 8, .rw, 0, .srst⟩, ⟨"HEAD", 6, 4, .rw, 0, .srst⟩, ⟨"AUTO", 2, 2, .rw, 0, .srst⟩, ⟨"SEND", 1, 1, .wp, 0, .srst⟩, ⟨"EN", 0, 0, .rw, 0, .srst⟩]⟩,
  ⟨"SH_SRCs_CLR", 0x0604, [(32, 8)], [⟨"CLEARING", 7, 0, .rw, 0, .srst⟩]⟩,
  ⟨"SH_SRCs_OFF", 0x0608, [(32, 8)], [⟨"OFF", 29, 0, .rw, 0, .srst⟩]⟩]

/-- SH registers of 13_ring_network.md (R452, R453). -/
def rowsSH3 : List RegRow := [
  ⟨"SH_SRCs_PITCH", 0x060C, [(32, 8)], [⟨"PITCH", 19, 0, .rw, 0, .srst⟩]⟩,
  ⟨"SH_SRCs_SIZE", 0x0610, [(32, 8)], [⟨"ROWS", 30, 16, .rw, 0, .srst⟩, ⟨"ROW_BYTES", 15, 0, .rw, 0, .srst⟩]⟩,
  ⟨"SH_SRCs_STATE", 0x0614, [(32, 8)], [⟨"FRAME", 31, 16, .rw, 0, .srst⟩, ⟨"BUSY", 8, 8, .ro, 0, .srst⟩, ⟨"ERR", 3, 0, .ro, 0, .srst⟩]⟩,
  ⟨"SH_RQk_CTRL", 0x0700, [(32, 4)], [⟨"DEST", 21, 16, .rw, 0, .srst⟩, ⟨"IRQ", 8, 8, .rw, 0, .srst⟩, ⟨"OP", 4, 4, .rw, 0, .srst⟩, ⟨"ABORT", 1, 1, .wp, 0, .srst⟩, ⟨"GO", 0, 0, .wp, 0, .srst⟩]⟩,
  ⟨"SH_RQk_TAGS", 0x0704, [(32, 4)], [⟨"REMOTE_TAG", 31, 16, .rw, 0, .srst⟩, ⟨"LOCAL_CLR", 7, 0, .rw, 0, .srst⟩]⟩,
  ⟨"SH_RQk_LOCAL_OFF", 0x0708, [(32, 4)], [⟨"OFF", 29, 0, .rw, 0, .srst⟩]⟩,
  ⟨"SH_RQk_REMOTE_OFF", 0x070C, [(32, 4)], [⟨"OFF", 29, 0, .rw, 0, .srst⟩]⟩,
  ⟨"SH_RQk_LENGTH", 0x0710, [(32, 4)], [⟨"BYTES", 25, 0, .rw, 0, .srst⟩]⟩,
  ⟨"SH_RQk_STATE", 0x0714, [(32, 4)], [⟨"STATE", 31, 28, .ro, 0, .srst⟩, ⟨"CODE", 7, 0, .ro, 0, .srst⟩]⟩,
  ⟨"SH_RQk_DONE_BYTES", 0x0718, [(32, 4)], [⟨"BYTES", 31, 0, .ro, 0, .srst⟩]⟩]

/-- RP registers of 13_ring_network.md (R134, R135, R446). -/
def rowsRP0 : List RegRow := [
  ⟨"RPn_CTRL", 0x0000, [], [⟨"RESTART", 8, 8, .wp, 0, .srst⟩, ⟨"EN", 0, 0, .rw, 1, .srst⟩]⟩,
  ⟨"RPn_STATUS", 0x0004, [], [⟨"SEQ", 31, 24, .seq, 0, .srst⟩, ⟨"SAFE", 18, 18, .ro, 0, .srst⟩, ⟨"FEC_LOCK", 17, 17, .ro, 0, .srst⟩, ⟨"LINK", 16, 16, .ro, 0, .srst⟩, ⟨"EVENTS", 5, 0, .rs, 0, .srst⟩]⟩,
  ⟨"RPn_DROP_INFO", 0x0008, [], [⟨"SRC", 13, 8, .ro, 0, .srst⟩, ⟨"CAUSE", 3, 0, .ro, 0, .srst⟩]⟩,
  ⟨"RPn_RX_FRAMES", 0x0010, [(4, 2)], [⟨"COUNT", 31, 0, .ro, 0, .srst⟩]⟩,
  ⟨"RPn_TX_FRAMES", 0x0018, [(4, 2)], [⟨"COUNT", 31, 0, .ro, 0, .srst⟩]⟩,
  ⟨"RPn_FCS_ERR", 0x0020, [], [⟨"COUNT", 31, 0, .ro, 0, .srst⟩]⟩,
  ⟨"RPn_DROP_COUNT", 0x0024, [], [⟨"COUNT", 31, 0, .ro, 0, .srst⟩]⟩,
  ⟨"RPn_TAG_FAIL_COUNT", 0x0028, [], [⟨"COUNT", 31, 0, .ro, 0, .srst⟩]⟩,
  ⟨"RPn_IND_ADDR", 0x0FF0, [], [⟨"STRIDE", 23, 16, .rw, 1, .srst⟩, ⟨"ADDR", 15, 2, .rw, 0, .srst⟩]⟩,
  ⟨"RPn_IND_DATA", 0x0FF4, [], [⟨"DATA", 31, 0, .ro, 0, .srst⟩]⟩,
  ⟨"RPn_IND_STATUS", 0x0FF8, [], [⟨"TIMEOUT", 1, 1, .ro, 0, .srst⟩, ⟨"NOADDR", 0, 0, .ro, 0, .srst⟩]⟩]

/-- AS registers of 12_cartridge_and_assets.md (R404, R405). -/
def rowsAS0 : List RegRow := [
  ⟨"AS_CTRL", 0x0000, [], [⟨"PACE", 0, 0, .rw, 1, .srst⟩]⟩,
  ⟨"AS_STATUS", 0x0004, [], [⟨"SEQ", 31, 24, .seq, 0, .srst⟩, ⟨"LANE_BUSY", 19, 16, .ro, 0, .srst⟩, ⟨"SAFE", 8, 8, .ro, 0, .srst⟩, ⟨"EVENTS", 3, 0, .rs, 0, .srst⟩]⟩,
  ⟨"AS_JOBS_OK", 0x0010, [], [⟨"COUNT", 31, 0, .ro, 0, .srst⟩]⟩,
  ⟨"AS_JOBS_ERR", 0x0014, [], [⟨"COUNT", 31, 0, .ro, 0, .srst⟩]⟩,
  ⟨"AS_TAG_FAIL", 0x0018, [], [⟨"COUNT", 31, 0, .ro, 0, .srst⟩]⟩,
  ⟨"AS_OUT_BYTES", 0x0020, [(4, 2)], [⟨"COUNT", 31, 0, .ro, 0, .srst⟩]⟩,
  ⟨"AS_JOBk_CTRL", 0x0400, [(128, 8)], [⟨"IRQ", 8, 8, .rw, 0, .srst⟩, ⟨"PORT", 5, 4, .rw, 0, .srst⟩, ⟨"ABORT", 1, 1, .wp, 0, .srst⟩, ⟨"GO", 0, 0, .wp, 0, .srst⟩]⟩,
  ⟨"AS_JOBk_LBA_LO", 0x0408, [(128, 8)], [⟨"LBA", 31, 0, .rw, 0, .srst⟩]⟩,
  ⟨"AS_JOBk_LBA_HI", 0x040C, [(128, 8)], [⟨"LBA", 15, 0, .rw, 0, .srst⟩]⟩,
  ⟨"AS_JOBk_DESTd_CLR", 0x0410, [(128, 8), (8, 4)], [⟨"VALID", 8, 8, .rw, 0, .srst⟩, ⟨"CLEARING", 7, 0, .rw, 0, .srst⟩]⟩,
  ⟨"AS_JOBk_DESTd_OFF", 0x0414, [(128, 8), (8, 4)], [⟨"OFF", 29, 0, .rw, 0, .srst⟩]⟩,
  ⟨"AS_JOBk_RESULT", 0x0430, [(128, 8)], [⟨"STATE", 31, 28, .ro, 0, .srst⟩, ⟨"LANE", 27, 26, .ro, 0, .srst⟩, ⟨"OWNER", 23, 20, .ro, 0, .srst⟩, ⟨"CODE", 7, 0, .ro, 0, .srst⟩]⟩]

/-- AS registers of 12_cartridge_and_assets.md (R405). -/
def rowsAS1 : List RegRow := [
  ⟨"AS_JOBk_PROGRESS", 0x0434, [(128, 8)], [⟨"ENTRY", 31, 24, .ro, 0, .srst⟩, ⟨"CHUNK", 15, 0, .ro, 0, .srst⟩]⟩,
  ⟨"AS_JOBk_OUT_BYTES", 0x0438, [(128, 8)], [⟨"COUNT", 31, 0, .ro, 0, .srst⟩]⟩,
  ⟨"AS_JOBk_ID_LO", 0x0440, [(128, 8)], [⟨"BUNDLE_ID", 31, 0, .ro, 0, .srst⟩]⟩,
  ⟨"AS_JOBk_ID_HI", 0x0444, [(128, 8)], [⟨"BUNDLE_ID", 31, 0, .ro, 0, .srst⟩]⟩]

/-- KY registers of 12_cartridge_and_assets.md (R406). -/
def rowsKY0 : List RegRow := [
  ⟨"KY_LOCKS", 0x0000, [], [⟨"PROG_DISABLE", 1, 1, .wo, 0, .fixed⟩, ⟨"REQ_SIGNED_FP", 0, 0, .wo, 0, .fixed⟩]⟩,
  ⟨"KY_STATUS", 0x0010, [], [⟨"SEQ", 31, 24, .seq, 0, .crst⟩, ⟨"PROG_DONE", 0, 0, .rs, 0, .crst⟩]⟩,
  ⟨"KY_SLOT_PROG", 0x0100, [], [⟨"PROGRAMMED", 25, 0, .wo, 0, .fixed⟩]⟩,
  ⟨"KY_SLOT_REVOKED", 0x0104, [], [⟨"REVOKED", 23, 0, .wo, 0, .fixed⟩]⟩,
  ⟨"KY_PROG_CTRL", 0x0200, [], [⟨"GO", 31, 31, .wp, 0, .crst⟩, ⟨"CMD", 25, 24, .rw, 0, .crst⟩, ⟨"PAGE", 15, 8, .rw, 0, .crst⟩, ⟨"SLOT", 5, 0, .rw, 0, .crst⟩]⟩,
  ⟨"KY_PROG_STATUS", 0x0204, [], [⟨"BUSY", 8, 8, .ro, 0, .crst⟩, ⟨"RESULT", 2, 0, .ro, 0, .crst⟩]⟩,
  ⟨"KY_PROG_DATAw", 0x0210, [(4, 16)], [⟨"DATA", 31, 0, .rw, 0, .crst⟩]⟩,
  ⟨"KY_PKs_w", 0x0400, [(64, 8), (4, 16)], [⟨"KEY", 31, 0, .wo, 0, .fixed⟩]⟩]

/-- CP registers of 12_cartridge_and_assets.md (R134, R135, R402). -/
def rowsCP0 : List RegRow := [
  ⟨"CPn_CTRL", 0x0000, [], [⟨"MAX_GEN", 5, 4, .rw, 3, .srst⟩, ⟨"LOG_REFRESH", 2, 2, .wp, 0, .srst⟩, ⟨"RESTART", 1, 1, .wp, 0, .srst⟩, ⟨"EN", 0, 0, .rw, 0, .srst⟩]⟩,
  ⟨"CPn_STATE", 0x0004, [], [⟨"QDEPTH", 23, 16, .ro, 0, .srst⟩, ⟨"REASON", 15, 12, .ro, 0, .srst⟩, ⟨"WIDTH", 10, 8, .ro, 0, .srst⟩, ⟨"GEN", 6, 4, .ro, 0, .srst⟩, ⟨"STATE", 2, 0, .ro, 0, .srst⟩]⟩,
  ⟨"CPn_STATUS", 0x0008, [], [⟨"SEQ", 31, 24, .seq, 0, .srst⟩, ⟨"EVENTS", 6, 0, .rs, 0, .srst⟩]⟩,
  ⟨"CPn_INFO", 0x000C, [], [⟨"MAX_READ_KIB", 31, 16, .ro, 0, .srst⟩, ⟨"LBA_SHIFT", 7, 0, .ro, 0, .srst⟩]⟩,
  ⟨"CPn_NSZE", 0x0010, [(4, 2)], [⟨"NSZE", 31, 0, .ro, 0, .srst⟩]⟩,
  ⟨"CPn_ERR", 0x0018, [], [⟨"OPC", 23, 16, .ro, 0, .srst⟩, ⟨"ADMIN", 15, 15, .ro, 0, .srst⟩, ⟨"SCT", 10, 8, .ro, 0, .srst⟩, ⟨"SC", 7, 0, .ro, 0, .srst⟩]⟩,
  ⟨"CPn_TIMEOUT", 0x001C, [], [⟨"MS", 15, 0, .rw, 0x3E8, .srst⟩]⟩,
  ⟨"CPn_READ_BYTES", 0x0020, [(4, 2)], [⟨"COUNT", 31, 0, .ro, 0, .srst⟩]⟩,
  ⟨"CPn_CMD_ERR_COUNT", 0x0028, [], [⟨"COUNT", 31, 0, .ro, 0, .srst⟩]⟩,
  ⟨"CPn_TIMEOUT_COUNT", 0x002C, [], [⟨"COUNT", 31, 0, .ro, 0, .srst⟩]⟩,
  ⟨"CPn_IND_ADDR", 0x0FF0, [], [⟨"STRIDE", 23, 16, .rw, 1, .srst⟩, ⟨"ADDR", 15, 2, .rw, 0, .srst⟩]⟩,
  ⟨"CPn_IND_DATA", 0x0FF4, [], [⟨"DATA", 31, 0, .ro, 0, .srst⟩]⟩]

/-- CP registers of 12_cartridge_and_assets.md (R135). -/
def rowsCP1 : List RegRow := [
  ⟨"CPn_IND_STATUS", 0x0FF8, [], [⟨"TIMEOUT", 1, 1, .ro, 0, .srst⟩, ⟨"NOADDR", 0, 0, .ro, 0, .srst⟩]⟩]

/-- BX registers of 11_block_copy.md (R368, R369, R370, R371, R372). -/
def rowsBX0 : List RegRow := [
  ⟨"BXn_CTRL", 0x0000, [], [⟨"DEAD", 23, 16, .rw, 0, .srst⟩, ⟨"ABORT", 2, 2, .wp, 0, .srst⟩, ⟨"RESUME", 1, 1, .wp, 0, .srst⟩, ⟨"PAUSE", 0, 0, .rw, 0, .srst⟩]⟩,
  ⟨"BXn_STATUS", 0x0004, [], [⟨"SEQ", 31, 24, .seq, 0, .srst⟩, ⟨"SAFE", 19, 19, .ro, 0, .srst⟩, ⟨"PAUSED", 18, 18, .ro, 0, .srst⟩, ⟨"HALTED", 17, 17, .ro, 0, .srst⟩, ⟨"BUSY", 16, 16, .ro, 0, .srst⟩, ⟨"EVENTS", 4, 0, .rs, 0, .srst⟩]⟩,
  ⟨"BXn_QUEUE", 0x0008, [], [⟨"COUNT", 20, 16, .ro, 0, .srst⟩, ⟨"TAIL", 11, 8, .ro, 0, .srst⟩, ⟨"HEAD", 3, 0, .ro, 0, .srst⟩]⟩,
  ⟨"BXn_SUBMIT", 0x000C, [], [⟨"GO", 0, 0, .wp, 0, .srst⟩]⟩,
  ⟨"BXn_ERR", 0x0010, [], [⟨"SLOT", 27, 24, .ro, 0, .srst⟩, ⟨"TICKET", 23, 16, .ro, 0, .srst⟩, ⟨"CODE", 7, 0, .ro, 0, .srst⟩]⟩,
  ⟨"BXn_ERR_ADDR", 0x0014, [], [⟨"ADDR", 29, 0, .ro, 0, .srst⟩]⟩,
  ⟨"BXn_TICKET", 0x0018, [], [⟨"SUBMITTED", 31, 16, .ro, 0, .srst⟩, ⟨"RETIRED", 15, 0, .ro, 0, .srst⟩]⟩,
  ⟨"BXn_CMD_COUNT", 0x0020, [], [⟨"COUNT", 31, 0, .ro, 0, .srst⟩]⟩,
  ⟨"BXn_ERR_COUNT", 0x0024, [], [⟨"COUNT", 31, 0, .ro, 0, .srst⟩]⟩,
  ⟨"BXn_BYTES", 0x0028, [(4, 2)], [⟨"COUNT", 31, 0, .ro, 0, .srst⟩]⟩,
  ⟨"BXn_Ss_CMD", 0x0800, [(128, 16)], [⟨"IRQ", 16, 16, .rw, 0, .srst⟩, ⟨"CLIP_EN", 15, 12, .rw, 0, .srst⟩, ⟨"Y_DIR", 9, 9, .rw, 0, .srst⟩, ⟨"X_DIR", 8, 8, .rw, 0, .srst⟩, ⟨"ESIZE", 5, 4, .rw, 0, .srst⟩, ⟨"OP", 3, 0, .rw, 0, .srst⟩]⟩,
  ⟨"BXn_Ss_CLR", 0x0804, [(128, 16)], [⟨"DST_CLR", 15, 8, .rw, 0, .srst⟩, ⟨"SRC_CLR", 7, 0, .rw, 0, .srst⟩]⟩]

/-- BX registers of 11_block_copy.md (R372). -/
def rowsBX1 : List RegRow := [
  ⟨"BXn_Ss_SRC_OFF", 0x0808, [(128, 16)], [⟨"OFF", 29, 0, .rw, 0, .srst⟩]⟩,
  ⟨"BXn_Ss_DST_OFF", 0x080C, [(128, 16)], [⟨"OFF", 29, 0, .rw, 0, .srst⟩]⟩,
  ⟨"BXn_Ss_SRC_PITCH", 0x0810, [(128, 16)], [⟨"PITCH", 19, 0, .rw, 0, .srst⟩]⟩,
  ⟨"BXn_Ss_DST_PITCH", 0x0814, [(128, 16)], [⟨"PITCH", 19, 0, .rw, 0, .srst⟩]⟩,
  ⟨"BXn_Ss_SIZE", 0x0818, [(128, 16)], [⟨"H", 30, 16, .rw, 0, .srst⟩, ⟨"W", 14, 0, .rw, 0, .srst⟩]⟩,
  ⟨"BXn_Ss_FILL", 0x0820, [(128, 16), (4, 2)], [⟨"FILL", 31, 0, .rw, 0, .srst⟩]⟩,
  ⟨"BXn_Ss_CLIPk_POS", 0x0840, [(128, 16), (8, 4)], [⟨"Y", 30, 16, .rw, 0, .srst⟩, ⟨"X", 14, 0, .rw, 0, .srst⟩]⟩,
  ⟨"BXn_Ss_CLIPk_SIZE", 0x0844, [(128, 16), (8, 4)], [⟨"H", 30, 16, .rw, 0, .srst⟩, ⟨"W", 14, 0, .rw, 0, .srst⟩]⟩]

/-- CN registers of 07_canopy.md (R255, R256, R257). -/
def rowsCN0 : List RegRow := [
  ⟨"CN_x_BNnn_CTRL", 0x0000, [(4, 32)], [⟨"NODE_ALPHA", 31, 16, .rw, 0x8000, .srst⟩, ⟨"OP", 3, 0, .rw, 3, .srst⟩]⟩,
  ⟨"CN_x_BNnn_CTRL_STG", 0x0100, [(4, 32)], [⟨"NODE_ALPHA", 31, 16, .rw, 0x8000, .srst⟩, ⟨"OP", 3, 0, .rw, 3, .srst⟩]⟩,
  ⟨"CN_x_BNnn_WIRE", 0x0200, [(4, 32)], [⟨"USED", 24, 24, .fp, 0, .crst⟩, ⟨"HEAD", 18, 16, .fp, 0, .crst⟩, ⟨"IN_B", 15, 8, .fp, 0xFF, .crst⟩, ⟨"IN_A", 7, 0, .fp, 0xFF, .crst⟩]⟩,
  ⟨"CN_x_ROOT", 0x0300, [], [⟨"ROOT", 31, 0, .fp, 0xFFFFFFFF, .crst⟩]⟩,
  ⟨"CN_x_BRIDGE_MAP", 0x0310, [(4, 2)], [⟨"SLOT", 31, 0, .fp, 0, .crst⟩]⟩,
  ⟨"CN_x_STATUS", 0x0320, [], [⟨"SEQ", 31, 24, .seq, 0, .srst⟩, ⟨"STAT_SAT", 1, 1, .rs, 0, .srst⟩, ⟨"BRIDGE_LATE", 0, 0, .rs, 0, .srst⟩]⟩,
  ⟨"CN_x_BRIDGE_LATE_COUNT", 0x0324, [], [⟨"COUNT", 31, 0, .ro, 0, .srst⟩]⟩]

/-- HD registers of 09_heads_and_scanout.md (R324, R325, R326). -/
def rowsHD0 : List RegRow := [
  ⟨"HDn_TIMING_HACT", 0x0000, [(256, 2)], [⟨"HACT", 12, 0, .rw, 0xF00, .hrst⟩]⟩,
  ⟨"HDn_TIMING_HTOTAL", 0x0004, [(256, 2)], [⟨"HTOTAL", 13, 0, .rw, 0x1130, .hrst⟩]⟩,
  ⟨"HDn_TIMING_HSYNC", 0x0008, [(256, 2)], [⟨"HPOL", 31, 31, .rw, 0, .hrst⟩, ⟨"HSW", 28, 16, .rw, 0x58, .hrst⟩, ⟨"HFP", 12, 0, .rw, 0xB0, .hrst⟩]⟩,
  ⟨"HDn_TIMING_VACT", 0x000C, [(256, 2)], [⟨"VACT", 12, 0, .rw, 0x870, .hrst⟩]⟩,
  ⟨"HDn_TIMING_VTOTAL", 0x0010, [(256, 2)], [⟨"VTOTAL", 13, 0, .rw, 0x8CA, .hrst⟩]⟩,
  ⟨"HDn_TIMING_VSYNC", 0x0014, [(256, 2)], [⟨"VPOL", 31, 31, .rw, 0, .hrst⟩, ⟨"VSW", 28, 16, .rw, 0xA, .hrst⟩, ⟨"VFP", 12, 0, .rw, 8, .hrst⟩]⟩,
  ⟨"HDn_TIMING_EVE", 0x0018, [(256, 2)], [⟨"EVE", 6, 0, .rw, 2, .hrst⟩]⟩,
  ⟨"HDn_TIMING_VRR", 0x001C, [(256, 2)], [⟨"VRR_EN", 31, 31, .rw, 0, .hrst⟩, ⟨"VTOTAL_MAX", 13, 0, .rw, 0, .hrst⟩]⟩,
  ⟨"HDn_CTRL", 0x0200, [], [⟨"STOP", 1, 1, .wp, 0, .hrst⟩, ⟨"START", 0, 0, .wp, 0, .hrst⟩]⟩,
  ⟨"HDn_COMMIT", 0x0204, [], [⟨"PAIR", 8, 8, .rw, 0, .hrst⟩, ⟨"CANCEL", 1, 1, .wp, 0, .hrst⟩, ⟨"ARM", 0, 0, .wp, 0, .hrst⟩]⟩,
  ⟨"HDn_STATUS", 0x0208, [], [⟨"SEQ", 31, 24, .seq, 0, .hrst⟩, ⟨"LOCK_STATE", 23, 21, .ro, 0, .hrst⟩, ⟨"SEALED", 20, 20, .ro, 0, .hrst⟩, ⟨"ARMED", 19, 19, .ro, 0, .hrst⟩, ⟨"RUN", 18, 16, .ro, 0, .hrst⟩, ⟨"EVENTS", 14, 0, .rs, 0, .hrst⟩]⟩,
  ⟨"HDn_CHECK", 0x020C, [], [⟨"CODE", 7, 0, .ro, 0, .hrst⟩]⟩]

/-- HD registers of 09_heads_and_scanout.md (R325, R327, R328). -/
def rowsHD1 : List RegRow := [
  ⟨"HDn_PIXCLK", 0x0210, [], [⟨"KHZ", 19, 0, .rw, 0x24414, .hrst⟩]⟩,
  ⟨"HDn_EVENT_CFG", 0x0214, [], [⟨"LINE_MATCH", 13, 0, .rw, 0, .hrst⟩]⟩,
  ⟨"HDn_SPLIT_CTRL", 0x0218, [], [⟨"LEADER", 0, 0, .rw, 0, .hrst⟩]⟩,
  ⟨"HDn_POS", 0x021C, [], [⟨"LINE", 29, 16, .ro, 0, .hrst⟩, ⟨"PX", 13, 0, .ro, 0, .hrst⟩]⟩,
  ⟨"HDn_FRAME_COUNT", 0x0220, [], [⟨"COUNT", 31, 0, .ro, 0, .hrst⟩]⟩,
  ⟨"HDn_UNDERRUN_INFO", 0x0224, [], [⟨"LINE", 29, 16, .ro, 0, .hrst⟩, ⟨"CAUSE", 2, 0, .ro, 0, .hrst⟩]⟩,
  ⟨"HDn_UNDERRUN_COUNT", 0x0228, [], [⟨"COUNT", 31, 0, .ro, 0, .hrst⟩]⟩,
  ⟨"HDn_FRZ_CTRL", 0x0240, [], [⟨"FREEZE_N", 15, 8, .rw, 0x3C, .hrst⟩, ⟨"EN", 0, 0, .rw, 0, .hrst⟩]⟩,
  ⟨"HDn_FRZ_WIN_POS", 0x0244, [], [⟨"Y", 29, 16, .rw, 0, .hrst⟩, ⟨"X", 13, 0, .rw, 0, .hrst⟩]⟩,
  ⟨"HDn_FRZ_WIN_SIZE", 0x0248, [], [⟨"H", 29, 16, .rw, 0, .hrst⟩, ⟨"W", 13, 0, .rw, 0, .hrst⟩]⟩,
  ⟨"HDn_FRZ_SIG", 0x024C, [], [⟨"SIG", 31, 0, .ro, 0, .hrst⟩]⟩,
  ⟨"HDn_FRZ_REF", 0x0250, [], [⟨"REF", 31, 0, .ro, 0, .hrst⟩]⟩]

/-- HD registers of 09_heads_and_scanout.md (R258, R259, R260, R261, R328, R329). -/
def rowsHD2 : List RegRow := [
  ⟨"HDn_FRZ_STATE", 0x0254, [], [⟨"COUNT", 15, 8, .ro, 0, .hrst⟩, ⟨"JUDGED", 2, 2, .ro, 0, .hrst⟩, ⟨"EPISODE", 1, 0, .ro, 0, .hrst⟩]⟩,
  ⟨"HDn_TLOCK_CTRL", 0x0280, [], [⟨"TRIM_MAX", 15, 8, .rw, 0x40, .hrst⟩, ⟨"TSTART", 4, 4, .rw, 0, .hrst⟩, ⟨"SKIP_LATE", 3, 3, .rw, 0, .hrst⟩, ⟨"JUMP", 2, 2, .rw, 0, .hrst⟩, ⟨"CAL", 1, 1, .rw, 0, .hrst⟩, ⟨"EN", 0, 0, .rw, 0, .hrst⟩]⟩,
  ⟨"HDn_TLOCK_PERIOD", 0x0284, [], [⟨"PERIOD", 31, 0, .rw, 0, .hrst⟩]⟩,
  ⟨"HDn_TLOCK_BASE_NS", 0x0288, [], [⟨"NS", 29, 0, .rw, 0, .hrst⟩]⟩,
  ⟨"HDn_TLOCK_BASE_S", 0x028C, [], [⟨"S", 31, 0, .rw, 0, .hrst⟩]⟩,
  ⟨"HDn_TLOCK_STATUS", 0x0290, [], [⟨"LOCKED", 31, 31, .ro, 0, .hrst⟩, ⟨"SKIPPED", 30, 30, .ro, 0, .hrst⟩, ⟨"ERR_NS", 19, 0, .ro, 0, .hrst⟩]⟩,
  ⟨"HDn_LATE_NS", 0x0298, [], [⟨"NS", 29, 0, .ro, 0, .hrst⟩]⟩,
  ⟨"HDn_LATE_S", 0x029C, [], [⟨"S", 31, 0, .ro, 0, .hrst⟩]⟩,
  ⟨"HDn_BG_COLOR", 0x0C00, [(256, 2)], [⟨"R", 29, 20, .rw, 0, .hrst⟩, ⟨"G", 19, 10, .rw, 0, .hrst⟩, ⟨"B", 9, 0, .rw, 0, .hrst⟩]⟩,
  ⟨"HDn_OC_CTRL", 0x0C04, [(256, 2)], [⟨"DITHER", 30, 29, .rw, 0, .hrst⟩, ⟨"OUT_BPC", 28, 28, .rw, 0, .hrst⟩, ⟨"RG_EXP", 26, 24, .rw, 0, .hrst⟩, ⟨"RG_BANK", 21, 21, .rw, 0, .hrst⟩, ⟨"RG_EN", 20, 20, .rw, 0, .hrst⟩, ⟨"L3_EXP", 18, 16, .rw, 0, .hrst⟩, ⟨"L3_BANK", 13, 13, .rw, 0, .hrst⟩, ⟨"L3_EN", 12, 12, .rw, 0, .hrst⟩, ⟨"BG_TRANSFER", 11, 9, .rw, 0, .hrst⟩, ⟨"MAT_EN", 8, 8, .rw, 0, .hrst⟩, ⟨"DG_EXP", 6, 4, .rw, 0, .hrst⟩, ⟨"DG_BANK", 1, 1, .rw, 0, .hrst⟩, ⟨"DG_EN", 0, 0, .rw, 0, .hrst⟩]⟩,
  ⟨"HDn_OC_MAT_rc", 0x0C08, [(256, 2), (4, 12)], [⟨"COEF", 19, 0, .rw, 0, .hrst⟩]⟩,
  ⟨"HDn_L3_PAGE", 0x0C40, [], [⟨"PAGE", 0, 0, .rw, 0, .hrst⟩]⟩]

/-- HD registers of 09_heads_and_scanout.md (R261, R262). -/
def rowsHD3 : List RegRow := [
  ⟨"HDn_BG_OUT", 0x0C44, [], [⟨"R", 29, 20, .ro, 0, .hrst⟩, ⟨"G", 19, 10, .ro, 0, .hrst⟩, ⟨"B", 9, 0, .ro, 0, .hrst⟩]⟩,
  ⟨"HDn_DGb_Cc", 0x1000, [(6144, 2), (2048, 3), (4, 512)], [⟨"ENTRY", 31, 0, .rw, 0, .hrst⟩]⟩,
  ⟨"HDn_RGb_Cc", 0x4000, [(6144, 2), (2048, 3), (4, 512)], [⟨"ENTRY", 31, 0, .rw, 0, .hrst⟩]⟩,
  ⟨"HDn_L3_Cc", 0x8000, [(10240, 3), (4, 2456)], [⟨"NODE", 31, 0, .rw, 0, .hrst⟩]⟩,
  ⟨"HDn_L3_Cc_LAST", 0xA660, [(10240, 3)], [⟨"NODE", 15, 0, .rw, 0, .hrst⟩]⟩]

/-- DP registers of 10_display_links.md (R348, R349, R350). -/
def rowsDP0 : List RegRow := [
  ⟨"DPn_LINK_CTRL", 0x0000, [], [⟨"ENABLE", 8, 8, .rw, 0, .hrst⟩, ⟨"LANES", 5, 4, .rw, 2, .hrst⟩, ⟨"RATE", 1, 0, .rw, 0, .hrst⟩]⟩,
  ⟨"DPn_TRAIN_CTRL", 0x0004, [], [⟨"PATTERN", 6, 4, .rw, 0, .hrst⟩, ⟨"MODE", 1, 1, .rw, 0, .hrst⟩, ⟨"TRAIN", 0, 0, .wp, 0, .hrst⟩]⟩,
  ⟨"DPn_TRAIN_DRIVE", 0x0008, [], [⟨"DRIVE", 15, 0, .rw, 0, .hrst⟩]⟩,
  ⟨"DPn_LINK_STATUS", 0x000C, [], [⟨"SEQ", 31, 24, .seq, 0, .hrst⟩, ⟨"STREAM", 19, 19, .ro, 0, .hrst⟩, ⟨"ENCRYPTING", 18, 18, .ro, 0, .hrst⟩, ⟨"HPD_LEVEL", 17, 17, .ro, 0, .hrst⟩, ⟨"TRAINED", 16, 16, .ro, 0, .hrst⟩, ⟨"EVENTS", 11, 0, .rs, 0, .hrst⟩]⟩,
  ⟨"DPn_TRAIN_RESULT", 0x0010, [], [⟨"CODE", 3, 0, .ro, 0, .hrst⟩]⟩,
  ⟨"DPn_LINK_CHECK", 0x0014, [], [⟨"CAUSE", 2, 0, .ro, 0, .hrst⟩]⟩,
  ⟨"DPn_AUX_CTRL", 0x0020, [], [⟨"GO", 31, 31, .wp, 0, .hrst⟩, ⟨"LEN", 11, 8, .rw, 0, .hrst⟩, ⟨"CMD", 3, 0, .rw, 0, .hrst⟩]⟩,
  ⟨"DPn_AUX_ADDR", 0x0024, [], [⟨"ADDR", 19, 0, .rw, 0, .hrst⟩]⟩,
  ⟨"DPn_AUX_DATAk", 0x0028, [(4, 4)], [⟨"DATA", 31, 0, .rw, 0, .hrst⟩]⟩,
  ⟨"DPn_AUX_STATUS", 0x0038, [], [⟨"TIMEOUT_US", 31, 16, .rw, 0x190, .hrst⟩, ⟨"BYTES", 12, 8, .ro, 0, .hrst⟩, ⟨"BUSY", 3, 3, .ro, 0, .hrst⟩, ⟨"REPLY", 2, 0, .ro, 0, .hrst⟩]⟩,
  ⟨"DPn_HPD_CTRL", 0x0040, [], [⟨"EN", 8, 8, .rw, 0, .hrst⟩, ⟨"SRC", 5, 0, .rw, 0, .hrst⟩]⟩,
  ⟨"DPn_SDP_CTRL", 0x0044, [], [⟨"HEADER", 31, 8, .rw, 0, .hrst⟩, ⟨"COLORIMETRY", 7, 1, .rw, 0, .hrst⟩, ⟨"SW_EN", 0, 0, .rw, 0, .hrst⟩]⟩]

/-- DP registers of 10_display_links.md (R350, R351, R352). -/
def rowsDP1 : List RegRow := [
  ⟨"DPn_SDP_DATAk", 0x0048, [(4, 8)], [⟨"DATA", 31, 0, .rw, 0, .hrst⟩]⟩,
  ⟨"DPn_DSC_CTRL", 0x0070, [], [⟨"BPP_X16", 24, 16, .rw, 0xC0, .hrst⟩, ⟨"SLICES", 5, 4, .rw, 0, .hrst⟩, ⟨"EN", 0, 0, .rw, 0, .hrst⟩]⟩,
  ⟨"DPn_DSC_SLICE", 0x0074, [], [⟨"SLICE_H", 12, 0, .rw, 8, .hrst⟩]⟩,
  ⟨"DPn_HDCP_CTRL", 0x0080, [], [⟨"AUTO_REAUTH", 13, 13, .rw, 0, .hrst⟩, ⟨"TYPE", 12, 12, .rw, 0, .hrst⟩, ⟨"ENC_EN", 8, 8, .rw, 0, .hrst⟩, ⟨"STOP_AUTH", 1, 1, .wp, 0, .hrst⟩, ⟨"AUTH", 0, 0, .wp, 0, .hrst⟩]⟩,
  ⟨"DPn_HDCP_STATUS", 0x0084, [], [⟨"TYPE_OK", 22, 21, .ro, 0, .hrst⟩, ⟨"DEVICE_COUNT", 20, 16, .ro, 0, .hrst⟩, ⟨"DEPTH", 14, 12, .ro, 0, .hrst⟩, ⟨"FLAGS", 11, 8, .ro, 0, .hrst⟩, ⟨"FAIL", 7, 4, .ro, 0, .hrst⟩, ⟨"STATE", 3, 0, .ro, 0, .hrst⟩]⟩,
  ⟨"DPn_HDCP_RXID_LO", 0x0088, [], [⟨"RXID", 31, 0, .ro, 0, .hrst⟩]⟩,
  ⟨"DPn_HDCP_RXID_HI", 0x008C, [], [⟨"RXID", 7, 0, .ro, 0, .hrst⟩]⟩,
  ⟨"DPn_DSC_PPSk", 0x0100, [(4, 32)], [⟨"PPS", 31, 0, .ro, 0, .hrst⟩]⟩,
  ⟨"DP0_SRM_CTRL", 0x0200, [], [⟨"LOAD", 31, 31, .wp, 0, .crst⟩, ⟨"VERSION", 15, 0, .ro, 0, .crst⟩]⟩,
  ⟨"DP0_SRM_BUF", 0x1000, [(4, 8192)], [⟨"DATA", 31, 0, .rw, 0, .crst⟩]⟩]

/-- LE registers of 06_layer_engines.md (R228, R229, R230). -/
def rowsLE0 : List RegRow := [
  ⟨"LEnn_CTRL", 0x0000, [], [⟨"CSITE_V", 18, 18, .rw, 0, .srst⟩, ⟨"CSITE_H", 17, 17, .rw, 0, .srst⟩, ⟨"CHROMA_FILT", 16, 16, .rw, 0, .srst⟩, ⟨"TRANSFER", 14, 12, .rw, 0, .srst⟩, ⟨"MATRIX_EN", 10, 10, .rw, 0, .srst⟩, ⟨"ALPHA_MODE", 9, 8, .rw, 0, .srst⟩, ⟨"EDGE_MODE", 5, 4, .rw, 0, .srst⟩, ⟨"COEF_BANK", 2, 2, .rw, 0, .srst⟩, ⟨"DIRTY", 1, 1, .ro, 0, .srst⟩, ⟨"ENABLE", 0, 0, .rw, 0, .srst⟩]⟩,
  ⟨"LEnn_CTRL_STG", 0x0100, [], [⟨"CSITE_V", 18, 18, .rw, 0, .srst⟩, ⟨"CSITE_H", 17, 17, .rw, 0, .srst⟩, ⟨"CHROMA_FILT", 16, 16, .rw, 0, .srst⟩, ⟨"TRANSFER", 14, 12, .rw, 0, .srst⟩, ⟨"MATRIX_EN", 10, 10, .rw, 0, .srst⟩, ⟨"ALPHA_MODE", 9, 8, .rw, 0, .srst⟩, ⟨"EDGE_MODE", 5, 4, .rw, 0, .srst⟩, ⟨"COEF_BANK", 2, 2, .rw, 0, .srst⟩, ⟨"DIRTY", 1, 1, .rw, 0, .srst⟩, ⟨"ENABLE", 0, 0, .rw, 0, .srst⟩]⟩,
  ⟨"LEnn_FORMAT", 0x0004, [(256, 2)], [⟨"FMT", 7, 0, .rw, 0, .srst⟩]⟩,
  ⟨"LEnn_SRC_BASE", 0x0008, [(256, 2), (4, 3)], [⟨"BASE", 29, 0, .rw, 0, .srst⟩]⟩,
  ⟨"LEnn_PITCH", 0x0014, [(256, 2), (4, 2)], [⟨"PITCH", 19, 0, .rw, 0, .srst⟩]⟩,
  ⟨"LEnn_SRC_SIZE", 0x001C, [(256, 2)], [⟨"SRC_H", 30, 16, .rw, 0, .srst⟩, ⟨"SRC_W", 14, 0, .rw, 0, .srst⟩]⟩,
  ⟨"LEnn_CROP_POS", 0x0020, [(256, 2)], [⟨"CROP_Y", 30, 16, .rw, 0, .srst⟩, ⟨"CROP_X", 14, 0, .rw, 0, .srst⟩]⟩,
  ⟨"LEnn_CROP_SIZE", 0x0024, [(256, 2)], [⟨"CROP_H", 30, 16, .rw, 0, .srst⟩, ⟨"CROP_W", 14, 0, .rw, 0, .srst⟩]⟩,
  ⟨"LEnn_DST_POS", 0x0028, [(256, 2)], [⟨"DST_Y", 31, 16, .rw, 0, .srst⟩, ⟨"DST_X", 15, 0, .rw, 0, .srst⟩]⟩,
  ⟨"LEnn_DST_SIZE", 0x002C, [(256, 2)], [⟨"DST_H", 28, 16, .rw, 0, .srst⟩, ⟨"DST_W", 12, 0, .rw, 0, .srst⟩]⟩,
  ⟨"LEnn_SCALE_MODE", 0x0030, [(256, 2)], [⟨"DEC_V", 13, 12, .rw, 0, .srst⟩, ⟨"DEC_H", 9, 8, .rw, 0, .srst⟩, ⟨"V_MODE", 5, 4, .rw, 0, .srst⟩, ⟨"H_MODE", 1, 0, .rw, 0, .srst⟩]⟩,
  ⟨"LEnn_STEP", 0x0034, [(256, 2), (4, 2)], [⟨"STEP", 21, 0, .rw, 0x100000, .srst⟩]⟩]

/-- LE registers of 06_layer_engines.md (R230, R231). -/
def rowsLE1 : List RegRow := [
  ⟨"LEnn_INIT", 0x003C, [(256, 2), (4, 2)], [⟨"INIT", 23, 0, .rw, 0, .srst⟩]⟩,
  ⟨"LEnn_PLANE_ALPHA", 0x0044, [(256, 2)], [⟨"PA", 15, 0, .rw, 0x8000, .srst⟩]⟩,
  ⟨"LEnn_CONST_COLOR", 0x0048, [(256, 2)], [⟨"R", 29, 20, .rw, 0, .srst⟩, ⟨"G", 19, 10, .rw, 0, .srst⟩, ⟨"B", 9, 0, .rw, 0, .srst⟩]⟩,
  ⟨"LEnn_MAT0", 0x004C, [(256, 2)], [⟨"M01", 30, 16, .rw, 0, .srst⟩, ⟨"M00", 14, 0, .rw, 0x1000, .srst⟩]⟩,
  ⟨"LEnn_MAT1", 0x0050, [(256, 2)], [⟨"OFF0", 30, 16, .rw, 0, .srst⟩, ⟨"M02", 14, 0, .rw, 0, .srst⟩]⟩,
  ⟨"LEnn_MAT2", 0x0054, [(256, 2)], [⟨"M11", 30, 16, .rw, 0x1000, .srst⟩, ⟨"M10", 14, 0, .rw, 0, .srst⟩]⟩,
  ⟨"LEnn_MAT3", 0x0058, [(256, 2)], [⟨"OFF1", 30, 16, .rw, 0, .srst⟩, ⟨"M12", 14, 0, .rw, 0, .srst⟩]⟩,
  ⟨"LEnn_MAT4", 0x005C, [(256, 2)], [⟨"M21", 30, 16, .rw, 0, .srst⟩, ⟨"M20", 14, 0, .rw, 0, .srst⟩]⟩,
  ⟨"LEnn_MAT5", 0x0060, [(256, 2)], [⟨"OFF2", 30, 16, .rw, 0, .srst⟩, ⟨"M22", 14, 0, .rw, 0x1000, .srst⟩]⟩,
  ⟨"LEnn_STATUS", 0x0200, [], [⟨"SEQ", 31, 24, .seq, 0, .srst⟩, ⟨"CFG_ERR", 23, 20, .ro, 0, .srst⟩, ⟨"FLATTENED", 17, 17, .ro, 0, .srst⟩, ⟨"ACTIVE", 16, 16, .ro, 0, .srst⟩, ⟨"STAT_SAT", 3, 3, .rs, 0, .srst⟩, ⟨"WITHDRAWN", 2, 2, .rs, 0, .srst⟩, ⟨"POISON", 1, 1, .rs, 0, .srst⟩, ⟨"FETCH_REFUSED", 0, 0, .rs, 0, .srst⟩]⟩,
  ⟨"LEnn_SIG", 0x0204, [], [⟨"SIG", 31, 0, .ro, 0, .srst⟩]⟩,
  ⟨"LEnn_SIG_INFO", 0x0208, [], [⟨"SIG_FRAME", 31, 16, .ro, 0, .srst⟩, ⟨"SIG_HELD", 1, 1, .ro, 0, .srst⟩, ⟨"SIG_VALID", 0, 0, .ro, 0, .srst⟩]⟩]

/-- LE registers of 06_layer_engines.md (R231, R232). -/
def rowsLE2 : List RegRow := [
  ⟨"LEnn_CACHE_INFO", 0x020C, [], [⟨"NEED_KIB", 31, 16, .ro, 0, .srst⟩, ⟨"CACHE_KIB", 15, 0, .fp, 0, .crst⟩]⟩,
  ⟨"LEnn_MAP", 0x0210, [], [⟨"BRIDGE", 8, 8, .fp, 0, .crst⟩, ⟨"MAPPED", 7, 7, .fp, 0, .crst⟩, ⟨"HEAD", 2, 0, .fp, 0, .crst⟩]⟩,
  ⟨"LEnn_BURSTS", 0x0218, [(4, 2)], [⟨"COUNT", 31, 0, .ro, 0, .srst⟩]⟩,
  ⟨"LEnn_FRAMES", 0x0220, [], [⟨"COUNT", 31, 0, .ro, 0, .srst⟩]⟩,
  ⟨"LEnn_REFUSED_COUNT", 0x0224, [], [⟨"COUNT", 31, 0, .ro, 0, .srst⟩]⟩,
  ⟨"LEnn_COEF_Hb_p_w", 0x1000, [(2048, 2), (16, 64), (4, 4)], [⟨"TAP_ODD", 29, 16, .rw, 0, .srst⟩, ⟨"TAP_EVEN", 13, 0, .rw, 0, .srst⟩]⟩,
  ⟨"LEnn_COEF_Vb_p_w", 0x1400, [(2048, 2), (12, 64), (4, 3)], [⟨"TAP_ODD", 29, 16, .rw, 0, .srst⟩, ⟨"TAP_EVEN", 13, 0, .rw, 0, .srst⟩]⟩]

/-- The register rows of a block kind. -/
def Block.rows : Block → List RegRow
  | .SY => rowsSY0 ++ rowsSY1
  | .CH => rowsCH0
  | .GV => rowsGV0 ++ rowsGV1 ++ rowsGV2
  | .CL => rowsCL0
  | .FS => rowsFS0 ++ rowsFS1
  | .IC => rowsIC0 ++ rowsIC1
  | .TS => rowsTS0 ++ rowsTS1 ++ rowsTS2 ++ rowsTS3
  | .EV => rowsEV0 ++ rowsEV1
  | .SH => rowsSH0 ++ rowsSH1 ++ rowsSH2 ++ rowsSH3
  | .RP => rowsRP0
  | .AS => rowsAS0 ++ rowsAS1
  | .KY => rowsKY0
  | .CP => rowsCP0 ++ rowsCP1
  | .BX => rowsBX0 ++ rowsBX1
  | .CN => rowsCN0
  | .HD => rowsHD0 ++ rowsHD1 ++ rowsHD2 ++ rowsHD3
  | .DP => rowsDP0 ++ rowsDP1
  | .LE => rowsLE0 ++ rowsLE1 ++ rowsLE2

/-- Registers of DP0 alone (R352). -/
def onlyDp0 : List String := ["DP0_SRM_CTRL", "DP0_SRM_BUF"]

/-- RX registers of a block kind, by indirect address (R131, R191, R403, R447, R501). -/
def Block.rxRows : Block → List RegRow
  | .FS => [⟨"FSn_LAT_MAX", 0x0000, [], [⟨"CLK", 15, 0, .ro, 0, .srst⟩]⟩, ⟨"FSn_TEMP", 0x0004, [], [⟨"DEG_C", 7, 0, .ro, 0, .srst⟩]⟩]
  | .IC => [⟨"IC_WAKE_LATCH", 0x0000, [(4, 2)], [⟨"LATCH", 31, 0, .ro, 0, .por⟩]⟩]
  | .RP => [⟨"RPn_FEC_CORR", 0x0000, [], [⟨"COUNT", 31, 0, .ro, 0, .srst⟩]⟩, ⟨"RPn_FEC_UNCORR", 0x0004, [], [⟨"COUNT", 31, 0, .ro, 0, .srst⟩]⟩, ⟨"RPn_SYM_ERR_Lk", 0x0010, [(4, 4)], [⟨"COUNT", 31, 0, .ro, 0, .srst⟩]⟩]
  | .CP => [⟨"CPn_SMART", 0x0000, [(4, 128)], [⟨"DATA", 31, 0, .ro, 0, .srst⟩]⟩, ⟨"CPn_ERRLOG", 0x0200, [(4, 16)], [⟨"DATA", 31, 0, .ro, 0, .srst⟩]⟩, ⟨"CPn_IDENT", 0x0400, [(4, 64)], [⟨"DATA", 31, 0, .ro, 0, .srst⟩]⟩]
  | _ => []

end Sys2Proof.Machine
end

