-- ==== Sys2Proof/Machine/RegNames.lean ====
section
/-!
DEFINITION. The names of the registers and of their fields (R5): the BAR0 offset of each register, and for each field
the register's offset with the field's bits. Indexes come in the order the register's name shows them: the block's
number first where there are several, then the bank (0 live, 1 staged, R6) of a staged register, then the others.
-/
namespace Sys2Proof.Machine

/-- A field of a register at a BAR0 offset: bits [hi:lo]. -/
structure Fld where
  addr : Nat
  hi : Nat
  lo : Nat
  deriving DecidableEq, Repr

namespace R

def SY_DEVICE_ID : Nat := 0x0
def SY_DEVICE_ID_PART : Fld := ⟨SY_DEVICE_ID, 31, 16⟩
def SY_DEVICE_ID_STEP_MAJOR : Fld := ⟨SY_DEVICE_ID, 15, 12⟩
def SY_DEVICE_ID_STEP_MINOR : Fld := ⟨SY_DEVICE_ID, 11, 8⟩
def SY_DEVICE_ID_VARIANT : Fld := ⟨SY_DEVICE_ID, 7, 0⟩
def SY_RESET_CAUSE : Nat := 0x40
def SY_RESET_CAUSE_SEQ : Fld := ⟨SY_RESET_CAUSE, 31, 24⟩
def SY_RESET_CAUSE_SRST_REFUSED : Fld := ⟨SY_RESET_CAUSE, 3, 3⟩
def SY_RESET_CAUSE_POR : Fld := ⟨SY_RESET_CAUSE, 2, 2⟩
def SY_RESET_CAUSE_CRST : Fld := ⟨SY_RESET_CAUSE, 1, 1⟩
def SY_RESET_CAUSE_FLR : Fld := ⟨SY_RESET_CAUSE, 0, 0⟩
def SY_HRST : Nat := 0x44
def SY_HRST_HEAD : Fld := ⟨SY_HRST, 7, 0⟩
def SY_SRST : Nat := 0x48
def SY_SRST_BLOCK : Fld := ⟨SY_SRST, 19, 0⟩
def SY_SRST_LE_LO : Nat := 0x4C
def SY_SRST_LE_LO_LE : Fld := ⟨SY_SRST_LE_LO, 31, 0⟩
def SY_SRST_LE_HI : Nat := 0x50
def SY_SRST_LE_HI_LE : Fld := ⟨SY_SRST_LE_HI, 31, 0⟩
def SY_RESET_BUSY : Nat := 0x54
def SY_RESET_BUSY_SRST_BUSY : Fld := ⟨SY_RESET_BUSY, 8, 8⟩
def SY_RESET_BUSY_HRST_BUSY : Fld := ⟨SY_RESET_BUSY, 7, 0⟩
def SY_BRINGUP : Nat := 0x58
def SY_BRINGUP_READY : Fld := ⟨SY_BRINGUP, 15, 15⟩
def SY_BRINGUP_PCIE_UP : Fld := ⟨SY_BRINGUP, 12, 12⟩
def SY_BRINGUP_SERDES_UP : Fld := ⟨SY_BRINGUP, 10, 8⟩
def SY_BRINGUP_FS_UP : Fld := ⟨SY_BRINGUP, 7, 4⟩
def SY_FAULT_STATUS : Nat := 0x80
def SY_FAULT_STATUS_SEQ : Fld := ⟨SY_FAULT_STATUS, 31, 24⟩
def SY_FAULT_STATUS_STAT_SAT : Fld := ⟨SY_FAULT_STATUS, 3, 3⟩
def SY_FAULT_STATUS_CFG_PARITY : Fld := ⟨SY_FAULT_STATUS, 2, 2⟩
def SY_FAULT_STATUS_LOCK_VIOLATION : Fld := ⟨SY_FAULT_STATUS, 1, 1⟩
def SY_FAULT_STATUS_BUS_ERROR : Fld := ⟨SY_FAULT_STATUS, 0, 0⟩
def SY_BUSERR_INFO : Nat := 0x84
def SY_BUSERR_INFO_BAR : Fld := ⟨SY_BUSERR_INFO, 29, 28⟩
def SY_BUSERR_INFO_WRITE : Fld := ⟨SY_BUSERR_INFO, 27, 27⟩
def SY_BUSERR_INFO_SIZE : Fld := ⟨SY_BUSERR_INFO, 26, 24⟩
def SY_BUSERR_INFO_CAUSE : Fld := ⟨SY_BUSERR_INFO, 7, 0⟩
def SY_BUSERR_ADDR : Nat := 0x88
def SY_BUSERR_ADDR_ADDR : Fld := ⟨SY_BUSERR_ADDR, 31, 0⟩
def SY_BUSERR_COUNT : Nat := 0x8C
def SY_BUSERR_COUNT_COUNT : Fld := ⟨SY_BUSERR_COUNT, 31, 0⟩
def SY_LOCK_ADDR : Nat := 0x90
def SY_LOCK_ADDR_ADDR : Fld := ⟨SY_LOCK_ADDR, 31, 0⟩
def SY_LOCK_COUNT : Nat := 0x94
def SY_LOCK_COUNT_COUNT : Fld := ⟨SY_LOCK_COUNT, 31, 0⟩
def SY_STALE_CLEAR : Nat := 0x98
def SY_STALE_CLEAR_STALE_CLEAR : Fld := ⟨SY_STALE_CLEAR, 31, 0⟩
def SY_STALE_ADDR : Nat := 0x9C
def SY_STALE_ADDR_ADDR : Fld := ⟨SY_STALE_ADDR, 31, 0⟩
def SY_PARITY_LOC : Nat := 0xA0
def SY_PARITY_LOC_SLOT : Fld := ⟨SY_PARITY_LOC, 22, 16⟩
def SY_PARITY_LOC_OFFSET : Fld := ⟨SY_PARITY_LOC, 15, 0⟩
def SY_PARITY_COUNT : Nat := 0xA4
def SY_PARITY_COUNT_COUNT : Fld := ⟨SY_PARITY_COUNT, 31, 0⟩
def SY_PARITY_CTRL : Nat := 0xA8
def SY_PARITY_CTRL_INJECT : Fld := ⟨SY_PARITY_CTRL, 31, 31⟩
def SY_PARITY_CTRL_TARGET : Fld := ⟨SY_PARITY_CTRL, 22, 2⟩
def SY_COMPAT_MISS : Nat := 0xAC
def SY_COMPAT_MISS_COUNT : Fld := ⟨SY_COMPAT_MISS, 31, 0⟩
def SY_THERMAL : Nat := 0xC0
def SY_THERMAL_TRIPPED : Fld := ⟨SY_THERMAL, 31, 31⟩
def SY_THERMAL_WARN : Fld := ⟨SY_THERMAL, 16, 16⟩
def SY_THERMAL_WARN_C : Fld := ⟨SY_THERMAL, 15, 8⟩
def SY_THERMAL_TJ_C : Fld := ⟨SY_THERMAL, 7, 0⟩
def CH_LOAD_CTRL : Nat := 0x10000
def CH_LOAD_CTRL_ABORT : Fld := ⟨CH_LOAD_CTRL, 1, 1⟩
def CH_LOAD_CTRL_START : Fld := ⟨CH_LOAD_CTRL, 0, 0⟩
def CH_LOAD_DATA : Nat := 0x10004
def CH_LOAD_DATA_DATA : Fld := ⟨CH_LOAD_DATA, 31, 0⟩
def CH_LOAD_STATUS : Nat := 0x10008
def CH_LOAD_STATUS_SEQ : Fld := ⟨CH_LOAD_STATUS, 31, 24⟩
def CH_LOAD_STATUS_CONFIGURED : Fld := ⟨CH_LOAD_STATUS, 7, 7⟩
def CH_LOAD_STATUS_BUSY : Fld := ⟨CH_LOAD_STATUS, 6, 6⟩
def CH_LOAD_STATUS_ZEROFILL : Fld := ⟨CH_LOAD_STATUS, 5, 5⟩
def CH_LOAD_STATUS_KEY_LOCKED : Fld := ⟨CH_LOAD_STATUS, 4, 4⟩
def CH_LOAD_STATUS_REJECTED : Fld := ⟨CH_LOAD_STATUS, 3, 3⟩
def CH_LOAD_STATUS_ERROR : Fld := ⟨CH_LOAD_STATUS, 2, 2⟩
def CH_LOAD_STATUS_DONE : Fld := ⟨CH_LOAD_STATUS, 1, 1⟩
def CH_LOAD_ERR : Nat := 0x1000C
def CH_LOAD_ERR_SOURCE : Fld := ⟨CH_LOAD_ERR, 29, 28⟩
def CH_LOAD_ERR_RECORD : Fld := ⟨CH_LOAD_ERR, 27, 16⟩
def CH_LOAD_ERR_SECTION : Fld := ⟨CH_LOAD_ERR, 15, 8⟩
def CH_LOAD_ERR_CODE : Fld := ⟨CH_LOAD_ERR, 7, 0⟩
def CH_LOAD_COUNT : Nat := 0x10010
def CH_LOAD_COUNT_BYTES : Fld := ⟨CH_LOAD_COUNT, 15, 0⟩
def CH_IMG_ID : Nat := 0x10014
def CH_IMG_ID_IMAGE_ID : Fld := ⟨CH_IMG_ID, 31, 0⟩
def CH_IMG_HDR_CRC : Nat := 0x10018
def CH_IMG_HDR_CRC_HDR_CRC : Fld := ⟨CH_IMG_HDR_CRC, 31, 0⟩
def CH_CHAIN_ADDR : Nat := 0x10020
def CH_CHAIN_ADDR_ENUM_DONE : Fld := ⟨CH_CHAIN_ADDR, 7, 7⟩
def CH_CHAIN_ADDR_ADDR : Fld := ⟨CH_CHAIN_ADDR, 5, 0⟩
def CH_CHAIN_STATUS : Nat := 0x10024
def CH_CHAIN_STATUS_SEQ : Fld := ⟨CH_CHAIN_STATUS, 31, 24⟩
def CH_CHAIN_STATUS_CDONE_PIN : Fld := ⟨CH_CHAIN_STATUS, 10, 10⟩
def CH_CHAIN_STATUS_CERR_PIN : Fld := ⟨CH_CHAIN_STATUS, 9, 9⟩
def CH_CHAIN_STATUS_CERR_DRIVE : Fld := ⟨CH_CHAIN_STATUS, 8, 8⟩
def CH_CHAIN_STATUS_STAT_SAT : Fld := ⟨CH_CHAIN_STATUS, 5, 5⟩
def CH_CHAIN_STATUS_STALL : Fld := ⟨CH_CHAIN_STATUS, 4, 4⟩
def CH_CHAIN_STATUS_EARLY : Fld := ⟨CH_CHAIN_STATUS, 3, 3⟩
def CH_CHAIN_STATUS_HDR_BAD : Fld := ⟨CH_CHAIN_STATUS, 2, 2⟩
def CH_CHAIN_STATUS_ENUM_ERR : Fld := ⟨CH_CHAIN_STATUS, 1, 0⟩
def CH_CHAIN_CTRL : Nat := 0x10028
def CH_CHAIN_CTRL_CERR_RELEASE : Fld := ⟨CH_CHAIN_CTRL, 0, 0⟩
def CH_STAGGER : Nat := 0x1002C
def CH_STAGGER_SLOT_MS : Fld := ⟨CH_STAGGER, 3, 0⟩
def CH_CHAIN_FRAMES : Nat := 0x10030
def CH_CHAIN_FRAMES_LOADED : Fld := ⟨CH_CHAIN_FRAMES, 31, 16⟩
def CH_CHAIN_FRAMES_SEEN : Fld := ⟨CH_CHAIN_FRAMES, 15, 0⟩
def GV_CTRL : Nat := 0x20000
def GV_CTRL_FORCE : Fld := ⟨GV_CTRL, 1, 1⟩
def GV_CTRL_FLAT_EN : Fld := ⟨GV_CTRL, 0, 0⟩
def GV_MODEL_CFG : Nat := 0x20004
def GV_MODEL_CFG_MARGIN_NS : Fld := ⟨GV_MODEL_CFG, 27, 16⟩
def GV_MODEL_CFG_GUARD : Fld := ⟨GV_MODEL_CFG, 7, 0⟩
def GV_FLAT_CFG : Nat := 0x20008
def GV_FLAT_CFG_STABLE_N : Fld := ⟨GV_FLAT_CFG, 7, 0⟩
def GV_MODEL_CTRL : Nat := 0x2000C
def GV_MODEL_CTRL_RELEARN : Fld := ⟨GV_MODEL_CTRL, 3, 0⟩
def GV_STATUS : Nat := 0x20010
def GV_STATUS_SEQ : Fld := ⟨GV_STATUS, 31, 24⟩
def GV_STATUS_STALE : Fld := ⟨GV_STATUS, 23, 20⟩
def GV_STATUS_TABLE : Fld := ⟨GV_STATUS, 19, 16⟩
def GV_STATUS_FORCED_ACTIVE : Fld := ⟨GV_STATUS, 9, 9⟩
def GV_STATUS_SAFE : Fld := ⟨GV_STATUS, 8, 8⟩
def GV_STATUS_STAT_SAT : Fld := ⟨GV_STATUS, 4, 4⟩
def GV_STATUS_CAPTURE_ABORT : Fld := ⟨GV_STATUS, 3, 3⟩
def GV_STATUS_FLAT_DISSOLVE : Fld := ⟨GV_STATUS, 2, 2⟩
def GV_STATUS_MODEL_STALE : Fld := ⟨GV_STATUS, 1, 1⟩
def GV_STATUS_REFUSED : Fld := ⟨GV_STATUS, 0, 0⟩
def GV_VERDICT_HDn (i : Nat) : Nat := 0x20040 + 4 * i
def GV_VERDICT_HDn_RESULT (i : Nat) : Fld := ⟨(GV_VERDICT_HDn i), 31, 28⟩
def GV_VERDICT_HDn_TRIGGER (i : Nat) : Fld := ⟨(GV_VERDICT_HDn i), 27, 24⟩
def GV_VERDICT_HDn_RES (i : Nat) : Fld := ⟨(GV_VERDICT_HDn i), 15, 8⟩
def GV_VERDICT_HDn_REASON (i : Nat) : Fld := ⟨(GV_VERDICT_HDn i), 7, 0⟩
def GV_SHORT_DEMAND_HDn (i : Nat) : Nat := 0x20180 + 8 * i
def GV_SHORT_DEMAND_HDn_DEMAND (i : Nat) : Fld := ⟨(GV_SHORT_DEMAND_HDn i), 31, 0⟩
def GV_SHORT_CAP_HDn (i : Nat) : Nat := 0x20184 + 8 * i
def GV_SHORT_CAP_HDn_CAP (i : Nat) : Fld := ⟨(GV_SHORT_CAP_HDn i), 31, 0⟩
def GV_RES_FSs (i : Nat) : Nat := 0x20080 + 4 * i
def GV_RES_FSs_BPC (i : Nat) : Fld := ⟨(GV_RES_FSs i), 15, 0⟩
def GV_RES_LINK : Nat := 0x20090
def GV_RES_LINK_W2E : Fld := ⟨GV_RES_LINK, 31, 16⟩
def GV_RES_LINK_E2W : Fld := ⟨GV_RES_LINK, 15, 0⟩
def GV_RES_TAGS : Nat := 0x20094
def GV_RES_TAGS_TAGS : Fld := ⟨GV_RES_TAGS, 13, 0⟩
def GV_MODEL_FSs (i : Nat) : Nat := 0x200A0 + 4 * i
def GV_MODEL_FSs_ADMIT_NS (i : Nat) : Fld := ⟨(GV_MODEL_FSs i), 31, 16⟩
def GV_MODEL_FSs_MODEL_NS (i : Nat) : Fld := ⟨(GV_MODEL_FSs i), 15, 0⟩
def GV_LEARN_FSs (i : Nat) : Nat := 0x200B0 + 4 * i
def GV_LEARN_FSs_EXCURSIONS (i : Nat) : Fld := ⟨(GV_LEARN_FSs i), 9, 8⟩
def GV_LEARN_FSs_FRAMES (i : Nat) : Fld := ⟨(GV_LEARN_FSs i), 7, 0⟩
def GV_TABLE_0 : Nat := 0x200C0
def GV_TABLE_0_RHO_MAX : Fld := ⟨GV_TABLE_0, 31, 16⟩
def GV_TABLE_0_NS : Fld := ⟨GV_TABLE_0, 15, 0⟩
def GV_TABLE_1 : Nat := 0x200C4
def GV_TABLE_1_RHO_MAX : Fld := ⟨GV_TABLE_1, 31, 16⟩
def GV_TABLE_1_NS : Fld := ⟨GV_TABLE_1, 15, 0⟩
def GV_TABLE_2 : Nat := 0x200C8
def GV_TABLE_2_RHO_MAX : Fld := ⟨GV_TABLE_2, 31, 16⟩
def GV_TABLE_2_NS : Fld := ⟨GV_TABLE_2, 15, 0⟩
def GV_TABLE_3 : Nat := 0x200CC
def GV_TABLE_3_RHO_MAX : Fld := ⟨GV_TABLE_3, 31, 16⟩
def GV_TABLE_3_NS : Fld := ⟨GV_TABLE_3, 15, 0⟩
def GV_ADMIT_COUNT : Nat := 0x200D0
def GV_ADMIT_COUNT_COUNT : Fld := ⟨GV_ADMIT_COUNT, 31, 0⟩
def GV_REFUSE_COUNT : Nat := 0x200D4
def GV_REFUSE_COUNT_COUNT : Fld := ⟨GV_REFUSE_COUNT, 31, 0⟩
def GV_FORCE_COUNT : Nat := 0x200D8
def GV_FORCE_COUNT_COUNT : Fld := ⟨GV_FORCE_COUNT, 31, 0⟩
def GV_STALE_COUNT : Nat := 0x200DC
def GV_STALE_COUNT_COUNT : Fld := ⟨GV_STALE_COUNT, 31, 0⟩
def GV_FLAT_COUNT : Nat := 0x200E0
def GV_FLAT_COUNT_COUNT : Fld := ⟨GV_FLAT_COUNT, 31, 0⟩
def GV_DISSOLVE_COUNT : Nat := 0x200E4
def GV_DISSOLVE_COUNT_COUNT : Fld := ⟨GV_DISSOLVE_COUNT, 31, 0⟩
def GV_FLAT_STATE (i : Nat) : Nat := 0x20100 + 16 * i
def GV_FLAT_STATE_STATE (i : Nat) : Fld := ⟨(GV_FLAT_STATE i), 31, 28⟩
def GV_FLAT_STATE_LAST (i : Nat) : Fld := ⟨(GV_FLAT_STATE i), 27, 24⟩
def GV_FLAT_STATE_HEAD (i : Nat) : Fld := ⟨(GV_FLAT_STATE i), 18, 16⟩
def GV_FLAT_STATE_CLEARING (i : Nat) : Fld := ⟨(GV_FLAT_STATE i), 15, 8⟩
def GV_FLAT_STATE_NODE (i : Nat) : Fld := ⟨(GV_FLAT_STATE i), 5, 0⟩
def GV_FLAT_POS (i : Nat) : Nat := 0x20104 + 16 * i
def GV_FLAT_POS_Y (i : Nat) : Fld := ⟨(GV_FLAT_POS i), 31, 16⟩
def GV_FLAT_POS_X (i : Nat) : Fld := ⟨(GV_FLAT_POS i), 15, 0⟩
def GV_FLAT_SIZE (i : Nat) : Nat := 0x20108 + 16 * i
def GV_FLAT_SIZE_H (i : Nat) : Fld := ⟨(GV_FLAT_SIZE i), 31, 16⟩
def GV_FLAT_SIZE_W (i : Nat) : Fld := ⟨(GV_FLAT_SIZE i), 15, 0⟩
def GV_FLAT_SIG (i : Nat) : Nat := 0x2010C + 16 * i
def GV_FLAT_SIG_SIG (i : Nat) : Fld := ⟨(GV_FLAT_SIG i), 31, 0⟩
def CL_ARB_WEIGHT : Nat := 0x30000
def CL_ARB_WEIGHT_HOST : Fld := ⟨CL_ARB_WEIGHT, 27, 24⟩
def CL_ARB_WEIGHT_RP1 : Fld := ⟨CL_ARB_WEIGHT, 23, 20⟩
def CL_ARB_WEIGHT_RP0 : Fld := ⟨CL_ARB_WEIGHT, 19, 16⟩
def CL_ARB_WEIGHT_AS : Fld := ⟨CL_ARB_WEIGHT, 15, 12⟩
def CL_ARB_WEIGHT_BX1 : Fld := ⟨CL_ARB_WEIGHT, 11, 8⟩
def CL_ARB_WEIGHT_BX0 : Fld := ⟨CL_ARB_WEIGHT, 7, 4⟩
def CL_ARB_WEIGHT_GV : Fld := ⟨CL_ARB_WEIGHT, 3, 0⟩
def CL_TAG_STATUS : Nat := 0x30008
def CL_TAG_STATUS_HIGH_WATER : Fld := ⟨CL_TAG_STATUS, 30, 16⟩
def CL_TAG_STATUS_INFLIGHT : Fld := ⟨CL_TAG_STATUS, 14, 0⟩
def CL_TAG_CTRL : Nat := 0x3000C
def CL_TAG_CTRL_HW_RESET : Fld := ⟨CL_TAG_CTRL, 0, 0⟩
def CL_FAULT_STATUS : Nat := 0x30010
def CL_FAULT_STATUS_SEQ : Fld := ⟨CL_FAULT_STATUS, 31, 24⟩
def CL_FAULT_STATUS_STAT_SAT : Fld := ⟨CL_FAULT_STATUS, 1, 1⟩
def CL_FAULT_STATUS_ACCESS_FAULT : Fld := ⟨CL_FAULT_STATUS, 0, 0⟩
def CL_FAULT_INFO : Nat := 0x30014
def CL_FAULT_INFO_WRITE : Fld := ⟨CL_FAULT_INFO, 31, 31⟩
def CL_FAULT_INFO_REASON : Fld := ⟨CL_FAULT_INFO, 30, 28⟩
def CL_FAULT_INFO_REQ : Fld := ⟨CL_FAULT_INFO, 27, 24⟩
def CL_FAULT_INFO_LE : Fld := ⟨CL_FAULT_INFO, 21, 16⟩
def CL_FAULT_INFO_CLEARING : Fld := ⟨CL_FAULT_INFO, 7, 0⟩
def CL_FAULT_ADDR : Nat := 0x30018
def CL_FAULT_ADDR_ADDR : Fld := ⟨CL_FAULT_ADDR, 29, 0⟩
def CL_FAULT_COUNT : Nat := 0x3001C
def CL_FAULT_COUNT_COUNT : Fld := ⟨CL_FAULT_COUNT, 31, 0⟩
def CL_WINn_CTRL (i : Nat) : Nat := 0x30020 + 4 * i
def CL_WINn_CTRL_CLEARING (i : Nat) : Fld := ⟨(CL_WINn_CTRL i), 31, 24⟩
def CL_WINn_CTRL_AUTO (i : Nat) : Fld := ⟨(CL_WINn_CTRL i), 16, 16⟩
def CL_WINn_CTRL_PAGE (i : Nat) : Fld := ⟨(CL_WINn_CTRL i), 15, 0⟩
def CL_Cccc_ATTR (i : Nat) : Nat := 0x31000 + 16 * i
def CL_Cccc_ATTR_VALID (i : Nat) : Fld := ⟨(CL_Cccc_ATTR i), 31, 31⟩
def CL_Cccc_ATTR_OWNER (i : Nat) : Fld := ⟨(CL_Cccc_ATTR i), 19, 16⟩
def CL_Cccc_ATTR_HALF (i : Nat) : Fld := ⟨(CL_Cccc_ATTR i), 8, 8⟩
def CL_Cccc_ATTR_ATTR (i : Nat) : Fld := ⟨(CL_Cccc_ATTR i), 7, 0⟩
def CL_Cccc_BASE (i : Nat) : Nat := 0x31004 + 16 * i
def CL_Cccc_BASE_BASE (i : Nat) : Fld := ⟨(CL_Cccc_BASE i), 31, 0⟩
def CL_Cccc_SIZE (i : Nat) : Nat := 0x31008 + 16 * i
def CL_Cccc_SIZE_SIZE (i : Nat) : Fld := ⟨(CL_Cccc_SIZE i), 31, 0⟩
def CL_Cccc_TAG (i : Nat) : Nat := 0x3100C + 16 * i
def CL_Cccc_TAG_RING_TAG (i : Nat) : Fld := ⟨(CL_Cccc_TAG i), 15, 0⟩
def FS_STATE (n : Nat) : Nat := 0x40000 + 0x10000 * n
def FS_STATE_HOT (n : Nat) : Fld := ⟨(FS_STATE n), 3, 3⟩
def FS_STATE_SELF_REFRESH (n : Nat) : Fld := ⟨(FS_STATE n), 2, 2⟩
def FS_STATE_SAFE (n : Nat) : Fld := ⟨(FS_STATE n), 1, 1⟩
def FS_STATE_TRAINED (n : Nat) : Fld := ⟨(FS_STATE n), 0, 0⟩
def FS_SCRUB_CTRL (n : Nat) : Nat := 0x40010 + 0x10000 * n
def FS_SCRUB_CTRL_WB_DEMAND (n : Nat) : Fld := ⟨(FS_SCRUB_CTRL n), 8, 8⟩
def FS_SCRUB_CTRL_PERIOD_H (n : Nat) : Fld := ⟨(FS_SCRUB_CTRL n), 7, 0⟩
def FS_SCRUB_POS (n : Nat) : Nat := 0x40014 + 0x10000 * n
def FS_SCRUB_POS_POS (n : Nat) : Fld := ⟨(FS_SCRUB_POS n), 27, 0⟩
def FS_ERR_STATUS (n : Nat) : Nat := 0x40020 + 0x10000 * n
def FS_ERR_STATUS_SEQ (n : Nat) : Fld := ⟨(FS_ERR_STATUS n), 31, 24⟩
def FS_ERR_STATUS_STAT_SAT (n : Nat) : Fld := ⟨(FS_ERR_STATUS n), 4, 4⟩
def FS_ERR_STATUS_UE_PARTIAL (n : Nat) : Fld := ⟨(FS_ERR_STATUS n), 3, 3⟩
def FS_ERR_STATUS_SCRUB_UE (n : Nat) : Fld := ⟨(FS_ERR_STATUS n), 2, 2⟩
def FS_ERR_STATUS_UE (n : Nat) : Fld := ⟨(FS_ERR_STATUS n), 1, 1⟩
def FS_ERR_STATUS_CE (n : Nat) : Fld := ⟨(FS_ERR_STATUS n), 0, 0⟩
def FS_UE_ADDR (n : Nat) : Nat := 0x40024 + 0x10000 * n
def FS_UE_ADDR_ADDR (n : Nat) : Fld := ⟨(FS_UE_ADDR n), 29, 0⟩
def FS_CE_ADDR (n : Nat) : Nat := 0x40028 + 0x10000 * n
def FS_CE_ADDR_ADDR (n : Nat) : Fld := ⟨(FS_CE_ADDR n), 29, 0⟩
def FS_ERR_INFO (n : Nat) : Nat := 0x4002C + 0x10000 * n
def FS_ERR_INFO_CE_SYMBOL (n : Nat) : Fld := ⟨(FS_ERR_INFO n), 20, 16⟩
def FS_ERR_INFO_UE_LE (n : Nat) : Fld := ⟨(FS_ERR_INFO n), 13, 8⟩
def FS_ERR_INFO_UE_REQ (n : Nat) : Fld := ⟨(FS_ERR_INFO n), 3, 0⟩
def FS_CE_COUNT (n : Nat) : Nat := 0x40030 + 0x10000 * n
def FS_CE_COUNT_COUNT (n : Nat) : Fld := ⟨(FS_CE_COUNT n), 31, 0⟩
def FS_UE_COUNT (n : Nat) : Nat := 0x40034 + 0x10000 * n
def FS_UE_COUNT_COUNT (n : Nat) : Fld := ⟨(FS_UE_COUNT n), 31, 0⟩
def FS_SCRUB_PASSES (n : Nat) : Nat := 0x40038 + 0x10000 * n
def FS_SCRUB_PASSES_COUNT (n : Nat) : Fld := ⟨(FS_SCRUB_PASSES n), 31, 0⟩
def FS_RD_BURSTS (n i : Nat) : Nat := 0x40040 + 0x10000 * n + 4 * i
def FS_RD_BURSTS_COUNT (n i : Nat) : Fld := ⟨(FS_RD_BURSTS n i), 31, 0⟩
def FS_WR_BURSTS (n i : Nat) : Nat := 0x40048 + 0x10000 * n + 4 * i
def FS_WR_BURSTS_COUNT (n i : Nat) : Fld := ⟨(FS_WR_BURSTS n i), 31, 0⟩
def FS_SCANOUT_BURSTS (n i : Nat) : Nat := 0x40050 + 0x10000 * n + 4 * i
def FS_SCANOUT_BURSTS_COUNT (n i : Nat) : Fld := ⟨(FS_SCANOUT_BURSTS n i), 31, 0⟩
def FS_LAT_CTRL (n : Nat) : Nat := 0x40060 + 0x10000 * n
def FS_LAT_CTRL_LAT_RESET (n : Nat) : Fld := ⟨(FS_LAT_CTRL n), 0, 0⟩
def FS_IND_ADDR (n : Nat) : Nat := 0x40FF0 + 0x10000 * n
def FS_IND_ADDR_STRIDE (n : Nat) : Fld := ⟨(FS_IND_ADDR n), 23, 16⟩
def FS_IND_ADDR_ADDR (n : Nat) : Fld := ⟨(FS_IND_ADDR n), 15, 2⟩
def FS_IND_DATA (n : Nat) : Nat := 0x40FF4 + 0x10000 * n
def FS_IND_DATA_DATA (n : Nat) : Fld := ⟨(FS_IND_DATA n), 31, 0⟩
def FS_IND_STATUS (n : Nat) : Nat := 0x40FF8 + 0x10000 * n
def FS_IND_STATUS_TIMEOUT (n : Nat) : Fld := ⟨(FS_IND_STATUS n), 1, 1⟩
def FS_IND_STATUS_NOADDR (n : Nat) : Fld := ⟨(FS_IND_STATUS n), 0, 0⟩
def IC_PEND_w (i : Nat) : Nat := 0x80000 + 4 * i
def IC_PEND_w_PEND (i : Nat) : Fld := ⟨(IC_PEND_w i), 31, 0⟩
def IC_EN_w (i : Nat) : Nat := 0x80080 + 4 * i
def IC_EN_w_EN (i : Nat) : Fld := ⟨(IC_EN_w i), 31, 0⟩
def IC_STATUS : Nat := 0x80100
def IC_STATUS_SEQ : Fld := ⟨IC_STATUS, 31, 24⟩
def IC_STATUS_SAFE : Fld := ⟨IC_STATUS, 8, 8⟩
def IC_STATUS_STAT_SAT : Fld := ⟨IC_STATUS, 1, 1⟩
def IC_STATUS_STACK_FAULT : Fld := ⟨IC_STATUS, 0, 0⟩
def IC_EMPTY_CLAIM : Nat := 0x80104
def IC_EMPTY_CLAIM_COUNT : Fld := ⟨IC_EMPTY_CLAIM, 31, 0⟩
def IC_FAULT_TARGETS : Nat := 0x80108
def IC_FAULT_TARGETS_FAULT : Fld := ⟨IC_FAULT_TARGETS, 15, 0⟩
def IC_COAL_FLUSH : Nat := 0x80110
def IC_COAL_FLUSH_FLUSH : Fld := ⟨IC_COAL_FLUSH, 31, 1⟩
def IC_T_CFG (i : Nat) : Nat := 0x80200 + 16 * i
def IC_T_CFG_RESET (i : Nat) : Fld := ⟨(IC_T_CFG i), 8, 8⟩
def IC_T_CFG_SUBBITS (i : Nat) : Fld := ⟨(IC_T_CFG i), 2, 0⟩
def IC_T_CLAIM (i : Nat) : Nat := 0x80204 + 16 * i
def IC_T_CLAIM_CLAIM_PRIO (i : Nat) : Fld := ⟨(IC_T_CLAIM i), 31, 24⟩
def IC_T_CLAIM_SOURCE (i : Nat) : Fld := ⟨(IC_T_CLAIM i), 9, 0⟩
def IC_T_COMPLETE (i : Nat) : Nat := 0x80208 + 16 * i
def IC_T_COMPLETE_SOURCE (i : Nat) : Fld := ⟨(IC_T_COMPLETE i), 9, 0⟩
def IC_T_STATE (i : Nat) : Nat := 0x8020C + 16 * i
def IC_T_STATE_FAULT (i : Nat) : Fld := ⟨(IC_T_STATE i), 31, 31⟩
def IC_T_STATE_LINE (i : Nat) : Fld := ⟨(IC_T_STATE i), 30, 30⟩
def IC_T_STATE_DEPTH (i : Nat) : Fld := ⟨(IC_T_STATE i), 28, 24⟩
def IC_T_STATE_TOP_PRIO (i : Nat) : Fld := ⟨(IC_T_STATE i), 23, 16⟩
def IC_T_STATE_TOP_SRC (i : Nat) : Fld := ⟨(IC_T_STATE i), 9, 0⟩
def IC_COALg (i : Nat) : Nat := 0x80404 + 4 * i
def IC_COALg_TIME_US (i : Nat) : Fld := ⟨(IC_COALg i), 31, 16⟩
def IC_COALg_OPEN (i : Nat) : Fld := ⟨(IC_COALg i), 15, 15⟩
def IC_COALg_COUNT (i : Nat) : Fld := ⟨(IC_COALg i), 7, 0⟩
def IC_WAKE_EN (i : Nat) : Nat := 0x80500 + 4 * i
def IC_WAKE_EN_EN (i : Nat) : Fld := ⟨(IC_WAKE_EN i), 31, 0⟩
def IC_WAKE_CLR (i : Nat) : Nat := 0x80508 + 4 * i
def IC_WAKE_CLR_CLR (i : Nat) : Fld := ⟨(IC_WAKE_CLR i), 31, 0⟩
def IC_WAKE_PIN : Nat := 0x80510
def IC_WAKE_PIN_EN : Fld := ⟨IC_WAKE_PIN, 0, 0⟩
def IC_IND_ADDR : Nat := 0x80FF0
def IC_IND_ADDR_STRIDE : Fld := ⟨IC_IND_ADDR, 23, 16⟩
def IC_IND_ADDR_ADDR : Fld := ⟨IC_IND_ADDR, 15, 2⟩
def IC_IND_DATA : Nat := 0x80FF4
def IC_IND_DATA_DATA : Fld := ⟨IC_IND_DATA, 31, 0⟩
def IC_IND_STATUS : Nat := 0x80FF8
def IC_IND_STATUS_TIMEOUT : Fld := ⟨IC_IND_STATUS, 1, 1⟩
def IC_IND_STATUS_NOADDR : Fld := ⟨IC_IND_STATUS, 0, 0⟩
def IC_SRCs (i : Nat) : Nat := 0x81000 + 4 * i
def IC_SRCs_LEVEL (i : Nat) : Fld := ⟨(IC_SRCs i), 24, 24⟩
def IC_SRCs_TARGET (i : Nat) : Fld := ⟨(IC_SRCs i), 19, 16⟩
def IC_SRCs_COAL (i : Nat) : Fld := ⟨(IC_SRCs i), 12, 8⟩
def IC_SRCs_PRIO (i : Nat) : Fld := ⟨(IC_SRCs i), 7, 0⟩
def IC_MSIXv_ADDR_LO (i : Nat) : Nat := 0x82000 + 16 * i
def IC_MSIXv_ADDR_LO_ADDR (i : Nat) : Fld := ⟨(IC_MSIXv_ADDR_LO i), 31, 2⟩
def IC_MSIXv_ADDR_HI (i : Nat) : Nat := 0x82004 + 16 * i
def IC_MSIXv_ADDR_HI_ADDR (i : Nat) : Fld := ⟨(IC_MSIXv_ADDR_HI i), 31, 0⟩
def IC_MSIXv_DATA (i : Nat) : Nat := 0x82008 + 16 * i
def IC_MSIXv_DATA_DATA (i : Nat) : Fld := ⟨(IC_MSIXv_DATA i), 31, 0⟩
def IC_MSIXv_CTRL (i : Nat) : Nat := 0x8200C + 16 * i
def IC_MSIXv_CTRL_MASK (i : Nat) : Fld := ⟨(IC_MSIXv_CTRL i), 0, 0⟩
def IC_PBA : Nat := 0x83000
def IC_PBA_PENDING : Fld := ⟨IC_PBA, 13, 0⟩
def TS_CTRL : Nat := 0x90000
def TS_CTRL_SLEW_PPM : Fld := ⟨TS_CTRL, 31, 16⟩
def TS_CTRL_AUTO_ACTIVE : Fld := ⟨TS_CTRL, 1, 1⟩
def TS_CTRL_ACTIVE : Fld := ⟨TS_CTRL, 0, 0⟩
def TS_STATUS : Nat := 0x90004
def TS_STATUS_SEQ : Fld := ⟨TS_STATUS, 31, 24⟩
def TS_STATUS_SLEWING : Fld := ⟨TS_STATUS, 20, 20⟩
def TS_STATUS_ACTIVE_NOW : Fld := ⟨TS_STATUS, 16, 16⟩
def TS_STATUS_EVENTS : Fld := ⟨TS_STATUS, 8, 0⟩
def TS_SNAP : Nat := 0x90008
def TS_SNAP_SNAP : Fld := ⟨TS_SNAP, 0, 0⟩
def TS_RAW (i : Nat) : Nat := 0x90010 + 4 * i
def TS_RAW_RAW (i : Nat) : Fld := ⟨(TS_RAW i), 31, 0⟩
def TS_SNAP_RAW (i : Nat) : Nat := 0x90018 + 4 * i
def TS_SNAP_RAW_RAW (i : Nat) : Fld := ⟨(TS_SNAP_RAW i), 31, 0⟩
def TS_SNAP_y_S_LO (i : Nat) : Nat := 0x90020 + 16 * i
def TS_SNAP_y_S_LO_S (i : Nat) : Fld := ⟨(TS_SNAP_y_S_LO i), 31, 0⟩
def TS_SNAP_y_S_HI (i : Nat) : Nat := 0x90024 + 16 * i
def TS_SNAP_y_S_HI_S (i : Nat) : Fld := ⟨(TS_SNAP_y_S_HI i), 15, 0⟩
def TS_SNAP_y_NS (i : Nat) : Nat := 0x90028 + 16 * i
def TS_SNAP_y_NS_NS (i : Nat) : Fld := ⟨(TS_SNAP_y_NS i), 29, 0⟩
def TS_CLOCK_ID_LO : Nat := 0x90050
def TS_CLOCK_ID_LO_ID : Fld := ⟨TS_CLOCK_ID_LO, 31, 0⟩
def TS_CLOCK_ID_HI : Nat := 0x90054
def TS_CLOCK_ID_HI_ID : Fld := ⟨TS_CLOCK_ID_HI, 31, 0⟩
def TS_CALA_CTRL : Nat := 0x90100
def TS_CALA_CTRL_DOMAIN : Fld := ⟨TS_CALA_CTRL, 30, 24⟩
def TS_CALA_CTRL_MODE : Fld := ⟨TS_CALA_CTRL, 9, 8⟩
def TS_CALB_CTRL : Nat := 0x90180
def TS_CALB_CTRL_DOMAIN : Fld := ⟨TS_CALB_CTRL, 30, 24⟩
def TS_CALB_CTRL_MODE : Fld := ⟨TS_CALB_CTRL, 9, 8⟩
def TS_CAL_STATE (i : Nat) : Nat := 0x90104 + 128 * i
def TS_CAL_STATE_STATE (i : Nat) : Fld := ⟨(TS_CAL_STATE i), 31, 28⟩
def TS_CAL_STATE_PORT0 (i : Nat) : Fld := ⟨(TS_CAL_STATE i), 27, 24⟩
def TS_CAL_STATE_PORT1 (i : Nat) : Fld := ⟨(TS_CAL_STATE i), 23, 20⟩
def TS_CAL_GAIN (i : Nat) : Nat := 0x90108 + 128 * i
def TS_CAL_GAIN_KP (i : Nat) : Fld := ⟨(TS_CAL_GAIN i), 31, 16⟩
def TS_CAL_GAIN_KI (i : Nat) : Fld := ⟨(TS_CAL_GAIN i), 15, 0⟩
def TS_CAL_LOCK_CFG (i : Nat) : Nat := 0x9010C + 128 * i
def TS_CAL_LOCK_CFG_STEP_NS (i : Nat) : Fld := ⟨(TS_CAL_LOCK_CFG i), 31, 16⟩
def TS_CAL_LOCK_CFG_UNLOCK_NS (i : Nat) : Fld := ⟨(TS_CAL_LOCK_CFG i), 15, 8⟩
def TS_CAL_LOCK_CFG_LOCK_NS (i : Nat) : Fld := ⟨(TS_CAL_LOCK_CFG i), 7, 0⟩
def TS_CAL_RATE (i : Nat) : Nat := 0x90110 + 128 * i
def TS_CAL_RATE_RATE (i : Nat) : Fld := ⟨(TS_CAL_RATE i), 31, 0⟩
def TS_CAL_STEP_NS (i : Nat) : Nat := 0x90114 + 128 * i
def TS_CAL_STEP_NS_STEP (i : Nat) : Fld := ⟨(TS_CAL_STEP_NS i), 31, 0⟩
def TS_CAL_STEP_S (i : Nat) : Nat := 0x90118 + 128 * i
def TS_CAL_STEP_S_STEP (i : Nat) : Fld := ⟨(TS_CAL_STEP_S i), 31, 0⟩
def TS_CAL_CMD (i : Nat) : Nat := 0x9011C + 128 * i
def TS_CAL_CMD_STEP (i : Nat) : Fld := ⟨(TS_CAL_CMD i), 1, 1⟩
def TS_CAL_CMD_SET (i : Nat) : Fld := ⟨(TS_CAL_CMD i), 0, 0⟩
def TS_CAL_SET_S_LO (i : Nat) : Nat := 0x90120 + 128 * i
def TS_CAL_SET_S_LO_S (i : Nat) : Fld := ⟨(TS_CAL_SET_S_LO i), 31, 0⟩
def TS_CAL_SET_S_HI (i : Nat) : Nat := 0x90124 + 128 * i
def TS_CAL_SET_S_HI_S (i : Nat) : Fld := ⟨(TS_CAL_SET_S_HI i), 15, 0⟩
def TS_CAL_SET_NS (i : Nat) : Nat := 0x90128 + 128 * i
def TS_CAL_SET_NS_NS (i : Nat) : Fld := ⟨(TS_CAL_SET_NS i), 29, 0⟩
def TS_CAL_OFFSET (i : Nat) : Nat := 0x9012C + 128 * i
def TS_CAL_OFFSET_THETA (i : Nat) : Fld := ⟨(TS_CAL_OFFSET i), 31, 0⟩
def TS_CAL_INTEG (i : Nat) : Nat := 0x90130 + 128 * i
def TS_CAL_INTEG_I (i : Nat) : Fld := ⟨(TS_CAL_INTEG i), 31, 0⟩
def TS_CAL_HINT_S_LO (i : Nat) : Nat := 0x90138 + 128 * i
def TS_CAL_HINT_S_LO_S (i : Nat) : Fld := ⟨(TS_CAL_HINT_S_LO i), 31, 0⟩
def TS_CAL_HINT_S_HI (i : Nat) : Nat := 0x9013C + 128 * i
def TS_CAL_HINT_S_HI_S (i : Nat) : Fld := ⟨(TS_CAL_HINT_S_HI i), 15, 0⟩
def TS_CAL_HINT_AGE (i : Nat) : Nat := 0x90140 + 128 * i
def TS_CAL_HINT_AGE_VALID (i : Nat) : Fld := ⟨(TS_CAL_HINT_AGE i), 16, 16⟩
def TS_CAL_HINT_AGE_MS (i : Nat) : Fld := ⟨(TS_CAL_HINT_AGE i), 15, 0⟩
def TS_CAL_GM_ID_LO (i : Nat) : Nat := 0x90148 + 128 * i
def TS_CAL_GM_ID_LO_ID (i : Nat) : Fld := ⟨(TS_CAL_GM_ID_LO i), 31, 0⟩
def TS_CAL_GM_ID_HI (i : Nat) : Nat := 0x9014C + 128 * i
def TS_CAL_GM_ID_HI_ID (i : Nat) : Fld := ⟨(TS_CAL_GM_ID_HI i), 31, 0⟩
def TS_CAL_PRIO (i : Nat) : Nat := 0x90150 + 128 * i
def TS_CAL_PRIO_PRIORITY1 (i : Nat) : Fld := ⟨(TS_CAL_PRIO i), 31, 24⟩
def TS_CAL_PRIO_PRIORITY2 (i : Nat) : Fld := ⟨(TS_CAL_PRIO i), 23, 16⟩
def TS_CAL_PRIO_CLOCK_CLASS (i : Nat) : Fld := ⟨(TS_CAL_PRIO i), 15, 8⟩
def TS_CAL_PRIO_ACCURACY (i : Nat) : Fld := ⟨(TS_CAL_PRIO i), 7, 0⟩
def TS_CAL_STEP_COUNT (i : Nat) : Nat := 0x90154 + 128 * i
def TS_CAL_STEP_COUNT_COUNT (i : Nat) : Fld := ⟨(TS_CAL_STEP_COUNT i), 31, 0⟩
def TS_RP_CFG (i : Nat) : Nat := 0x90300 + 64 * i
def TS_RP_CFG_EN (i : Nat) : Fld := ⟨(TS_RP_CFG i), 31, 31⟩
def TS_RP_CFG_ANN_TIMEOUT (i : Nat) : Fld := ⟨(TS_RP_CFG i), 27, 24⟩
def TS_RP_CFG_LOG_PDELAY (i : Nat) : Fld := ⟨(TS_RP_CFG i), 23, 16⟩
def TS_RP_CFG_LOG_ANNOUNCE (i : Nat) : Fld := ⟨(TS_RP_CFG i), 15, 8⟩
def TS_RP_CFG_LOG_SYNC (i : Nat) : Fld := ⟨(TS_RP_CFG i), 7, 0⟩
def TS_RP_ASYM (i : Nat) : Nat := 0x90304 + 64 * i
def TS_RP_ASYM_PS (i : Nat) : Fld := ⟨(TS_RP_ASYM i), 31, 0⟩
def TS_RP_PDELAY (i : Nat) : Nat := 0x90308 + 64 * i
def TS_RP_PDELAY_NS (i : Nat) : Fld := ⟨(TS_RP_PDELAY i), 31, 0⟩
def TS_RP_RX_MSGS (i : Nat) : Nat := 0x90310 + 64 * i
def TS_RP_RX_MSGS_COUNT (i : Nat) : Fld := ⟨(TS_RP_RX_MSGS i), 31, 0⟩
def TS_RP_TX_MSGS (i : Nat) : Nat := 0x90314 + 64 * i
def TS_RP_TX_MSGS_COUNT (i : Nat) : Fld := ⟨(TS_RP_TX_MSGS i), 31, 0⟩
def TS_RP_RX_DROP (i : Nat) : Nat := 0x90318 + 64 * i
def TS_RP_RX_DROP_COUNT (i : Nat) : Fld := ⟨(TS_RP_RX_DROP i), 31, 0⟩
def EV_CTRL (i : Nat) : Nat := 0xA0000 + 64 * i
def EV_CTRL_DISARM (i : Nat) : Fld := ⟨(EV_CTRL i), 31, 31⟩
def EV_CTRL_ARM (i : Nat) : Fld := ⟨(EV_CTRL i), 30, 30⟩
def EV_CTRL_POP (i : Nat) : Fld := ⟨(EV_CTRL i), 29, 29⟩
def EV_CTRL_FILTER (i : Nat) : Fld := ⟨(EV_CTRL i), 27, 24⟩
def EV_CTRL_NUMBER (i : Nat) : Fld := ⟨(EV_CTRL i), 20, 16⟩
def EV_CTRL_NOTICE_EN (i : Nat) : Fld := ⟨(EV_CTRL i), 15, 15⟩
def EV_CTRL_SKIP_LATE (i : Nat) : Fld := ⟨(EV_CTRL i), 14, 14⟩
def EV_CTRL_LEVEL (i : Nat) : Fld := ⟨(EV_CTRL i), 13, 13⟩
def EV_CTRL_POL (i : Nat) : Fld := ⟨(EV_CTRL i), 12, 12⟩
def EV_CTRL_EDGE (i : Nat) : Fld := ⟨(EV_CTRL i), 9, 8⟩
def EV_CTRL_CAL (i : Nat) : Fld := ⟨(EV_CTRL i), 5, 4⟩
def EV_CTRL_MODE (i : Nat) : Fld := ⟨(EV_CTRL i), 2, 0⟩
def EV_STATUS (i : Nat) : Nat := 0xA0004 + 64 * i
def EV_STATUS_SEQ (i : Nat) : Fld := ⟨(EV_STATUS i), 31, 24⟩
def EV_STATUS_FIFO_LEVEL (i : Nat) : Fld := ⟨(EV_STATUS i), 20, 16⟩
def EV_STATUS_ARMED (i : Nat) : Fld := ⟨(EV_STATUS i), 15, 15⟩
def EV_STATUS_PIN (i : Nat) : Fld := ⟨(EV_STATUS i), 14, 14⟩
def EV_STATUS_EVENTS (i : Nat) : Fld := ⟨(EV_STATUS i), 5, 0⟩
def EV_START_NS (i : Nat) : Nat := 0xA0008 + 64 * i
def EV_START_NS_NS (i : Nat) : Fld := ⟨(EV_START_NS i), 29, 0⟩
def EV_START_S (i : Nat) : Nat := 0xA000C + 64 * i
def EV_START_S_S (i : Nat) : Fld := ⟨(EV_START_S i), 31, 0⟩
def EV_PERIOD_NS (i : Nat) : Nat := 0xA0010 + 64 * i
def EV_PERIOD_NS_NS (i : Nat) : Fld := ⟨(EV_PERIOD_NS i), 31, 0⟩
def EV_PERIOD_FRAC (i : Nat) : Nat := 0xA0014 + 64 * i
def EV_PERIOD_FRAC_FRAC (i : Nat) : Fld := ⟨(EV_PERIOD_FRAC i), 31, 0⟩
def EV_WIDTH (i : Nat) : Nat := 0xA0018 + 64 * i
def EV_WIDTH_NS (i : Nat) : Fld := ⟨(EV_WIDTH i), 29, 0⟩
def EV_COUNT (i : Nat) : Nat := 0xA001C + 64 * i
def EV_COUNT_COUNT (i : Nat) : Fld := ⟨(EV_COUNT i), 31, 0⟩
def EV_DELAY (i : Nat) : Nat := 0xA0020 + 64 * i
def EV_DELAY_NS (i : Nat) : Fld := ⟨(EV_DELAY i), 31, 0⟩
def EV_CAP_INFO (i : Nat) : Nat := 0xA0024 + 64 * i
def EV_CAP_INFO_VALID (i : Nat) : Fld := ⟨(EV_CAP_INFO i), 31, 31⟩
def EV_CAP_INFO_LEVEL (i : Nat) : Fld := ⟨(EV_CAP_INFO i), 16, 16⟩
def EV_CAP_INFO_ERR (i : Nat) : Fld := ⟨(EV_CAP_INFO i), 1, 0⟩
def EV_CAP_TS (i : Nat) : Nat := 0xA0028 + 64 * i
def EV_CAP_TS_TS (i : Nat) : Fld := ⟨(EV_CAP_TS i), 31, 0⟩
def EV_LATE_NS (i : Nat) : Nat := 0xA0030 + 64 * i
def EV_LATE_NS_NS (i : Nat) : Fld := ⟨(EV_LATE_NS i), 29, 0⟩
def EV_LATE_S (i : Nat) : Nat := 0xA0034 + 64 * i
def EV_LATE_S_S (i : Nat) : Fld := ⟨(EV_LATE_S i), 31, 0⟩
def EV_EDGES (i : Nat) : Nat := 0xA0038 + 64 * i
def EV_EDGES_COUNT (i : Nat) : Fld := ⟨(EV_EDGES i), 31, 0⟩
def EV_MISS (i : Nat) : Nat := 0xA003C + 64 * i
def EV_MISS_COUNT (i : Nat) : Fld := ⟨(EV_MISS i), 31, 0⟩
def SH_RING_CFG : Nat := 0xB0000
def SH_RING_CFG_TIMEOUT_US : Fld := ⟨SH_RING_CFG, 27, 16⟩
def SH_RING_CFG_RETRIES : Fld := ⟨SH_RING_CFG, 11, 8⟩
def SH_RING_CFG_UNITS : Fld := ⟨SH_RING_CFG, 5, 0⟩
def SH_STATUS : Nat := 0xB0004
def SH_STATUS_SEQ : Fld := ⟨SH_STATUS, 31, 24⟩
def SH_STATUS_SAFE : Fld := ⟨SH_STATUS, 17, 17⟩
def SH_STATUS_EVENTS : Fld := ⟨SH_STATUS, 10, 0⟩
def SH_NOTICE_STATUS : Nat := 0xB0008
def SH_NOTICE_STATUS_SEQ : Fld := ⟨SH_NOTICE_STATUS, 31, 24⟩
def SH_NOTICE_STATUS_NOTICE : Fld := ⟨SH_NOTICE_STATUS, 23, 0⟩
def SH_NOTICE_TX : Nat := 0xB000C
def SH_NOTICE_TX_GO : Fld := ⟨SH_NOTICE_TX, 31, 31⟩
def SH_NOTICE_TX_DEST : Fld := ⟨SH_NOTICE_TX, 13, 8⟩
def SH_NOTICE_TX_NUMBER : Fld := ⟨SH_NOTICE_TX, 4, 0⟩
def SH_RMT_CTRL : Nat := 0xB0010
def SH_RMT_CTRL_GO : Fld := ⟨SH_RMT_CTRL, 31, 31⟩
def SH_RMT_CTRL_WRITE : Fld := ⟨SH_RMT_CTRL, 16, 16⟩
def SH_RMT_CTRL_DEST : Fld := ⟨SH_RMT_CTRL, 13, 8⟩
def SH_RMT_ADDR : Nat := 0xB0014
def SH_RMT_ADDR_OFFSET : Fld := ⟨SH_RMT_ADDR, 23, 2⟩
def SH_RMT_DATA : Nat := 0xB0018
def SH_RMT_DATA_DATA : Fld := ⟨SH_RMT_DATA, 31, 0⟩
def SH_RMT_STATUS : Nat := 0xB001C
def SH_RMT_STATUS_BUSY : Fld := ⟨SH_RMT_STATUS, 8, 8⟩
def SH_RMT_STATUS_RESULT : Fld := ⟨SH_RMT_STATUS, 3, 0⟩
def SH_TILES_RX : Nat := 0xB0020
def SH_TILES_RX_COUNT : Fld := ⟨SH_TILES_RX, 31, 0⟩
def SH_LATE_COUNT : Nat := 0xB0024
def SH_LATE_COUNT_COUNT : Fld := ⟨SH_LATE_COUNT, 31, 0⟩
def SH_STALE_COUNT : Nat := 0xB0028
def SH_STALE_COUNT_COUNT : Fld := ⟨SH_STALE_COUNT, 31, 0⟩
def SH_RETRY_COUNT : Nat := 0xB002C
def SH_RETRY_COUNT_COUNT : Fld := ⟨SH_RETRY_COUNT, 31, 0⟩
def SH_NOTICE_SRCn (i : Nat) : Nat := 0xB0040 + 8 * i
def SH_NOTICE_SRCn_COUNT (i : Nat) : Fld := ⟨(SH_NOTICE_SRCn i), 31, 16⟩
def SH_NOTICE_SRCn_SRC (i : Nat) : Fld := ⟨(SH_NOTICE_SRCn i), 5, 0⟩
def SH_NOTICE_TIMEn (i : Nat) : Nat := 0xB0044 + 8 * i
def SH_NOTICE_TIMEn_TIME (i : Nat) : Fld := ⟨(SH_NOTICE_TIMEn i), 31, 0⟩
def SH_TC_CIR (i : Nat) : Nat := 0xB0100 + 16 * i
def SH_TC_CIR_MBPS (i : Nat) : Fld := ⟨(SH_TC_CIR i), 16, 0⟩
def SH_TC_PIR (i : Nat) : Nat := 0xB0104 + 16 * i
def SH_TC_PIR_MBPS (i : Nat) : Fld := ⟨(SH_TC_PIR i), 16, 0⟩
def SH_TC_CBS (i : Nat) : Nat := 0xB0108 + 16 * i
def SH_TC_CBS_BYTES (i : Nat) : Fld := ⟨(SH_TC_CBS i), 19, 0⟩
def SH_TC_PBS (i : Nat) : Nat := 0xB010C + 16 * i
def SH_TC_PBS_BYTES (i : Nat) : Fld := ⟨(SH_TC_PBS i), 19, 0⟩
def SH_TC_QUANTUM (i : Nat) : Nat := 0xB0180 + 4 * i
def SH_TC_QUANTUM_BYTES (i : Nat) : Fld := ⟨(SH_TC_QUANTUM i), 15, 0⟩
def SH_ALM_CTRL (i : Nat) : Nat := 0xB0200 + 64 * i
def SH_ALM_CTRL_CHANGE (i : Nat) : Fld := ⟨(SH_ALM_CTRL i), 31, 31⟩
def SH_ALM_CTRL_CANCEL (i : Nat) : Fld := ⟨(SH_ALM_CTRL i), 30, 30⟩
def SH_ALM_CTRL_PEND_COUNT (i : Nat) : Fld := ⟨(SH_ALM_CTRL i), 24, 16⟩
def SH_ALM_CTRL_CAL (i : Nat) : Fld := ⟨(SH_ALM_CTRL i), 4, 4⟩
def SH_ALM_CTRL_EN (i : Nat) : Fld := ⟨(SH_ALM_CTRL i), 0, 0⟩
def SH_ALM_BASE_NS (i : Nat) : Nat := 0xB0208 + 64 * i
def SH_ALM_BASE_NS_NS (i : Nat) : Fld := ⟨(SH_ALM_BASE_NS i), 29, 0⟩
def SH_ALM_BASE_S (i : Nat) : Nat := 0xB020C + 64 * i
def SH_ALM_BASE_S_S (i : Nat) : Fld := ⟨(SH_ALM_BASE_S i), 31, 0⟩
def SH_ALM_STATE (i : Nat) : Nat := 0xB0210 + 64 * i
def SH_ALM_STATE_PENDING (i : Nat) : Fld := ⟨(SH_ALM_STATE i), 31, 31⟩
def SH_ALM_STATE_RUNNING (i : Nat) : Fld := ⟨(SH_ALM_STATE i), 30, 30⟩
def SH_ALM_STATE_ERR (i : Nat) : Fld := ⟨(SH_ALM_STATE i), 29, 27⟩
def SH_ALM_STATE_OPER_BANK (i : Nat) : Fld := ⟨(SH_ALM_STATE i), 24, 24⟩
def SH_ALM_STATE_OPER_COUNT (i : Nat) : Fld := ⟨(SH_ALM_STATE i), 23, 8⟩
def SH_ALM_STATE_ENTRY (i : Nat) : Fld := ⟨(SH_ALM_STATE i), 7, 0⟩
def SH_ALM_START_NS (i : Nat) : Nat := 0xB0218 + 64 * i
def SH_ALM_START_NS_NS (i : Nat) : Fld := ⟨(SH_ALM_START_NS i), 29, 0⟩
def SH_ALM_START_S (i : Nat) : Nat := 0xB021C + 64 * i
def SH_ALM_START_S_S (i : Nat) : Fld := ⟨(SH_ALM_START_S i), 31, 0⟩
def SH_ALM_Bb_Ee (i j k : Nat) : Nat := 0xB1000 + 2048 * i + 1024 * j + 4 * k
def SH_ALM_Bb_Ee_GATES (i j k : Nat) : Fld := ⟨(SH_ALM_Bb_Ee i j k), 31, 24⟩
def SH_ALM_Bb_Ee_INTERVAL (i j k : Nat) : Fld := ⟨(SH_ALM_Bb_Ee i j k), 23, 0⟩
def SH_STR_CTRL (i : Nat) : Nat := 0xB0400 + 32 * i
def SH_STR_CTRL_BAND_ROWS_M1 (i : Nat) : Fld := ⟨(SH_STR_CTRL i), 31, 24⟩
def SH_STR_CTRL_CLEARING (i : Nat) : Fld := ⟨(SH_STR_CTRL i), 23, 16⟩
def SH_STR_CTRL_LE (i : Nat) : Fld := ⟨(SH_STR_CTRL i), 13, 8⟩
def SH_STR_CTRL_HEAD (i : Nat) : Fld := ⟨(SH_STR_CTRL i), 6, 4⟩
def SH_STR_CTRL_EN (i : Nat) : Fld := ⟨(SH_STR_CTRL i), 0, 0⟩
def SH_STR_BUF_OFF (i : Nat) : Nat := 0xB0404 + 32 * i
def SH_STR_BUF_OFF_OFF (i : Nat) : Fld := ⟨(SH_STR_BUF_OFF i), 29, 0⟩
def SH_STR_BUF_STRIDE (i : Nat) : Nat := 0xB0408 + 32 * i
def SH_STR_BUF_STRIDE_STRIDE (i : Nat) : Fld := ⟨(SH_STR_BUF_STRIDE i), 29, 0⟩
def SH_STR_PITCH (i : Nat) : Nat := 0xB040C + 32 * i
def SH_STR_PITCH_PITCH (i : Nat) : Fld := ⟨(SH_STR_PITCH i), 19, 0⟩
def SH_STR_SIZE (i : Nat) : Nat := 0xB0410 + 32 * i
def SH_STR_SIZE_ROWS (i : Nat) : Fld := ⟨(SH_STR_SIZE i), 30, 16⟩
def SH_STR_SIZE_ROW_BYTES (i : Nat) : Fld := ⟨(SH_STR_SIZE i), 15, 0⟩
def SH_STR_STATE (i : Nat) : Nat := 0xB0414 + 32 * i
def SH_STR_STATE_SFRAME (i : Nat) : Fld := ⟨(SH_STR_STATE i), 31, 16⟩
def SH_STR_STATE_ERR (i : Nat) : Fld := ⟨(SH_STR_STATE i), 11, 8⟩
def SH_STR_STATE_BANDS (i : Nat) : Fld := ⟨(SH_STR_STATE i), 6, 0⟩
def SH_STR_LATE (i : Nat) : Nat := 0xB0418 + 32 * i
def SH_STR_LATE_FRAME (i : Nat) : Fld := ⟨(SH_STR_LATE i), 31, 16⟩
def SH_STR_LATE_BAND (i : Nat) : Fld := ⟨(SH_STR_LATE i), 5, 0⟩
def SH_SRC_CTRL (i : Nat) : Nat := 0xB0600 + 32 * i
def SH_SRC_CTRL_BAND_ROWS_M1 (i : Nat) : Fld := ⟨(SH_SRC_CTRL i), 31, 24⟩
def SH_SRC_CTRL_STREAM (i : Nat) : Fld := ⟨(SH_SRC_CTRL i), 19, 16⟩
def SH_SRC_CTRL_DEST (i : Nat) : Fld := ⟨(SH_SRC_CTRL i), 13, 8⟩
def SH_SRC_CTRL_HEAD (i : Nat) : Fld := ⟨(SH_SRC_CTRL i), 6, 4⟩
def SH_SRC_CTRL_AUTO (i : Nat) : Fld := ⟨(SH_SRC_CTRL i), 2, 2⟩
def SH_SRC_CTRL_SEND (i : Nat) : Fld := ⟨(SH_SRC_CTRL i), 1, 1⟩
def SH_SRC_CTRL_EN (i : Nat) : Fld := ⟨(SH_SRC_CTRL i), 0, 0⟩
def SH_SRC_CLR (i : Nat) : Nat := 0xB0604 + 32 * i
def SH_SRC_CLR_CLEARING (i : Nat) : Fld := ⟨(SH_SRC_CLR i), 7, 0⟩
def SH_SRC_OFF (i : Nat) : Nat := 0xB0608 + 32 * i
def SH_SRC_OFF_OFF (i : Nat) : Fld := ⟨(SH_SRC_OFF i), 29, 0⟩
def SH_SRC_PITCH (i : Nat) : Nat := 0xB060C + 32 * i
def SH_SRC_PITCH_PITCH (i : Nat) : Fld := ⟨(SH_SRC_PITCH i), 19, 0⟩
def SH_SRC_SIZE (i : Nat) : Nat := 0xB0610 + 32 * i
def SH_SRC_SIZE_ROWS (i : Nat) : Fld := ⟨(SH_SRC_SIZE i), 30, 16⟩
def SH_SRC_SIZE_ROW_BYTES (i : Nat) : Fld := ⟨(SH_SRC_SIZE i), 15, 0⟩
def SH_SRC_STATE (i : Nat) : Nat := 0xB0614 + 32 * i
def SH_SRC_STATE_FRAME (i : Nat) : Fld := ⟨(SH_SRC_STATE i), 31, 16⟩
def SH_SRC_STATE_BUSY (i : Nat) : Fld := ⟨(SH_SRC_STATE i), 8, 8⟩
def SH_SRC_STATE_ERR (i : Nat) : Fld := ⟨(SH_SRC_STATE i), 3, 0⟩
def SH_RQ_CTRL (i : Nat) : Nat := 0xB0700 + 32 * i
def SH_RQ_CTRL_DEST (i : Nat) : Fld := ⟨(SH_RQ_CTRL i), 21, 16⟩
def SH_RQ_CTRL_IRQ (i : Nat) : Fld := ⟨(SH_RQ_CTRL i), 8, 8⟩
def SH_RQ_CTRL_OP (i : Nat) : Fld := ⟨(SH_RQ_CTRL i), 4, 4⟩
def SH_RQ_CTRL_ABORT (i : Nat) : Fld := ⟨(SH_RQ_CTRL i), 1, 1⟩
def SH_RQ_CTRL_GO (i : Nat) : Fld := ⟨(SH_RQ_CTRL i), 0, 0⟩
def SH_RQ_TAGS (i : Nat) : Nat := 0xB0704 + 32 * i
def SH_RQ_TAGS_REMOTE_TAG (i : Nat) : Fld := ⟨(SH_RQ_TAGS i), 31, 16⟩
def SH_RQ_TAGS_LOCAL_CLR (i : Nat) : Fld := ⟨(SH_RQ_TAGS i), 7, 0⟩
def SH_RQ_LOCAL_OFF (i : Nat) : Nat := 0xB0708 + 32 * i
def SH_RQ_LOCAL_OFF_OFF (i : Nat) : Fld := ⟨(SH_RQ_LOCAL_OFF i), 29, 0⟩
def SH_RQ_REMOTE_OFF (i : Nat) : Nat := 0xB070C + 32 * i
def SH_RQ_REMOTE_OFF_OFF (i : Nat) : Fld := ⟨(SH_RQ_REMOTE_OFF i), 29, 0⟩
def SH_RQ_LENGTH (i : Nat) : Nat := 0xB0710 + 32 * i
def SH_RQ_LENGTH_BYTES (i : Nat) : Fld := ⟨(SH_RQ_LENGTH i), 25, 0⟩
def SH_RQ_STATE (i : Nat) : Nat := 0xB0714 + 32 * i
def SH_RQ_STATE_STATE (i : Nat) : Fld := ⟨(SH_RQ_STATE i), 31, 28⟩
def SH_RQ_STATE_CODE (i : Nat) : Fld := ⟨(SH_RQ_STATE i), 7, 0⟩
def SH_RQ_DONE_BYTES (i : Nat) : Nat := 0xB0718 + 32 * i
def SH_RQ_DONE_BYTES_BYTES (i : Nat) : Fld := ⟨(SH_RQ_DONE_BYTES i), 31, 0⟩
def RP_CTRL (n : Nat) : Nat := 0xC0000 + 0x10000 * n
def RP_CTRL_RESTART (n : Nat) : Fld := ⟨(RP_CTRL n), 8, 8⟩
def RP_CTRL_EN (n : Nat) : Fld := ⟨(RP_CTRL n), 0, 0⟩
def RP_STATUS (n : Nat) : Nat := 0xC0004 + 0x10000 * n
def RP_STATUS_SEQ (n : Nat) : Fld := ⟨(RP_STATUS n), 31, 24⟩
def RP_STATUS_SAFE (n : Nat) : Fld := ⟨(RP_STATUS n), 18, 18⟩
def RP_STATUS_FEC_LOCK (n : Nat) : Fld := ⟨(RP_STATUS n), 17, 17⟩
def RP_STATUS_LINK (n : Nat) : Fld := ⟨(RP_STATUS n), 16, 16⟩
def RP_STATUS_EVENTS (n : Nat) : Fld := ⟨(RP_STATUS n), 5, 0⟩
def RP_DROP_INFO (n : Nat) : Nat := 0xC0008 + 0x10000 * n
def RP_DROP_INFO_SRC (n : Nat) : Fld := ⟨(RP_DROP_INFO n), 13, 8⟩
def RP_DROP_INFO_CAUSE (n : Nat) : Fld := ⟨(RP_DROP_INFO n), 3, 0⟩
def RP_RX_FRAMES (n i : Nat) : Nat := 0xC0010 + 0x10000 * n + 4 * i
def RP_RX_FRAMES_COUNT (n i : Nat) : Fld := ⟨(RP_RX_FRAMES n i), 31, 0⟩
def RP_TX_FRAMES (n i : Nat) : Nat := 0xC0018 + 0x10000 * n + 4 * i
def RP_TX_FRAMES_COUNT (n i : Nat) : Fld := ⟨(RP_TX_FRAMES n i), 31, 0⟩
def RP_FCS_ERR (n : Nat) : Nat := 0xC0020 + 0x10000 * n
def RP_FCS_ERR_COUNT (n : Nat) : Fld := ⟨(RP_FCS_ERR n), 31, 0⟩
def RP_DROP_COUNT (n : Nat) : Nat := 0xC0024 + 0x10000 * n
def RP_DROP_COUNT_COUNT (n : Nat) : Fld := ⟨(RP_DROP_COUNT n), 31, 0⟩
def RP_TAG_FAIL_COUNT (n : Nat) : Nat := 0xC0028 + 0x10000 * n
def RP_TAG_FAIL_COUNT_COUNT (n : Nat) : Fld := ⟨(RP_TAG_FAIL_COUNT n), 31, 0⟩
def RP_IND_ADDR (n : Nat) : Nat := 0xC0FF0 + 0x10000 * n
def RP_IND_ADDR_STRIDE (n : Nat) : Fld := ⟨(RP_IND_ADDR n), 23, 16⟩
def RP_IND_ADDR_ADDR (n : Nat) : Fld := ⟨(RP_IND_ADDR n), 15, 2⟩
def RP_IND_DATA (n : Nat) : Nat := 0xC0FF4 + 0x10000 * n
def RP_IND_DATA_DATA (n : Nat) : Fld := ⟨(RP_IND_DATA n), 31, 0⟩
def RP_IND_STATUS (n : Nat) : Nat := 0xC0FF8 + 0x10000 * n
def RP_IND_STATUS_TIMEOUT (n : Nat) : Fld := ⟨(RP_IND_STATUS n), 1, 1⟩
def RP_IND_STATUS_NOADDR (n : Nat) : Fld := ⟨(RP_IND_STATUS n), 0, 0⟩
def AS_CTRL : Nat := 0xE0000
def AS_CTRL_PACE : Fld := ⟨AS_CTRL, 0, 0⟩
def AS_STATUS : Nat := 0xE0004
def AS_STATUS_SEQ : Fld := ⟨AS_STATUS, 31, 24⟩
def AS_STATUS_LANE_BUSY : Fld := ⟨AS_STATUS, 19, 16⟩
def AS_STATUS_SAFE : Fld := ⟨AS_STATUS, 8, 8⟩
def AS_STATUS_EVENTS : Fld := ⟨AS_STATUS, 3, 0⟩
def AS_JOBS_OK : Nat := 0xE0010
def AS_JOBS_OK_COUNT : Fld := ⟨AS_JOBS_OK, 31, 0⟩
def AS_JOBS_ERR : Nat := 0xE0014
def AS_JOBS_ERR_COUNT : Fld := ⟨AS_JOBS_ERR, 31, 0⟩
def AS_TAG_FAIL : Nat := 0xE0018
def AS_TAG_FAIL_COUNT : Fld := ⟨AS_TAG_FAIL, 31, 0⟩
def AS_OUT_BYTES (i : Nat) : Nat := 0xE0020 + 4 * i
def AS_OUT_BYTES_COUNT (i : Nat) : Fld := ⟨(AS_OUT_BYTES i), 31, 0⟩
def AS_JOB_CTRL (i : Nat) : Nat := 0xE0400 + 128 * i
def AS_JOB_CTRL_IRQ (i : Nat) : Fld := ⟨(AS_JOB_CTRL i), 8, 8⟩
def AS_JOB_CTRL_PORT (i : Nat) : Fld := ⟨(AS_JOB_CTRL i), 5, 4⟩
def AS_JOB_CTRL_ABORT (i : Nat) : Fld := ⟨(AS_JOB_CTRL i), 1, 1⟩
def AS_JOB_CTRL_GO (i : Nat) : Fld := ⟨(AS_JOB_CTRL i), 0, 0⟩
def AS_JOB_LBA_LO (i : Nat) : Nat := 0xE0408 + 128 * i
def AS_JOB_LBA_LO_LBA (i : Nat) : Fld := ⟨(AS_JOB_LBA_LO i), 31, 0⟩
def AS_JOB_LBA_HI (i : Nat) : Nat := 0xE040C + 128 * i
def AS_JOB_LBA_HI_LBA (i : Nat) : Fld := ⟨(AS_JOB_LBA_HI i), 15, 0⟩
def AS_JOB_DESTd_CLR (i j : Nat) : Nat := 0xE0410 + 128 * i + 8 * j
def AS_JOB_DESTd_CLR_VALID (i j : Nat) : Fld := ⟨(AS_JOB_DESTd_CLR i j), 8, 8⟩
def AS_JOB_DESTd_CLR_CLEARING (i j : Nat) : Fld := ⟨(AS_JOB_DESTd_CLR i j), 7, 0⟩
def AS_JOB_DESTd_OFF (i j : Nat) : Nat := 0xE0414 + 128 * i + 8 * j
def AS_JOB_DESTd_OFF_OFF (i j : Nat) : Fld := ⟨(AS_JOB_DESTd_OFF i j), 29, 0⟩
def AS_JOB_RESULT (i : Nat) : Nat := 0xE0430 + 128 * i
def AS_JOB_RESULT_STATE (i : Nat) : Fld := ⟨(AS_JOB_RESULT i), 31, 28⟩
def AS_JOB_RESULT_LANE (i : Nat) : Fld := ⟨(AS_JOB_RESULT i), 27, 26⟩
def AS_JOB_RESULT_OWNER (i : Nat) : Fld := ⟨(AS_JOB_RESULT i), 23, 20⟩
def AS_JOB_RESULT_CODE (i : Nat) : Fld := ⟨(AS_JOB_RESULT i), 7, 0⟩
def AS_JOB_PROGRESS (i : Nat) : Nat := 0xE0434 + 128 * i
def AS_JOB_PROGRESS_ENTRY (i : Nat) : Fld := ⟨(AS_JOB_PROGRESS i), 31, 24⟩
def AS_JOB_PROGRESS_CHUNK (i : Nat) : Fld := ⟨(AS_JOB_PROGRESS i), 15, 0⟩
def AS_JOB_OUT_BYTES (i : Nat) : Nat := 0xE0438 + 128 * i
def AS_JOB_OUT_BYTES_COUNT (i : Nat) : Fld := ⟨(AS_JOB_OUT_BYTES i), 31, 0⟩
def AS_JOB_ID_LO (i : Nat) : Nat := 0xE0440 + 128 * i
def AS_JOB_ID_LO_BUNDLE_ID (i : Nat) : Fld := ⟨(AS_JOB_ID_LO i), 31, 0⟩
def AS_JOB_ID_HI (i : Nat) : Nat := 0xE0444 + 128 * i
def AS_JOB_ID_HI_BUNDLE_ID (i : Nat) : Fld := ⟨(AS_JOB_ID_HI i), 31, 0⟩
def KY_LOCKS : Nat := 0xF0000
def KY_LOCKS_PROG_DISABLE : Fld := ⟨KY_LOCKS, 1, 1⟩
def KY_LOCKS_REQ_SIGNED_FP : Fld := ⟨KY_LOCKS, 0, 0⟩
def KY_STATUS : Nat := 0xF0010
def KY_STATUS_SEQ : Fld := ⟨KY_STATUS, 31, 24⟩
def KY_STATUS_PROG_DONE : Fld := ⟨KY_STATUS, 0, 0⟩
def KY_SLOT_PROG : Nat := 0xF0100
def KY_SLOT_PROG_PROGRAMMED : Fld := ⟨KY_SLOT_PROG, 25, 0⟩
def KY_SLOT_REVOKED : Nat := 0xF0104
def KY_SLOT_REVOKED_REVOKED : Fld := ⟨KY_SLOT_REVOKED, 23, 0⟩
def KY_PROG_CTRL : Nat := 0xF0200
def KY_PROG_CTRL_GO : Fld := ⟨KY_PROG_CTRL, 31, 31⟩
def KY_PROG_CTRL_CMD : Fld := ⟨KY_PROG_CTRL, 25, 24⟩
def KY_PROG_CTRL_PAGE : Fld := ⟨KY_PROG_CTRL, 15, 8⟩
def KY_PROG_CTRL_SLOT : Fld := ⟨KY_PROG_CTRL, 5, 0⟩
def KY_PROG_STATUS : Nat := 0xF0204
def KY_PROG_STATUS_BUSY : Fld := ⟨KY_PROG_STATUS, 8, 8⟩
def KY_PROG_STATUS_RESULT : Fld := ⟨KY_PROG_STATUS, 2, 0⟩
def KY_PROG_DATAw (i : Nat) : Nat := 0xF0210 + 4 * i
def KY_PROG_DATAw_DATA (i : Nat) : Fld := ⟨(KY_PROG_DATAw i), 31, 0⟩
def KY_PKs_w (i j : Nat) : Nat := 0xF0400 + 64 * i + 4 * j
def KY_PKs_w_KEY (i j : Nat) : Fld := ⟨(KY_PKs_w i j), 31, 0⟩
def CP_CTRL (n : Nat) : Nat := 0x100000 + 0x10000 * n
def CP_CTRL_MAX_GEN (n : Nat) : Fld := ⟨(CP_CTRL n), 5, 4⟩
def CP_CTRL_LOG_REFRESH (n : Nat) : Fld := ⟨(CP_CTRL n), 2, 2⟩
def CP_CTRL_RESTART (n : Nat) : Fld := ⟨(CP_CTRL n), 1, 1⟩
def CP_CTRL_EN (n : Nat) : Fld := ⟨(CP_CTRL n), 0, 0⟩
def CP_STATE (n : Nat) : Nat := 0x100004 + 0x10000 * n
def CP_STATE_QDEPTH (n : Nat) : Fld := ⟨(CP_STATE n), 23, 16⟩
def CP_STATE_REASON (n : Nat) : Fld := ⟨(CP_STATE n), 15, 12⟩
def CP_STATE_WIDTH (n : Nat) : Fld := ⟨(CP_STATE n), 10, 8⟩
def CP_STATE_GEN (n : Nat) : Fld := ⟨(CP_STATE n), 6, 4⟩
def CP_STATE_STATE (n : Nat) : Fld := ⟨(CP_STATE n), 2, 0⟩
def CP_STATUS (n : Nat) : Nat := 0x100008 + 0x10000 * n
def CP_STATUS_SEQ (n : Nat) : Fld := ⟨(CP_STATUS n), 31, 24⟩
def CP_STATUS_EVENTS (n : Nat) : Fld := ⟨(CP_STATUS n), 6, 0⟩
def CP_INFO (n : Nat) : Nat := 0x10000C + 0x10000 * n
def CP_INFO_MAX_READ_KIB (n : Nat) : Fld := ⟨(CP_INFO n), 31, 16⟩
def CP_INFO_LBA_SHIFT (n : Nat) : Fld := ⟨(CP_INFO n), 7, 0⟩
def CP_NSZE (n i : Nat) : Nat := 0x100010 + 0x10000 * n + 4 * i
def CP_NSZE_NSZE (n i : Nat) : Fld := ⟨(CP_NSZE n i), 31, 0⟩
def CP_ERR (n : Nat) : Nat := 0x100018 + 0x10000 * n
def CP_ERR_OPC (n : Nat) : Fld := ⟨(CP_ERR n), 23, 16⟩
def CP_ERR_ADMIN (n : Nat) : Fld := ⟨(CP_ERR n), 15, 15⟩
def CP_ERR_SCT (n : Nat) : Fld := ⟨(CP_ERR n), 10, 8⟩
def CP_ERR_SC (n : Nat) : Fld := ⟨(CP_ERR n), 7, 0⟩
def CP_TIMEOUT (n : Nat) : Nat := 0x10001C + 0x10000 * n
def CP_TIMEOUT_MS (n : Nat) : Fld := ⟨(CP_TIMEOUT n), 15, 0⟩
def CP_READ_BYTES (n i : Nat) : Nat := 0x100020 + 0x10000 * n + 4 * i
def CP_READ_BYTES_COUNT (n i : Nat) : Fld := ⟨(CP_READ_BYTES n i), 31, 0⟩
def CP_CMD_ERR_COUNT (n : Nat) : Nat := 0x100028 + 0x10000 * n
def CP_CMD_ERR_COUNT_COUNT (n : Nat) : Fld := ⟨(CP_CMD_ERR_COUNT n), 31, 0⟩
def CP_TIMEOUT_COUNT (n : Nat) : Nat := 0x10002C + 0x10000 * n
def CP_TIMEOUT_COUNT_COUNT (n : Nat) : Fld := ⟨(CP_TIMEOUT_COUNT n), 31, 0⟩
def CP_IND_ADDR (n : Nat) : Nat := 0x100FF0 + 0x10000 * n
def CP_IND_ADDR_STRIDE (n : Nat) : Fld := ⟨(CP_IND_ADDR n), 23, 16⟩
def CP_IND_ADDR_ADDR (n : Nat) : Fld := ⟨(CP_IND_ADDR n), 15, 2⟩
def CP_IND_DATA (n : Nat) : Nat := 0x100FF4 + 0x10000 * n
def CP_IND_DATA_DATA (n : Nat) : Fld := ⟨(CP_IND_DATA n), 31, 0⟩
def CP_IND_STATUS (n : Nat) : Nat := 0x100FF8 + 0x10000 * n
def CP_IND_STATUS_TIMEOUT (n : Nat) : Fld := ⟨(CP_IND_STATUS n), 1, 1⟩
def CP_IND_STATUS_NOADDR (n : Nat) : Fld := ⟨(CP_IND_STATUS n), 0, 0⟩
def BX_CTRL (n : Nat) : Nat := 0x140000 + 0x10000 * n
def BX_CTRL_DEAD (n : Nat) : Fld := ⟨(BX_CTRL n), 23, 16⟩
def BX_CTRL_ABORT (n : Nat) : Fld := ⟨(BX_CTRL n), 2, 2⟩
def BX_CTRL_RESUME (n : Nat) : Fld := ⟨(BX_CTRL n), 1, 1⟩
def BX_CTRL_PAUSE (n : Nat) : Fld := ⟨(BX_CTRL n), 0, 0⟩
def BX_STATUS (n : Nat) : Nat := 0x140004 + 0x10000 * n
def BX_STATUS_SEQ (n : Nat) : Fld := ⟨(BX_STATUS n), 31, 24⟩
def BX_STATUS_SAFE (n : Nat) : Fld := ⟨(BX_STATUS n), 19, 19⟩
def BX_STATUS_PAUSED (n : Nat) : Fld := ⟨(BX_STATUS n), 18, 18⟩
def BX_STATUS_HALTED (n : Nat) : Fld := ⟨(BX_STATUS n), 17, 17⟩
def BX_STATUS_BUSY (n : Nat) : Fld := ⟨(BX_STATUS n), 16, 16⟩
def BX_STATUS_EVENTS (n : Nat) : Fld := ⟨(BX_STATUS n), 4, 0⟩
def BX_QUEUE (n : Nat) : Nat := 0x140008 + 0x10000 * n
def BX_QUEUE_COUNT (n : Nat) : Fld := ⟨(BX_QUEUE n), 20, 16⟩
def BX_QUEUE_TAIL (n : Nat) : Fld := ⟨(BX_QUEUE n), 11, 8⟩
def BX_QUEUE_HEAD (n : Nat) : Fld := ⟨(BX_QUEUE n), 3, 0⟩
def BX_SUBMIT (n : Nat) : Nat := 0x14000C + 0x10000 * n
def BX_SUBMIT_GO (n : Nat) : Fld := ⟨(BX_SUBMIT n), 0, 0⟩
def BX_ERR (n : Nat) : Nat := 0x140010 + 0x10000 * n
def BX_ERR_SLOT (n : Nat) : Fld := ⟨(BX_ERR n), 27, 24⟩
def BX_ERR_TICKET (n : Nat) : Fld := ⟨(BX_ERR n), 23, 16⟩
def BX_ERR_CODE (n : Nat) : Fld := ⟨(BX_ERR n), 7, 0⟩
def BX_ERR_ADDR (n : Nat) : Nat := 0x140014 + 0x10000 * n
def BX_ERR_ADDR_ADDR (n : Nat) : Fld := ⟨(BX_ERR_ADDR n), 29, 0⟩
def BX_TICKET (n : Nat) : Nat := 0x140018 + 0x10000 * n
def BX_TICKET_SUBMITTED (n : Nat) : Fld := ⟨(BX_TICKET n), 31, 16⟩
def BX_TICKET_RETIRED (n : Nat) : Fld := ⟨(BX_TICKET n), 15, 0⟩
def BX_CMD_COUNT (n : Nat) : Nat := 0x140020 + 0x10000 * n
def BX_CMD_COUNT_COUNT (n : Nat) : Fld := ⟨(BX_CMD_COUNT n), 31, 0⟩
def BX_ERR_COUNT (n : Nat) : Nat := 0x140024 + 0x10000 * n
def BX_ERR_COUNT_COUNT (n : Nat) : Fld := ⟨(BX_ERR_COUNT n), 31, 0⟩
def BX_BYTES (n i : Nat) : Nat := 0x140028 + 0x10000 * n + 4 * i
def BX_BYTES_COUNT (n i : Nat) : Fld := ⟨(BX_BYTES n i), 31, 0⟩
def BX_S_CMD (n i : Nat) : Nat := 0x140800 + 0x10000 * n + 128 * i
def BX_S_CMD_IRQ (n i : Nat) : Fld := ⟨(BX_S_CMD n i), 16, 16⟩
def BX_S_CMD_CLIP_EN (n i : Nat) : Fld := ⟨(BX_S_CMD n i), 15, 12⟩
def BX_S_CMD_Y_DIR (n i : Nat) : Fld := ⟨(BX_S_CMD n i), 9, 9⟩
def BX_S_CMD_X_DIR (n i : Nat) : Fld := ⟨(BX_S_CMD n i), 8, 8⟩
def BX_S_CMD_ESIZE (n i : Nat) : Fld := ⟨(BX_S_CMD n i), 5, 4⟩
def BX_S_CMD_OP (n i : Nat) : Fld := ⟨(BX_S_CMD n i), 3, 0⟩
def BX_S_CLR (n i : Nat) : Nat := 0x140804 + 0x10000 * n + 128 * i
def BX_S_CLR_DST_CLR (n i : Nat) : Fld := ⟨(BX_S_CLR n i), 15, 8⟩
def BX_S_CLR_SRC_CLR (n i : Nat) : Fld := ⟨(BX_S_CLR n i), 7, 0⟩
def BX_S_SRC_OFF (n i : Nat) : Nat := 0x140808 + 0x10000 * n + 128 * i
def BX_S_SRC_OFF_OFF (n i : Nat) : Fld := ⟨(BX_S_SRC_OFF n i), 29, 0⟩
def BX_S_DST_OFF (n i : Nat) : Nat := 0x14080C + 0x10000 * n + 128 * i
def BX_S_DST_OFF_OFF (n i : Nat) : Fld := ⟨(BX_S_DST_OFF n i), 29, 0⟩
def BX_S_SRC_PITCH (n i : Nat) : Nat := 0x140810 + 0x10000 * n + 128 * i
def BX_S_SRC_PITCH_PITCH (n i : Nat) : Fld := ⟨(BX_S_SRC_PITCH n i), 19, 0⟩
def BX_S_DST_PITCH (n i : Nat) : Nat := 0x140814 + 0x10000 * n + 128 * i
def BX_S_DST_PITCH_PITCH (n i : Nat) : Fld := ⟨(BX_S_DST_PITCH n i), 19, 0⟩
def BX_S_SIZE (n i : Nat) : Nat := 0x140818 + 0x10000 * n + 128 * i
def BX_S_SIZE_H (n i : Nat) : Fld := ⟨(BX_S_SIZE n i), 30, 16⟩
def BX_S_SIZE_W (n i : Nat) : Fld := ⟨(BX_S_SIZE n i), 14, 0⟩
def BX_S_FILL (n i j : Nat) : Nat := 0x140820 + 0x10000 * n + 128 * i + 4 * j
def BX_S_FILL_FILL (n i j : Nat) : Fld := ⟨(BX_S_FILL n i j), 31, 0⟩
def BX_S_CLIPk_POS (n i j : Nat) : Nat := 0x140840 + 0x10000 * n + 128 * i + 8 * j
def BX_S_CLIPk_POS_Y (n i j : Nat) : Fld := ⟨(BX_S_CLIPk_POS n i j), 30, 16⟩
def BX_S_CLIPk_POS_X (n i j : Nat) : Fld := ⟨(BX_S_CLIPk_POS n i j), 14, 0⟩
def BX_S_CLIPk_SIZE (n i j : Nat) : Nat := 0x140844 + 0x10000 * n + 128 * i + 8 * j
def BX_S_CLIPk_SIZE_H (n i j : Nat) : Fld := ⟨(BX_S_CLIPk_SIZE n i j), 30, 16⟩
def BX_S_CLIPk_SIZE_W (n i j : Nat) : Fld := ⟨(BX_S_CLIPk_SIZE n i j), 14, 0⟩
def CN_BN_CTRL (n i : Nat) : Nat := 0x160000 + 0x10000 * n + 4 * i
def CN_BN_CTRL_NODE_ALPHA (n i : Nat) : Fld := ⟨(CN_BN_CTRL n i), 31, 16⟩
def CN_BN_CTRL_OP (n i : Nat) : Fld := ⟨(CN_BN_CTRL n i), 3, 0⟩
def CN_BN_CTRL_STG (n i : Nat) : Nat := 0x160100 + 0x10000 * n + 4 * i
def CN_BN_CTRL_STG_NODE_ALPHA (n i : Nat) : Fld := ⟨(CN_BN_CTRL_STG n i), 31, 16⟩
def CN_BN_CTRL_STG_OP (n i : Nat) : Fld := ⟨(CN_BN_CTRL_STG n i), 3, 0⟩
def CN_BN_WIRE (n i : Nat) : Nat := 0x160200 + 0x10000 * n + 4 * i
def CN_BN_WIRE_USED (n i : Nat) : Fld := ⟨(CN_BN_WIRE n i), 24, 24⟩
def CN_BN_WIRE_HEAD (n i : Nat) : Fld := ⟨(CN_BN_WIRE n i), 18, 16⟩
def CN_BN_WIRE_IN_B (n i : Nat) : Fld := ⟨(CN_BN_WIRE n i), 15, 8⟩
def CN_BN_WIRE_IN_A (n i : Nat) : Fld := ⟨(CN_BN_WIRE n i), 7, 0⟩
def CN_ROOT (n : Nat) : Nat := 0x160300 + 0x10000 * n
def CN_ROOT_ROOT (n : Nat) : Fld := ⟨(CN_ROOT n), 31, 0⟩
def CN_BRIDGE_MAP (n i : Nat) : Nat := 0x160310 + 0x10000 * n + 4 * i
def CN_BRIDGE_MAP_SLOT (n i : Nat) : Fld := ⟨(CN_BRIDGE_MAP n i), 31, 0⟩
def CN_STATUS (n : Nat) : Nat := 0x160320 + 0x10000 * n
def CN_STATUS_SEQ (n : Nat) : Fld := ⟨(CN_STATUS n), 31, 24⟩
def CN_STATUS_STAT_SAT (n : Nat) : Fld := ⟨(CN_STATUS n), 1, 1⟩
def CN_STATUS_BRIDGE_LATE (n : Nat) : Fld := ⟨(CN_STATUS n), 0, 0⟩
def CN_BRIDGE_LATE_COUNT (n : Nat) : Nat := 0x160324 + 0x10000 * n
def CN_BRIDGE_LATE_COUNT_COUNT (n : Nat) : Fld := ⟨(CN_BRIDGE_LATE_COUNT n), 31, 0⟩
def HD_TIMING_HACT (n i : Nat) : Nat := 0x200000 + 0x10000 * n + 256 * i
def HD_TIMING_HACT_HACT (n i : Nat) : Fld := ⟨(HD_TIMING_HACT n i), 12, 0⟩
def HD_TIMING_HTOTAL (n i : Nat) : Nat := 0x200004 + 0x10000 * n + 256 * i
def HD_TIMING_HTOTAL_HTOTAL (n i : Nat) : Fld := ⟨(HD_TIMING_HTOTAL n i), 13, 0⟩
def HD_TIMING_HSYNC (n i : Nat) : Nat := 0x200008 + 0x10000 * n + 256 * i
def HD_TIMING_HSYNC_HPOL (n i : Nat) : Fld := ⟨(HD_TIMING_HSYNC n i), 31, 31⟩
def HD_TIMING_HSYNC_HSW (n i : Nat) : Fld := ⟨(HD_TIMING_HSYNC n i), 28, 16⟩
def HD_TIMING_HSYNC_HFP (n i : Nat) : Fld := ⟨(HD_TIMING_HSYNC n i), 12, 0⟩
def HD_TIMING_VACT (n i : Nat) : Nat := 0x20000C + 0x10000 * n + 256 * i
def HD_TIMING_VACT_VACT (n i : Nat) : Fld := ⟨(HD_TIMING_VACT n i), 12, 0⟩
def HD_TIMING_VTOTAL (n i : Nat) : Nat := 0x200010 + 0x10000 * n + 256 * i
def HD_TIMING_VTOTAL_VTOTAL (n i : Nat) : Fld := ⟨(HD_TIMING_VTOTAL n i), 13, 0⟩
def HD_TIMING_VSYNC (n i : Nat) : Nat := 0x200014 + 0x10000 * n + 256 * i
def HD_TIMING_VSYNC_VPOL (n i : Nat) : Fld := ⟨(HD_TIMING_VSYNC n i), 31, 31⟩
def HD_TIMING_VSYNC_VSW (n i : Nat) : Fld := ⟨(HD_TIMING_VSYNC n i), 28, 16⟩
def HD_TIMING_VSYNC_VFP (n i : Nat) : Fld := ⟨(HD_TIMING_VSYNC n i), 12, 0⟩
def HD_TIMING_EVE (n i : Nat) : Nat := 0x200018 + 0x10000 * n + 256 * i
def HD_TIMING_EVE_EVE (n i : Nat) : Fld := ⟨(HD_TIMING_EVE n i), 6, 0⟩
def HD_TIMING_VRR (n i : Nat) : Nat := 0x20001C + 0x10000 * n + 256 * i
def HD_TIMING_VRR_VRR_EN (n i : Nat) : Fld := ⟨(HD_TIMING_VRR n i), 31, 31⟩
def HD_TIMING_VRR_VTOTAL_MAX (n i : Nat) : Fld := ⟨(HD_TIMING_VRR n i), 13, 0⟩
def HD_CTRL (n : Nat) : Nat := 0x200200 + 0x10000 * n
def HD_CTRL_STOP (n : Nat) : Fld := ⟨(HD_CTRL n), 1, 1⟩
def HD_CTRL_START (n : Nat) : Fld := ⟨(HD_CTRL n), 0, 0⟩
def HD_COMMIT (n : Nat) : Nat := 0x200204 + 0x10000 * n
def HD_COMMIT_PAIR (n : Nat) : Fld := ⟨(HD_COMMIT n), 8, 8⟩
def HD_COMMIT_CANCEL (n : Nat) : Fld := ⟨(HD_COMMIT n), 1, 1⟩
def HD_COMMIT_ARM (n : Nat) : Fld := ⟨(HD_COMMIT n), 0, 0⟩
def HD_STATUS (n : Nat) : Nat := 0x200208 + 0x10000 * n
def HD_STATUS_SEQ (n : Nat) : Fld := ⟨(HD_STATUS n), 31, 24⟩
def HD_STATUS_LOCK_STATE (n : Nat) : Fld := ⟨(HD_STATUS n), 23, 21⟩
def HD_STATUS_SEALED (n : Nat) : Fld := ⟨(HD_STATUS n), 20, 20⟩
def HD_STATUS_ARMED (n : Nat) : Fld := ⟨(HD_STATUS n), 19, 19⟩
def HD_STATUS_RUN (n : Nat) : Fld := ⟨(HD_STATUS n), 18, 16⟩
def HD_STATUS_EVENTS (n : Nat) : Fld := ⟨(HD_STATUS n), 14, 0⟩
def HD_CHECK (n : Nat) : Nat := 0x20020C + 0x10000 * n
def HD_CHECK_CODE (n : Nat) : Fld := ⟨(HD_CHECK n), 7, 0⟩
def HD_PIXCLK (n : Nat) : Nat := 0x200210 + 0x10000 * n
def HD_PIXCLK_KHZ (n : Nat) : Fld := ⟨(HD_PIXCLK n), 19, 0⟩
def HD_EVENT_CFG (n : Nat) : Nat := 0x200214 + 0x10000 * n
def HD_EVENT_CFG_LINE_MATCH (n : Nat) : Fld := ⟨(HD_EVENT_CFG n), 13, 0⟩
def HD_SPLIT_CTRL (n : Nat) : Nat := 0x200218 + 0x10000 * n
def HD_SPLIT_CTRL_LEADER (n : Nat) : Fld := ⟨(HD_SPLIT_CTRL n), 0, 0⟩
def HD_POS (n : Nat) : Nat := 0x20021C + 0x10000 * n
def HD_POS_LINE (n : Nat) : Fld := ⟨(HD_POS n), 29, 16⟩
def HD_POS_PX (n : Nat) : Fld := ⟨(HD_POS n), 13, 0⟩
def HD_FRAME_COUNT (n : Nat) : Nat := 0x200220 + 0x10000 * n
def HD_FRAME_COUNT_COUNT (n : Nat) : Fld := ⟨(HD_FRAME_COUNT n), 31, 0⟩
def HD_UNDERRUN_INFO (n : Nat) : Nat := 0x200224 + 0x10000 * n
def HD_UNDERRUN_INFO_LINE (n : Nat) : Fld := ⟨(HD_UNDERRUN_INFO n), 29, 16⟩
def HD_UNDERRUN_INFO_CAUSE (n : Nat) : Fld := ⟨(HD_UNDERRUN_INFO n), 2, 0⟩
def HD_UNDERRUN_COUNT (n : Nat) : Nat := 0x200228 + 0x10000 * n
def HD_UNDERRUN_COUNT_COUNT (n : Nat) : Fld := ⟨(HD_UNDERRUN_COUNT n), 31, 0⟩
def HD_FRZ_CTRL (n : Nat) : Nat := 0x200240 + 0x10000 * n
def HD_FRZ_CTRL_FREEZE_N (n : Nat) : Fld := ⟨(HD_FRZ_CTRL n), 15, 8⟩
def HD_FRZ_CTRL_EN (n : Nat) : Fld := ⟨(HD_FRZ_CTRL n), 0, 0⟩
def HD_FRZ_WIN_POS (n : Nat) : Nat := 0x200244 + 0x10000 * n
def HD_FRZ_WIN_POS_Y (n : Nat) : Fld := ⟨(HD_FRZ_WIN_POS n), 29, 16⟩
def HD_FRZ_WIN_POS_X (n : Nat) : Fld := ⟨(HD_FRZ_WIN_POS n), 13, 0⟩
def HD_FRZ_WIN_SIZE (n : Nat) : Nat := 0x200248 + 0x10000 * n
def HD_FRZ_WIN_SIZE_H (n : Nat) : Fld := ⟨(HD_FRZ_WIN_SIZE n), 29, 16⟩
def HD_FRZ_WIN_SIZE_W (n : Nat) : Fld := ⟨(HD_FRZ_WIN_SIZE n), 13, 0⟩
def HD_FRZ_SIG (n : Nat) : Nat := 0x20024C + 0x10000 * n
def HD_FRZ_SIG_SIG (n : Nat) : Fld := ⟨(HD_FRZ_SIG n), 31, 0⟩
def HD_FRZ_REF (n : Nat) : Nat := 0x200250 + 0x10000 * n
def HD_FRZ_REF_REF (n : Nat) : Fld := ⟨(HD_FRZ_REF n), 31, 0⟩
def HD_FRZ_STATE (n : Nat) : Nat := 0x200254 + 0x10000 * n
def HD_FRZ_STATE_COUNT (n : Nat) : Fld := ⟨(HD_FRZ_STATE n), 15, 8⟩
def HD_FRZ_STATE_JUDGED (n : Nat) : Fld := ⟨(HD_FRZ_STATE n), 2, 2⟩
def HD_FRZ_STATE_EPISODE (n : Nat) : Fld := ⟨(HD_FRZ_STATE n), 1, 0⟩
def HD_TLOCK_CTRL (n : Nat) : Nat := 0x200280 + 0x10000 * n
def HD_TLOCK_CTRL_TRIM_MAX (n : Nat) : Fld := ⟨(HD_TLOCK_CTRL n), 15, 8⟩
def HD_TLOCK_CTRL_TSTART (n : Nat) : Fld := ⟨(HD_TLOCK_CTRL n), 4, 4⟩
def HD_TLOCK_CTRL_SKIP_LATE (n : Nat) : Fld := ⟨(HD_TLOCK_CTRL n), 3, 3⟩
def HD_TLOCK_CTRL_JUMP (n : Nat) : Fld := ⟨(HD_TLOCK_CTRL n), 2, 2⟩
def HD_TLOCK_CTRL_CAL (n : Nat) : Fld := ⟨(HD_TLOCK_CTRL n), 1, 1⟩
def HD_TLOCK_CTRL_EN (n : Nat) : Fld := ⟨(HD_TLOCK_CTRL n), 0, 0⟩
def HD_TLOCK_PERIOD (n : Nat) : Nat := 0x200284 + 0x10000 * n
def HD_TLOCK_PERIOD_PERIOD (n : Nat) : Fld := ⟨(HD_TLOCK_PERIOD n), 31, 0⟩
def HD_TLOCK_BASE_NS (n : Nat) : Nat := 0x200288 + 0x10000 * n
def HD_TLOCK_BASE_NS_NS (n : Nat) : Fld := ⟨(HD_TLOCK_BASE_NS n), 29, 0⟩
def HD_TLOCK_BASE_S (n : Nat) : Nat := 0x20028C + 0x10000 * n
def HD_TLOCK_BASE_S_S (n : Nat) : Fld := ⟨(HD_TLOCK_BASE_S n), 31, 0⟩
def HD_TLOCK_STATUS (n : Nat) : Nat := 0x200290 + 0x10000 * n
def HD_TLOCK_STATUS_LOCKED (n : Nat) : Fld := ⟨(HD_TLOCK_STATUS n), 31, 31⟩
def HD_TLOCK_STATUS_SKIPPED (n : Nat) : Fld := ⟨(HD_TLOCK_STATUS n), 30, 30⟩
def HD_TLOCK_STATUS_ERR_NS (n : Nat) : Fld := ⟨(HD_TLOCK_STATUS n), 19, 0⟩
def HD_LATE_NS (n : Nat) : Nat := 0x200298 + 0x10000 * n
def HD_LATE_NS_NS (n : Nat) : Fld := ⟨(HD_LATE_NS n), 29, 0⟩
def HD_LATE_S (n : Nat) : Nat := 0x20029C + 0x10000 * n
def HD_LATE_S_S (n : Nat) : Fld := ⟨(HD_LATE_S n), 31, 0⟩
def HD_BG_COLOR (n i : Nat) : Nat := 0x200C00 + 0x10000 * n + 256 * i
def HD_BG_COLOR_R (n i : Nat) : Fld := ⟨(HD_BG_COLOR n i), 29, 20⟩
def HD_BG_COLOR_G (n i : Nat) : Fld := ⟨(HD_BG_COLOR n i), 19, 10⟩
def HD_BG_COLOR_B (n i : Nat) : Fld := ⟨(HD_BG_COLOR n i), 9, 0⟩
def HD_OC_CTRL (n i : Nat) : Nat := 0x200C04 + 0x10000 * n + 256 * i
def HD_OC_CTRL_DITHER (n i : Nat) : Fld := ⟨(HD_OC_CTRL n i), 30, 29⟩
def HD_OC_CTRL_OUT_BPC (n i : Nat) : Fld := ⟨(HD_OC_CTRL n i), 28, 28⟩
def HD_OC_CTRL_RG_EXP (n i : Nat) : Fld := ⟨(HD_OC_CTRL n i), 26, 24⟩
def HD_OC_CTRL_RG_BANK (n i : Nat) : Fld := ⟨(HD_OC_CTRL n i), 21, 21⟩
def HD_OC_CTRL_RG_EN (n i : Nat) : Fld := ⟨(HD_OC_CTRL n i), 20, 20⟩
def HD_OC_CTRL_L3_EXP (n i : Nat) : Fld := ⟨(HD_OC_CTRL n i), 18, 16⟩
def HD_OC_CTRL_L3_BANK (n i : Nat) : Fld := ⟨(HD_OC_CTRL n i), 13, 13⟩
def HD_OC_CTRL_L3_EN (n i : Nat) : Fld := ⟨(HD_OC_CTRL n i), 12, 12⟩
def HD_OC_CTRL_BG_TRANSFER (n i : Nat) : Fld := ⟨(HD_OC_CTRL n i), 11, 9⟩
def HD_OC_CTRL_MAT_EN (n i : Nat) : Fld := ⟨(HD_OC_CTRL n i), 8, 8⟩
def HD_OC_CTRL_DG_EXP (n i : Nat) : Fld := ⟨(HD_OC_CTRL n i), 6, 4⟩
def HD_OC_CTRL_DG_BANK (n i : Nat) : Fld := ⟨(HD_OC_CTRL n i), 1, 1⟩
def HD_OC_CTRL_DG_EN (n i : Nat) : Fld := ⟨(HD_OC_CTRL n i), 0, 0⟩
def HD_OC_MAT_rc (n i j : Nat) : Nat := 0x200C08 + 0x10000 * n + 256 * i + 4 * j
def HD_OC_MAT_rc_COEF (n i j : Nat) : Fld := ⟨(HD_OC_MAT_rc n i j), 19, 0⟩
def HD_L3_PAGE (n : Nat) : Nat := 0x200C40 + 0x10000 * n
def HD_L3_PAGE_PAGE (n : Nat) : Fld := ⟨(HD_L3_PAGE n), 0, 0⟩
def HD_BG_OUT (n : Nat) : Nat := 0x200C44 + 0x10000 * n
def HD_BG_OUT_R (n : Nat) : Fld := ⟨(HD_BG_OUT n), 29, 20⟩
def HD_BG_OUT_G (n : Nat) : Fld := ⟨(HD_BG_OUT n), 19, 10⟩
def HD_BG_OUT_B (n : Nat) : Fld := ⟨(HD_BG_OUT n), 9, 0⟩
def HD_DGb_Cc (n i j k : Nat) : Nat := 0x201000 + 0x10000 * n + 6144 * i + 2048 * j + 4 * k
def HD_DGb_Cc_ENTRY (n i j k : Nat) : Fld := ⟨(HD_DGb_Cc n i j k), 31, 0⟩
def HD_RGb_Cc (n i j k : Nat) : Nat := 0x204000 + 0x10000 * n + 6144 * i + 2048 * j + 4 * k
def HD_RGb_Cc_ENTRY (n i j k : Nat) : Fld := ⟨(HD_RGb_Cc n i j k), 31, 0⟩
def HD_L3_Cc (n i j : Nat) : Nat := 0x208000 + 0x10000 * n + 10240 * i + 4 * j
def HD_L3_Cc_NODE (n i j : Nat) : Fld := ⟨(HD_L3_Cc n i j), 31, 0⟩
def HD_L3_Cc_LAST (n i : Nat) : Nat := 0x20A660 + 0x10000 * n + 10240 * i
def HD_L3_Cc_LAST_NODE (n i : Nat) : Fld := ⟨(HD_L3_Cc_LAST n i), 15, 0⟩
def DP_LINK_CTRL (n : Nat) : Nat := 0x280000 + 0x10000 * n
def DP_LINK_CTRL_ENABLE (n : Nat) : Fld := ⟨(DP_LINK_CTRL n), 8, 8⟩
def DP_LINK_CTRL_LANES (n : Nat) : Fld := ⟨(DP_LINK_CTRL n), 5, 4⟩
def DP_LINK_CTRL_RATE (n : Nat) : Fld := ⟨(DP_LINK_CTRL n), 1, 0⟩
def DP_TRAIN_CTRL (n : Nat) : Nat := 0x280004 + 0x10000 * n
def DP_TRAIN_CTRL_PATTERN (n : Nat) : Fld := ⟨(DP_TRAIN_CTRL n), 6, 4⟩
def DP_TRAIN_CTRL_MODE (n : Nat) : Fld := ⟨(DP_TRAIN_CTRL n), 1, 1⟩
def DP_TRAIN_CTRL_TRAIN (n : Nat) : Fld := ⟨(DP_TRAIN_CTRL n), 0, 0⟩
def DP_TRAIN_DRIVE (n : Nat) : Nat := 0x280008 + 0x10000 * n
def DP_TRAIN_DRIVE_DRIVE (n : Nat) : Fld := ⟨(DP_TRAIN_DRIVE n), 15, 0⟩
def DP_LINK_STATUS (n : Nat) : Nat := 0x28000C + 0x10000 * n
def DP_LINK_STATUS_SEQ (n : Nat) : Fld := ⟨(DP_LINK_STATUS n), 31, 24⟩
def DP_LINK_STATUS_STREAM (n : Nat) : Fld := ⟨(DP_LINK_STATUS n), 19, 19⟩
def DP_LINK_STATUS_ENCRYPTING (n : Nat) : Fld := ⟨(DP_LINK_STATUS n), 18, 18⟩
def DP_LINK_STATUS_HPD_LEVEL (n : Nat) : Fld := ⟨(DP_LINK_STATUS n), 17, 17⟩
def DP_LINK_STATUS_TRAINED (n : Nat) : Fld := ⟨(DP_LINK_STATUS n), 16, 16⟩
def DP_LINK_STATUS_EVENTS (n : Nat) : Fld := ⟨(DP_LINK_STATUS n), 11, 0⟩
def DP_TRAIN_RESULT (n : Nat) : Nat := 0x280010 + 0x10000 * n
def DP_TRAIN_RESULT_CODE (n : Nat) : Fld := ⟨(DP_TRAIN_RESULT n), 3, 0⟩
def DP_LINK_CHECK (n : Nat) : Nat := 0x280014 + 0x10000 * n
def DP_LINK_CHECK_CAUSE (n : Nat) : Fld := ⟨(DP_LINK_CHECK n), 2, 0⟩
def DP_AUX_CTRL (n : Nat) : Nat := 0x280020 + 0x10000 * n
def DP_AUX_CTRL_GO (n : Nat) : Fld := ⟨(DP_AUX_CTRL n), 31, 31⟩
def DP_AUX_CTRL_LEN (n : Nat) : Fld := ⟨(DP_AUX_CTRL n), 11, 8⟩
def DP_AUX_CTRL_CMD (n : Nat) : Fld := ⟨(DP_AUX_CTRL n), 3, 0⟩
def DP_AUX_ADDR (n : Nat) : Nat := 0x280024 + 0x10000 * n
def DP_AUX_ADDR_ADDR (n : Nat) : Fld := ⟨(DP_AUX_ADDR n), 19, 0⟩
def DP_AUX_DATAk (n i : Nat) : Nat := 0x280028 + 0x10000 * n + 4 * i
def DP_AUX_DATAk_DATA (n i : Nat) : Fld := ⟨(DP_AUX_DATAk n i), 31, 0⟩
def DP_AUX_STATUS (n : Nat) : Nat := 0x280038 + 0x10000 * n
def DP_AUX_STATUS_TIMEOUT_US (n : Nat) : Fld := ⟨(DP_AUX_STATUS n), 31, 16⟩
def DP_AUX_STATUS_BYTES (n : Nat) : Fld := ⟨(DP_AUX_STATUS n), 12, 8⟩
def DP_AUX_STATUS_BUSY (n : Nat) : Fld := ⟨(DP_AUX_STATUS n), 3, 3⟩
def DP_AUX_STATUS_REPLY (n : Nat) : Fld := ⟨(DP_AUX_STATUS n), 2, 0⟩
def DP_HPD_CTRL (n : Nat) : Nat := 0x280040 + 0x10000 * n
def DP_HPD_CTRL_EN (n : Nat) : Fld := ⟨(DP_HPD_CTRL n), 8, 8⟩
def DP_HPD_CTRL_SRC (n : Nat) : Fld := ⟨(DP_HPD_CTRL n), 5, 0⟩
def DP_SDP_CTRL (n : Nat) : Nat := 0x280044 + 0x10000 * n
def DP_SDP_CTRL_HEADER (n : Nat) : Fld := ⟨(DP_SDP_CTRL n), 31, 8⟩
def DP_SDP_CTRL_COLORIMETRY (n : Nat) : Fld := ⟨(DP_SDP_CTRL n), 7, 1⟩
def DP_SDP_CTRL_SW_EN (n : Nat) : Fld := ⟨(DP_SDP_CTRL n), 0, 0⟩
def DP_SDP_DATAk (n i : Nat) : Nat := 0x280048 + 0x10000 * n + 4 * i
def DP_SDP_DATAk_DATA (n i : Nat) : Fld := ⟨(DP_SDP_DATAk n i), 31, 0⟩
def DP_DSC_CTRL (n : Nat) : Nat := 0x280070 + 0x10000 * n
def DP_DSC_CTRL_BPP_X16 (n : Nat) : Fld := ⟨(DP_DSC_CTRL n), 24, 16⟩
def DP_DSC_CTRL_SLICES (n : Nat) : Fld := ⟨(DP_DSC_CTRL n), 5, 4⟩
def DP_DSC_CTRL_EN (n : Nat) : Fld := ⟨(DP_DSC_CTRL n), 0, 0⟩
def DP_DSC_SLICE (n : Nat) : Nat := 0x280074 + 0x10000 * n
def DP_DSC_SLICE_SLICE_H (n : Nat) : Fld := ⟨(DP_DSC_SLICE n), 12, 0⟩
def DP_HDCP_CTRL (n : Nat) : Nat := 0x280080 + 0x10000 * n
def DP_HDCP_CTRL_AUTO_REAUTH (n : Nat) : Fld := ⟨(DP_HDCP_CTRL n), 13, 13⟩
def DP_HDCP_CTRL_TYPE (n : Nat) : Fld := ⟨(DP_HDCP_CTRL n), 12, 12⟩
def DP_HDCP_CTRL_ENC_EN (n : Nat) : Fld := ⟨(DP_HDCP_CTRL n), 8, 8⟩
def DP_HDCP_CTRL_STOP_AUTH (n : Nat) : Fld := ⟨(DP_HDCP_CTRL n), 1, 1⟩
def DP_HDCP_CTRL_AUTH (n : Nat) : Fld := ⟨(DP_HDCP_CTRL n), 0, 0⟩
def DP_HDCP_STATUS (n : Nat) : Nat := 0x280084 + 0x10000 * n
def DP_HDCP_STATUS_TYPE_OK (n : Nat) : Fld := ⟨(DP_HDCP_STATUS n), 22, 21⟩
def DP_HDCP_STATUS_DEVICE_COUNT (n : Nat) : Fld := ⟨(DP_HDCP_STATUS n), 20, 16⟩
def DP_HDCP_STATUS_DEPTH (n : Nat) : Fld := ⟨(DP_HDCP_STATUS n), 14, 12⟩
def DP_HDCP_STATUS_FLAGS (n : Nat) : Fld := ⟨(DP_HDCP_STATUS n), 11, 8⟩
def DP_HDCP_STATUS_FAIL (n : Nat) : Fld := ⟨(DP_HDCP_STATUS n), 7, 4⟩
def DP_HDCP_STATUS_STATE (n : Nat) : Fld := ⟨(DP_HDCP_STATUS n), 3, 0⟩
def DP_HDCP_RXID_LO (n : Nat) : Nat := 0x280088 + 0x10000 * n
def DP_HDCP_RXID_LO_RXID (n : Nat) : Fld := ⟨(DP_HDCP_RXID_LO n), 31, 0⟩
def DP_HDCP_RXID_HI (n : Nat) : Nat := 0x28008C + 0x10000 * n
def DP_HDCP_RXID_HI_RXID (n : Nat) : Fld := ⟨(DP_HDCP_RXID_HI n), 7, 0⟩
def DP_DSC_PPSk (n i : Nat) : Nat := 0x280100 + 0x10000 * n + 4 * i
def DP_DSC_PPSk_PPS (n i : Nat) : Fld := ⟨(DP_DSC_PPSk n i), 31, 0⟩
def DP0_SRM_CTRL : Nat := 0x280200
def DP0_SRM_CTRL_LOAD : Fld := ⟨DP0_SRM_CTRL, 31, 31⟩
def DP0_SRM_CTRL_VERSION : Fld := ⟨DP0_SRM_CTRL, 15, 0⟩
def DP0_SRM_BUF (i : Nat) : Nat := 0x281000 + 4 * i
def DP0_SRM_BUF_DATA (i : Nat) : Fld := ⟨(DP0_SRM_BUF i), 31, 0⟩
def LE_CTRL (n : Nat) : Nat := 0x400000 + 0x10000 * n
def LE_CTRL_CSITE_V (n : Nat) : Fld := ⟨(LE_CTRL n), 18, 18⟩
def LE_CTRL_CSITE_H (n : Nat) : Fld := ⟨(LE_CTRL n), 17, 17⟩
def LE_CTRL_CHROMA_FILT (n : Nat) : Fld := ⟨(LE_CTRL n), 16, 16⟩
def LE_CTRL_TRANSFER (n : Nat) : Fld := ⟨(LE_CTRL n), 14, 12⟩
def LE_CTRL_MATRIX_EN (n : Nat) : Fld := ⟨(LE_CTRL n), 10, 10⟩
def LE_CTRL_ALPHA_MODE (n : Nat) : Fld := ⟨(LE_CTRL n), 9, 8⟩
def LE_CTRL_EDGE_MODE (n : Nat) : Fld := ⟨(LE_CTRL n), 5, 4⟩
def LE_CTRL_COEF_BANK (n : Nat) : Fld := ⟨(LE_CTRL n), 2, 2⟩
def LE_CTRL_DIRTY (n : Nat) : Fld := ⟨(LE_CTRL n), 1, 1⟩
def LE_CTRL_ENABLE (n : Nat) : Fld := ⟨(LE_CTRL n), 0, 0⟩
def LE_CTRL_STG (n : Nat) : Nat := 0x400100 + 0x10000 * n
def LE_CTRL_STG_CSITE_V (n : Nat) : Fld := ⟨(LE_CTRL_STG n), 18, 18⟩
def LE_CTRL_STG_CSITE_H (n : Nat) : Fld := ⟨(LE_CTRL_STG n), 17, 17⟩
def LE_CTRL_STG_CHROMA_FILT (n : Nat) : Fld := ⟨(LE_CTRL_STG n), 16, 16⟩
def LE_CTRL_STG_TRANSFER (n : Nat) : Fld := ⟨(LE_CTRL_STG n), 14, 12⟩
def LE_CTRL_STG_MATRIX_EN (n : Nat) : Fld := ⟨(LE_CTRL_STG n), 10, 10⟩
def LE_CTRL_STG_ALPHA_MODE (n : Nat) : Fld := ⟨(LE_CTRL_STG n), 9, 8⟩
def LE_CTRL_STG_EDGE_MODE (n : Nat) : Fld := ⟨(LE_CTRL_STG n), 5, 4⟩
def LE_CTRL_STG_COEF_BANK (n : Nat) : Fld := ⟨(LE_CTRL_STG n), 2, 2⟩
def LE_CTRL_STG_DIRTY (n : Nat) : Fld := ⟨(LE_CTRL_STG n), 1, 1⟩
def LE_CTRL_STG_ENABLE (n : Nat) : Fld := ⟨(LE_CTRL_STG n), 0, 0⟩
def LE_FORMAT (n i : Nat) : Nat := 0x400004 + 0x10000 * n + 256 * i
def LE_FORMAT_FMT (n i : Nat) : Fld := ⟨(LE_FORMAT n i), 7, 0⟩
def LE_SRC_BASE (n i j : Nat) : Nat := 0x400008 + 0x10000 * n + 256 * i + 4 * j
def LE_SRC_BASE_BASE (n i j : Nat) : Fld := ⟨(LE_SRC_BASE n i j), 29, 0⟩
def LE_PITCH (n i j : Nat) : Nat := 0x400014 + 0x10000 * n + 256 * i + 4 * j
def LE_PITCH_PITCH (n i j : Nat) : Fld := ⟨(LE_PITCH n i j), 19, 0⟩
def LE_SRC_SIZE (n i : Nat) : Nat := 0x40001C + 0x10000 * n + 256 * i
def LE_SRC_SIZE_SRC_H (n i : Nat) : Fld := ⟨(LE_SRC_SIZE n i), 30, 16⟩
def LE_SRC_SIZE_SRC_W (n i : Nat) : Fld := ⟨(LE_SRC_SIZE n i), 14, 0⟩
def LE_CROP_POS (n i : Nat) : Nat := 0x400020 + 0x10000 * n + 256 * i
def LE_CROP_POS_CROP_Y (n i : Nat) : Fld := ⟨(LE_CROP_POS n i), 30, 16⟩
def LE_CROP_POS_CROP_X (n i : Nat) : Fld := ⟨(LE_CROP_POS n i), 14, 0⟩
def LE_CROP_SIZE (n i : Nat) : Nat := 0x400024 + 0x10000 * n + 256 * i
def LE_CROP_SIZE_CROP_H (n i : Nat) : Fld := ⟨(LE_CROP_SIZE n i), 30, 16⟩
def LE_CROP_SIZE_CROP_W (n i : Nat) : Fld := ⟨(LE_CROP_SIZE n i), 14, 0⟩
def LE_DST_POS (n i : Nat) : Nat := 0x400028 + 0x10000 * n + 256 * i
def LE_DST_POS_DST_Y (n i : Nat) : Fld := ⟨(LE_DST_POS n i), 31, 16⟩
def LE_DST_POS_DST_X (n i : Nat) : Fld := ⟨(LE_DST_POS n i), 15, 0⟩
def LE_DST_SIZE (n i : Nat) : Nat := 0x40002C + 0x10000 * n + 256 * i
def LE_DST_SIZE_DST_H (n i : Nat) : Fld := ⟨(LE_DST_SIZE n i), 28, 16⟩
def LE_DST_SIZE_DST_W (n i : Nat) : Fld := ⟨(LE_DST_SIZE n i), 12, 0⟩
def LE_SCALE_MODE (n i : Nat) : Nat := 0x400030 + 0x10000 * n + 256 * i
def LE_SCALE_MODE_DEC_V (n i : Nat) : Fld := ⟨(LE_SCALE_MODE n i), 13, 12⟩
def LE_SCALE_MODE_DEC_H (n i : Nat) : Fld := ⟨(LE_SCALE_MODE n i), 9, 8⟩
def LE_SCALE_MODE_V_MODE (n i : Nat) : Fld := ⟨(LE_SCALE_MODE n i), 5, 4⟩
def LE_SCALE_MODE_H_MODE (n i : Nat) : Fld := ⟨(LE_SCALE_MODE n i), 1, 0⟩
def LE_STEP (n i j : Nat) : Nat := 0x400034 + 0x10000 * n + 256 * i + 4 * j
def LE_STEP_STEP (n i j : Nat) : Fld := ⟨(LE_STEP n i j), 21, 0⟩
def LE_INIT (n i j : Nat) : Nat := 0x40003C + 0x10000 * n + 256 * i + 4 * j
def LE_INIT_INIT (n i j : Nat) : Fld := ⟨(LE_INIT n i j), 23, 0⟩
def LE_PLANE_ALPHA (n i : Nat) : Nat := 0x400044 + 0x10000 * n + 256 * i
def LE_PLANE_ALPHA_PA (n i : Nat) : Fld := ⟨(LE_PLANE_ALPHA n i), 15, 0⟩
def LE_CONST_COLOR (n i : Nat) : Nat := 0x400048 + 0x10000 * n + 256 * i
def LE_CONST_COLOR_R (n i : Nat) : Fld := ⟨(LE_CONST_COLOR n i), 29, 20⟩
def LE_CONST_COLOR_G (n i : Nat) : Fld := ⟨(LE_CONST_COLOR n i), 19, 10⟩
def LE_CONST_COLOR_B (n i : Nat) : Fld := ⟨(LE_CONST_COLOR n i), 9, 0⟩
def LE_MAT0 (n i : Nat) : Nat := 0x40004C + 0x10000 * n + 256 * i
def LE_MAT0_M01 (n i : Nat) : Fld := ⟨(LE_MAT0 n i), 30, 16⟩
def LE_MAT0_M00 (n i : Nat) : Fld := ⟨(LE_MAT0 n i), 14, 0⟩
def LE_MAT1 (n i : Nat) : Nat := 0x400050 + 0x10000 * n + 256 * i
def LE_MAT1_OFF0 (n i : Nat) : Fld := ⟨(LE_MAT1 n i), 30, 16⟩
def LE_MAT1_M02 (n i : Nat) : Fld := ⟨(LE_MAT1 n i), 14, 0⟩
def LE_MAT2 (n i : Nat) : Nat := 0x400054 + 0x10000 * n + 256 * i
def LE_MAT2_M11 (n i : Nat) : Fld := ⟨(LE_MAT2 n i), 30, 16⟩
def LE_MAT2_M10 (n i : Nat) : Fld := ⟨(LE_MAT2 n i), 14, 0⟩
def LE_MAT3 (n i : Nat) : Nat := 0x400058 + 0x10000 * n + 256 * i
def LE_MAT3_OFF1 (n i : Nat) : Fld := ⟨(LE_MAT3 n i), 30, 16⟩
def LE_MAT3_M12 (n i : Nat) : Fld := ⟨(LE_MAT3 n i), 14, 0⟩
def LE_MAT4 (n i : Nat) : Nat := 0x40005C + 0x10000 * n + 256 * i
def LE_MAT4_M21 (n i : Nat) : Fld := ⟨(LE_MAT4 n i), 30, 16⟩
def LE_MAT4_M20 (n i : Nat) : Fld := ⟨(LE_MAT4 n i), 14, 0⟩
def LE_MAT5 (n i : Nat) : Nat := 0x400060 + 0x10000 * n + 256 * i
def LE_MAT5_OFF2 (n i : Nat) : Fld := ⟨(LE_MAT5 n i), 30, 16⟩
def LE_MAT5_M22 (n i : Nat) : Fld := ⟨(LE_MAT5 n i), 14, 0⟩
def LE_STATUS (n : Nat) : Nat := 0x400200 + 0x10000 * n
def LE_STATUS_SEQ (n : Nat) : Fld := ⟨(LE_STATUS n), 31, 24⟩
def LE_STATUS_CFG_ERR (n : Nat) : Fld := ⟨(LE_STATUS n), 23, 20⟩
def LE_STATUS_FLATTENED (n : Nat) : Fld := ⟨(LE_STATUS n), 17, 17⟩
def LE_STATUS_ACTIVE (n : Nat) : Fld := ⟨(LE_STATUS n), 16, 16⟩
def LE_STATUS_STAT_SAT (n : Nat) : Fld := ⟨(LE_STATUS n), 3, 3⟩
def LE_STATUS_WITHDRAWN (n : Nat) : Fld := ⟨(LE_STATUS n), 2, 2⟩
def LE_STATUS_POISON (n : Nat) : Fld := ⟨(LE_STATUS n), 1, 1⟩
def LE_STATUS_FETCH_REFUSED (n : Nat) : Fld := ⟨(LE_STATUS n), 0, 0⟩
def LE_SIG (n : Nat) : Nat := 0x400204 + 0x10000 * n
def LE_SIG_SIG (n : Nat) : Fld := ⟨(LE_SIG n), 31, 0⟩
def LE_SIG_INFO (n : Nat) : Nat := 0x400208 + 0x10000 * n
def LE_SIG_INFO_SIG_FRAME (n : Nat) : Fld := ⟨(LE_SIG_INFO n), 31, 16⟩
def LE_SIG_INFO_SIG_HELD (n : Nat) : Fld := ⟨(LE_SIG_INFO n), 1, 1⟩
def LE_SIG_INFO_SIG_VALID (n : Nat) : Fld := ⟨(LE_SIG_INFO n), 0, 0⟩
def LE_CACHE_INFO (n : Nat) : Nat := 0x40020C + 0x10000 * n
def LE_CACHE_INFO_NEED_KIB (n : Nat) : Fld := ⟨(LE_CACHE_INFO n), 31, 16⟩
def LE_CACHE_INFO_CACHE_KIB (n : Nat) : Fld := ⟨(LE_CACHE_INFO n), 15, 0⟩
def LE_MAP (n : Nat) : Nat := 0x400210 + 0x10000 * n
def LE_MAP_BRIDGE (n : Nat) : Fld := ⟨(LE_MAP n), 8, 8⟩
def LE_MAP_MAPPED (n : Nat) : Fld := ⟨(LE_MAP n), 7, 7⟩
def LE_MAP_HEAD (n : Nat) : Fld := ⟨(LE_MAP n), 2, 0⟩
def LE_BURSTS (n i : Nat) : Nat := 0x400218 + 0x10000 * n + 4 * i
def LE_BURSTS_COUNT (n i : Nat) : Fld := ⟨(LE_BURSTS n i), 31, 0⟩
def LE_FRAMES (n : Nat) : Nat := 0x400220 + 0x10000 * n
def LE_FRAMES_COUNT (n : Nat) : Fld := ⟨(LE_FRAMES n), 31, 0⟩
def LE_REFUSED_COUNT (n : Nat) : Nat := 0x400224 + 0x10000 * n
def LE_REFUSED_COUNT_COUNT (n : Nat) : Fld := ⟨(LE_REFUSED_COUNT n), 31, 0⟩
def LE_COEF_Hb_p_w (n i j k : Nat) : Nat := 0x401000 + 0x10000 * n + 2048 * i + 16 * j + 4 * k
def LE_COEF_Hb_p_w_TAP_ODD (n i j k : Nat) : Fld := ⟨(LE_COEF_Hb_p_w n i j k), 29, 16⟩
def LE_COEF_Hb_p_w_TAP_EVEN (n i j k : Nat) : Fld := ⟨(LE_COEF_Hb_p_w n i j k), 13, 0⟩
def LE_COEF_Vb_p_w (n i j k : Nat) : Nat := 0x401400 + 0x10000 * n + 2048 * i + 12 * j + 4 * k
def LE_COEF_Vb_p_w_TAP_ODD (n i j k : Nat) : Fld := ⟨(LE_COEF_Vb_p_w n i j k), 29, 16⟩
def LE_COEF_Vb_p_w_TAP_EVEN (n i j k : Nat) : Fld := ⟨(LE_COEF_Vb_p_w n i j k), 13, 0⟩

end R
end Sys2Proof.Machine
end

