-- ==== Sys2Proof/Syntax/Types.lean ====
section
/-!
DEFINITION. The operand types of the commands: which way an access comes, how wide it is, which power-up step, and so
on. The commands themselves are the constructors of `Sys2Proof.Instr`.
-/
namespace Sys2Proof

/-- Where an access comes from (R116, SY_BUSERR_INFO.BAR of R158). -/
inductive Bar where
  | bar0 | bar2 | bar4 | ring
  deriving DecidableEq, Repr

/-- The access kinds of R123: 8, 16, 24 (three contiguous byte enables) and 32 bits, a 32-bit word with byte enables
that are not contiguous, and a request of 64 bits or longer of `words` 32-bit parts (R124). -/
inductive AccessKind where
  | w8 | w16 | w24 | w32
  | sparse (enables : BitVec 4)
  | long (words : Nat)
  deriving DecidableEq, Repr

/-- One access as the endpoint receives it; `data` holds the written words, lowest offset first (empty for a read). -/
structure BusAccess where
  bar : Bar
  write : Bool
  kind : AccessKind
  offset : Nat
  data : List Word
  deriving DecidableEq, Repr

/-- The steps of the staggered start (R95). -/
inductive PowerStep where
  | control | pcie | fs0 | fs1 | fs2 | fs3 | ring | cartridge | display
  deriving DecidableEq, Repr

/-- The blocks SY_SRST and SY_SRST_LE_LO/_HI name (R113). -/
inductive SoftBlock where
  | gv
  | fs (n : Fin 4)
  | cn (x : Fin 2)
  | bx (n : Fin 2)
  | cp (n : Fin 4)
  | as
  | rp (n : Fin 2)
  | sh | ts | ev | ic
  | le (n : Fin 64)
  deriving DecidableEq, Repr

/-- Who makes a frame-store request (R182). AS carries the owner of its bundle (R179). -/
inductive Requester where
  | le (n : Fin 64)
  | gv
  | bx (n : Fin 2)
  | as (owner : Fin 16)
  | rp (n : Fin 2)
  | host
  | scrub
  | zerofill
  deriving DecidableEq, Repr

/-- An error that has struck a stored 16-byte word: the word's number (its address / 16) and the bits that change, the
128 data bits below the 16 check bits (R171). -/
structure WordError where
  word : BitVec 26
  bits : BitVec 144
  deriving DecidableEq, Repr

/-- A write burst: 64 bytes and 64 byte enables, bit k for byte k (R164). -/
structure BurstWrite where
  bytes : List Byte
  enables : BitVec 64
  deriving DecidableEq, Repr

/-- A PTP port identity (IEEE 1588-2019, cited by R462). -/
structure PortId where
  clock : BitVec 64
  port : BitVec 16
  deriving DecidableEq, Repr

/-- The fields of a Sync, a Follow_Up or a Pdelay message that the device uses (R462, R464). `correction` is in 2⁻¹⁶
ns; `seconds` and `nanos` are the origin or receipt timestamp; `requester` is the requesting port of a Pdelay
response. -/
structure TimeMsg where
  domain : BitVec 8
  source : PortId
  seq : BitVec 16
  twoStep : Bool
  correction : BitVec 64
  seconds : BitVec 48
  nanos : BitVec 32
  requester : PortId
  deriving DecidableEq, Repr

/-- The fields of an Announce (R463). -/
structure Announce where
  domain : BitVec 8
  source : PortId
  seq : BitVec 16
  gm : BitVec 64
  priority1 : BitVec 8
  clockClass : BitVec 8
  accuracy : BitVec 8
  variance : BitVec 16
  priority2 : BitVec 8
  steps : BitVec 16
  deriving DecidableEq, Repr

/-- A time message as a port carries it (R462); `ignored`: a Signaling or Management message; `other`: a message that
is dropped (Delay_Req, Delay_Resp, another version or sdoId). -/
inductive TimeFrame where
  | sync (m : TimeMsg)
  | followUp (m : TimeMsg)
  | announce (m : Announce)
  | pdelayReq (m : TimeMsg)
  | pdelayResp (m : TimeMsg)
  | pdelayRespFollowUp (m : TimeMsg)
  | ignored
  | other
  deriving DecidableEq, Repr

/-- A device frame: the header fields of R411 and the payload. -/
structure RingFrame where
  version : BitVec 8
  kind : BitVec 8
  subtype : BitVec 8
  cls : BitVec 8
  dest : BitVec 8
  src : BitVec 8
  hops : BitVec 8
  flags : BitVec 8
  txn : BitVec 16
  length : BitVec 16
  tag : BitVec 16
  frame : BitVec 16
  offset : BitVec 32
  arg0 : BitVec 32
  arg1 : BitVec 32
  status : BitVec 8
  owner : BitVec 8
  iv : BitVec 96
  time : BitVec 32
  payload : List Byte
  deriving DecidableEq, Repr

/-- A frame as a ring port receives it (R410), by its EtherType: a time message (`tagged`: with a VLAN tag), a device
frame, any other. -/
inductive WireFrame where
  | time (tagged : Bool) (m : TimeFrame)
  | device (f : RingFrame)
  | other
  deriving DecidableEq, Repr

/-- How a frame reaches a ring port (R410, R447): is its frame check sequence good; the RS-FEC codewords that were
corrected and that could not be since the port's last frame, and the symbols corrected on each of the four lanes. -/
structure RxQuality where
  fcsOk : Bool
  corrected : Nat
  uncorrected : Nat
  symbols : List Nat
  deriving DecidableEq, Repr

/-- What completes a bring-up step of a cartridge port (R376, R377), with what the step returns: CAP with the class
code; a step or command that returns nothing the port keeps; Identify Controller (MDTS and bytes 0 to 255);
Identify Namespace (NSZE, the LBA data size's exponent, metadata size, protection enabled); a log page; an admin
command's failure. -/
inductive CpReply where
  | caps (classCode : BitVec 24) (nvm : Bool) (mpsMin : Fin 16) (mqes : BitVec 16)
  | done
  | controller (mdts : BitVec 8) (bytes : List Byte)
  | namespaceInfo (nsze : BitVec 64) (lbads : BitVec 8) (metadata : BitVec 16) (protection : Bool)
  | log (bytes : List Byte)
  | failed (sct : BitVec 3) (sc : BitVec 8)
  deriving DecidableEq, Repr

/-- How a Read ends (R378): its status code type and status code (both 0: success), its bytes, and, after a failure,
the Error Information entry that the port fetches. -/
structure CpRead where
  sct : BitVec 3
  sc : BitVec 8
  bytes : List Byte
  errorEntry : List Byte
  deriving DecidableEq, Repr

/-- What DPn reads from the sink at an HPD_IRQ (R335, R344): a trained lane has lost lock; RxStatus asks for
re-authentication. -/
structure SinkStatus where
  lockLost : Bool
  reauthReq : Bool
  deriving DecidableEq, Repr

/-- How HDCP authentication ends at the receiver (R344): with the receiver's ID, what RxInfo reports (a repeater,
devices downstream, limits exceeded) and the IDs downstream; or with a failure by its FAIL code. -/
inductive HdcpResult where
  | passed (rxid : BitVec 40) (repeater hdcp1Down hdcp20Down maxExceeded : Bool) (depth : Fin 8) (count : Fin 32)
      (ids : List (BitVec 40))
  | failed (code : Fin 16)
  deriving DecidableEq, Repr

end Sys2Proof
end

