-- ==== Sys2Proof/Machine/Parts/Core.lean ====
section
/-!
DEFINITION. State of the unit-wide parts: power and chain (chapter 03), the loader and the structure in force
(chapter 02), OTP (chapter 12), the interrupt controller (chapter 15), the test and management ports (chapter 16).
-/
namespace Sys2Proof.Machine

/-- Where the unit stands in power-up (R82, R513). -/
inductive PowerPhase where
  | por          -- POR asserted
  | otpLoading   -- POR released, the OTP shadow loading (R513)
  | running      -- the OTP shadow has loaded
  deriving DecidableEq, Repr

/-- Where address assignment stands (R82 to R86). -/
inductive AddrPhase where
  | held        -- before the release of R82
  | released    -- the 1 µs to the CADDR_IN sample runs
  | waitToken   -- CADDR_IN read low; waiting for a token
  | done        -- the unit holds an address or an ENUM_ERR
  deriving DecidableEq, Repr

/-- Where a unit stands in tracking the chain's bits (R90, R91): it hunts for SYNC, with the bits seen since it began
to hunt, oldest first in a 32-bit number that starts as all ones; it has some bits of CMD, DEST and their
complements; or it takes image bytes (`load`: it loads the frame; the first bytes, up to the 64 of the header; the
bytes left once the header has told the length; the bits of an incomplete byte). -/
inductive ChainRx where
  | hunt (last : Nat)
  | header (got : List Bool)
  | image (load : Bool) (head : List Byte) (left : Nat) (got : List Bool)
  deriving DecidableEq, Repr

/-- Power, reset and chain state outside the registers (R80 to R99, R516). -/
structure ChainSt where
  power : PowerPhase
  crstLow : Bool            -- CRST_N is low, by its filter (R514)
  tripHold : Bool           -- the unit stays in the CRST state of a thermal trip (R516)
  slotMs : Nat              -- CH_STAGGER.SLOT_MS in force for this start (R109)
  addr : AddrPhase
  started : List PowerStep  -- steps of R95 started and not completed
  controlUp : Bool          -- the control island's step has completed (R95)
  cerrLoad : Bool           -- CERR_N driven low for a load cause of R94
  rx : ChainRx              -- the tracking of chain frames (R91)
  cdout : Bool              -- the level that CDOUT last drove (R80, R89)
  caddrOut : Bool           -- the level of CADDR_OUT: 0 between tokens (R80, R83)
  deriving DecidableEq, Repr

/-- A record of the clearing table in force (R50). -/
structure Clearing where
  number : Nat
  attr : Nat
  half : Nat
  owner : Nat
  base : Nat
  size : Nat
  ringTag : Nat
  deriving DecidableEq, Repr

/-- An LE_MAP record (R52). -/
structure LeRec where
  le : Nat
  head : Nat
  cacheKib : Nat
  deriving DecidableEq, Repr

/-- A CANOPY record (R53), inputs in source encoding. -/
structure NodeRec where
  node : Nat
  head : Nat
  inA : Nat
  inB : Nat
  deriving DecidableEq, Repr

/-- A HEAD_CAPS record (R54). -/
structure HeadCap where
  head : Nat
  mode : Nat
  root : Nat
  cloneSrc : Nat
  partner : Nat
  flags : Nat
  linkMax : Nat
  hactMax : Nat
  vactMax : Nat
  deriving DecidableEq, Repr

/-- A KEY_POLICY record (R58). -/
structure OwnerRec where
  owner : Nat
  keySlot : Nat
  hdcp : Nat
  perms : Nat
  deriving DecidableEq, Repr

/-- The structure in force (R41 to R60): what the applied images fixed. `islands` lists the frequencies that differ
from the defaults of R48. -/
structure Floorplan where
  islands : List (Nat × Nat)
  clearings : List Clearing
  leMap : List LeRec
  canopy : List NodeRec
  heads : List HeadCap
  ringClass : List (Nat × Nat)
  irqMap : List (Nat × Nat)
  owners : List OwnerRec
  deriving DecidableEq, Repr

/-- Where the loader stands (R62, R64, R74). -/
inductive LoadPhase where
  | idle | receiving | validating | applying | zerofill
  deriving DecidableEq, Repr

/-- Who owns the loader (CH_LOAD_ERR.SOURCE, R70). -/
inductive LoadSource where
  | pcie | unicast | broadcast
  deriving DecidableEq, Repr

/-- The image loader (R64 to R79). `image` holds the bytes received so far; `held` the heads whose start requests wait
for the end of the load (R76); `flrWaiting` an FLR that takes effect once the load has ended (R79); `applied` the
copy of the applied image (R149); `zero` the byte ranges (base, size) that the zero-fill writes (R77). The image
of an apply takes effect as a whole at DONE (R62), so it stays in `image` until then. -/
structure LoaderSt where
  phase : LoadPhase
  source : LoadSource
  image : List Byte
  held : List Nat
  flrWaiting : Bool
  applied : List Byte
  zero : List (Nat × Nat)
  deriving DecidableEq, Repr

/-- OTP fuses (R393, R395): programmed key slots with their contents, revoked slots, the CFG fuses. -/
structure Otp where
  pages : List (Nat × List Byte)   -- programmed pages by slot or page number, with the bytes programmed
  revoked : Nat
  requireSigned : Bool
  progDisable : Bool
  deriving DecidableEq, Repr

/-- One entry of a target's priority stack (R485). -/
structure StackEntry where
  src : Nat
  prio : Nat
  deriving DecidableEq, Repr

/-- An interrupt target (R485, R489): its stack, top first; its fault; its line as last computed. -/
structure IcTarget where
  stack : List StackEntry
  fault : Bool
  faultSrc : Nat
  line : Bool
  deriving DecidableEq, Repr

/-- A coalescing group (R493): open or closed, the edges counted, the raw time of the first counted edge. -/
structure CoalGroup where
  isOpen : Bool
  count : Nat
  since : Option Nat
  deriving DecidableEq, Repr

/-- The interrupt controller outside its registers (R482 to R494). -/
structure IcSt where
  targets : Vector IcTarget 16
  groups : Vector CoalGroup 32
  inflight : List (List Nat)  -- source edges on their way to IC, those of one clk together, oldest first (R24, R25, R482)
  msixEnable : Bool        -- MSI-X Enable of the endpoint's capability (R486)
  funcMask : Bool          -- its Function Mask (R486)
  deriving DecidableEq, Repr

/-- The test port's instruction in force (R519). -/
inductive TapInstr where
  | extest | samplePreload | idcode | clamp | highz | bypass
  deriving DecidableEq, Repr

/-- Test port (R519), management port (R518) and temperature readings (R516, R517). -/
structure BoardSt where
  tap : TapInstr
  boundary : List Bool     -- the 180 cells, cell 0 first
  shift : Nat              -- the selected data register as loaded for shifting (IDCODE or the bypass bit)
  ptr : Nat                -- the management port's pointer
  logicC : List Int        -- the nine logic-die sensors, °C
  stackC : List Int        -- the four stacks, °C
  deriving DecidableEq, Repr

end Sys2Proof.Machine
end

