-- ==== Sys2Proof/Machine/Parts/Store.lean ====
section
/-!
DEFINITION. State of the frame-store front end and the stacks outside their registers (chapter 05).
-/
namespace Sys2Proof.Machine

/-- What a request is for: the requester's own note, by which its completion finds its place. -/
inductive Purpose where
  | plain                                   -- a request made by itself (FS_REQUEST)
  | leFetch (le id : Nat)                   -- a burst of a layer's row, by its number in the engine's cache (R217)
  | hostRead (id part : Nat)                -- a part of a host window read (R183)
  | hostWrite (win : Nat) (last : Bool) (serial : Nat)  -- a part of a host window write, numbered; last: it holds offset
                                            -- 0x1FFF (R184)
  | bxRead (engine cmd : Nat)               -- a copy engine's row read (R359), by command
  | bxWrite (engine cmd : Nat)              -- a copy engine's row write
  | asWrite (lane job chunk : Nat)          -- a decoded chunk's write (R398)
  | ringWrite (key : Nat)                   -- a write for a received WRITE or TILE (R418, R428); key names it in SH
  | ringRead (key : Nat)                    -- a read of a remote READ_REQ (R419)
  | channelRead (k piece : Nat)             -- a requester channel's read of its local clearing, by piece (R420)
  | channelWrite (k piece : Nat)            -- a READ_RSP's write into the local clearing (R420)
  | sourceRead (s : Nat)                    -- a source's read of its surface (R424)
  | flatWrite (k gen : Nat)                 -- the governor's capture of a surface, by its generation (R279)
  | flatVerify (k gen line i : Nat)         -- the read-back of a surface's burst i of a line (R279)
  | flatRead (k gen line i : Nat)           -- the surface reader's read of burst i of a line (R278)
  deriving DecidableEq, Repr

/-- One 64-byte request (R164). -/
structure Request where
  who : Requester
  addr : Nat
  write : Option BurstWrite
  purpose : Purpose
  deriving DecidableEq, Repr

/-- What a stack answers to a request that it has granted: a read's 64 bytes and their poison; nothing for a write. -/
structure Answer where
  poisoned : Bool
  bytes : List Byte
  deriving DecidableEq, Repr

/-- A request that holds a tag (R165), in the order of acceptance; `got`: what its stack answers, once it has granted
the request (R169). -/
structure Inflight where
  tag : Nat
  req : Request
  got : Option Answer
  deriving DecidableEq, Repr

/-- The arbiter of a stack (R169): the 256-clk window it looked at last and the scan-out bytes granted in it; the bulk
requester whose turn it is and the grants it has had; a refresh that has reached its deadline. -/
structure ArbSt where
  window : Nat
  used : Nat
  turn : Nat
  given : Nat
  refresh : Bool
  deriving DecidableEq, Repr

/-- An access to CL that waits for its turn behind the window parts before it: a part of a window access (window,
offset in it; a write's bytes with their enables and the number it has, last: it holds offset 0x1FFF; a read's
identity and part), or one part of a write to a CL register (R183, R184). -/
inductive HostItem where
  | write (win off : Nat) (bytes : List Byte) (enables : List Bool) (serial : Nat) (last : Bool)
  | read (win off id part : Nat)
  | reg (access : BusAccess) (offset : Nat) (data : Word)
  deriving DecidableEq, Repr

/-- A host window read that waits for its parts (R183) and for the window writes before it (R185). -/
structure HostRead where
  id : Nat
  clOffset : Nat
  len : Nat
  parts : List (Nat × List Byte)    -- parts delivered: number and bytes
  due : Nat                         -- parts still in flight or waiting
  aborted : Bool
  poisoned : Bool
  writes : List Nat                 -- numbers of the window writes that must complete first
  deriving DecidableEq, Repr

/-- A read of a CL register (one part of an access) whose completion waits for the window writes before it (R185). -/
structure HeldRead where
  access : BusAccess
  offset : Nat
  writes : List Nat
  deriving DecidableEq, Repr

/-- An ECC write-back queued in the maintenance share (R172, R176): the word's address and its corrected bytes. -/
structure WriteBack where
  word : Nat
  bytes : List Byte
  deriving DecidableEq, Repr

/-- The frame-store front end and stacks. -/
structure FsSt where
  inflight : List Inflight
  waiting : List Request        -- requests that wait for a tag, oldest first (R165)
  errors : List (Nat × BitVec 144)  -- stored words that hold an error: address and wrong bits (R171)
  arbs : Vector ArbSt 4
  hostQueue : List HostItem
  writeBacks : List WriteBack
  hostReads : List HostRead
  held : List HeldRead
  nextHost : Nat
  written : List Nat            -- bursts that writes reached since the governor looked last (WATCH, R280)
  deriving DecidableEq, Repr

/-- What a layer engine holds of one requested burst (R216, R223). -/
inductive BurstState where
  | asked                      -- requested, not delivered yet
  | held (bytes : List Byte)
  | refused                    -- refused by CL or by a stack: transparent black
  | poisoned                   -- delivered poisoned; the first line that needs it underruns
  | spent                      -- poisoned and already reported: transparent black
  | late                       -- its tile had not arrived when the row was requested (R429): not fetched
  deriving DecidableEq, Repr

/-- A burst in an engine's line cache: its number, plane, source row, offset of its first byte from the row's start;
`ahead`: it was requested for the frame after the one in progress (R217). -/
structure CacheBurst where
  id : Nat
  plane : Nat
  row : Nat
  off : Int
  st : BurstState
  ahead : Bool
  deriving DecidableEq, Repr

/-- An engine's configuration as one bank holds it (R228 to R230). -/
structure LeCfg where
  enable : Bool
  fmt : Nat
  base : List Nat
  pitch : List Nat
  srcW : Nat
  srcH : Nat
  cropX : Nat
  cropY : Nat
  cropW : Nat
  cropH : Nat
  dstX : Int
  dstY : Int
  dstW : Nat
  dstH : Nat
  decH : Nat
  decV : Nat
  hMode : Nat
  vMode : Nat
  stepH : Nat
  stepV : Nat
  initH : Int
  initV : Int
  pa : Nat
  const : List Nat
  mat : List Int
  transfer : Nat
  matrixEn : Bool
  alphaMode : Nat
  edge : Nat
  coefBank : Nat
  csiteH : Nat
  csiteV : Nat
  chromaFilt : Bool
  deriving DecidableEq, Repr

/-- A layer engine outside its registers: the bursts that it holds, the number that the next one gets, whether the
engine has been enabled in the frame in progress (R231), and the configuration that the line being output took at
its start (R221). `fedLate`: ENABLE was turned on in mid-frame, so missing rows are transparent black (R221). -/
structure LeSt where
  cache : List CacheBurst
  nextId : Nat
  enabled : Bool
  shown : Option LeCfg
  fedLate : Bool
  deriving DecidableEq, Repr

end Sys2Proof.Machine
end

