-- ==== Sys2Proof/Machine/Rational.lean ====
section
/-!
DEFINITION. Exact non-negative fractions for the governor's and the links' arithmetic (R265, R266, R332).
-/
namespace Sys2Proof.Machine

/-- num / den. A zero denominator stands for 0. -/
structure Q where
  num : Nat
  den : Nat
  deriving DecidableEq, Repr

namespace Q

def ofNat (n : Nat) : Q := ⟨n, 1⟩
def zero : Q := ⟨0, 1⟩

/-- Lowest terms. -/
def norm (a : Q) : Q := let g := Nat.gcd a.num a.den; if g = 0 then zero else ⟨a.num / g, a.den / g⟩

def add (a b : Q) : Q := norm ⟨a.num * b.den + b.num * a.den, a.den * b.den⟩
def mul (a b : Q) : Q := norm ⟨a.num * b.num, a.den * b.den⟩
def le (a b : Q) : Bool := decide (a.num * b.den ≤ b.num * a.den)
def lt (a b : Q) : Bool := decide (a.num * b.den < b.num * a.den)
def max (a b : Q) : Q := if a.le b then b else a
def min (a b : Q) : Q := if a.le b then a else b
def floor (a : Q) : Nat := a.num / a.den
def ceil (a : Q) : Nat := ceilDiv a.num a.den
def sum (l : List Q) : Q := l.foldl add zero

end Q

end Sys2Proof.Machine
end

