-- ==== Sys2Proof/Machine/Parts/Display.lean ====
section
/-!
DEFINITION. State of the governor, the heads and the links outside their registers (chapters 08, 09, 10).
-/
namespace Sys2Proof.Machine

/-- The demand of one enabled engine (R265): bytes per line, visible pixels per line, bytes per line in each stack,
bytes per line read across the halves (East to West, West to East). -/
structure EngDemand where
  le : Nat
  bytes : Nat
  linePx : Nat
  perStack : List Nat
  e2w : Nat
  w2e : Nat
  deriving DecidableEq, Repr

/-- The demand of one state of a head (R265): its line period is htotal / (4,000 × khz) s. `forced`: it was admitted
by force (R271). -/
structure Demand where
  khz : Nat
  htotal : Nat
  vtotal : Nat
  engines : List EngDemand
  forced : Bool
  deriving DecidableEq, Repr

/-- A head's reservation (R264): the demands of its live state, its sealed and its armed commit. -/
structure HeadRes where
  live : Option Demand
  sealed : Option Demand
  armed : Option Demand
  deriving DecidableEq, Repr

/-- An admission request (R263, R268): the head, or both heads of a pair commit; the TRIGGER; the engines whose staged
writes asked for it (R220); has the start that asked for it been withdrawn (R304)? -/
structure GvRequest where
  heads : List Nat
  trigger : Nat
  engines : List Nat
  withdrawn : Bool
  deriving DecidableEq, Repr

/-- A verdict (R269): RESULT, REASON, RES, the short resource's demand and capacity, the demands of the heads. -/
structure Verdict where
  result : Nat
  reason : Nat
  res : Nat
  demand : Nat
  cap : Nat
  demands : List (Nat × Demand)
  deriving DecidableEq, Repr

/-- The states of a surface (R279); `chosen`: it waits for the harvest point at which its capture starts; `passed`:
its verify has passed and it waits for the harvest point at which it is fed; `ending`: it was stopped in mid-frame
and feeds the rest of that frame, for which its members have no rows (R226; DESIGN CHOICE, log entry 34). -/
inductive SurfacePhase where
  | idle | chosen | capture | verify | passed | fed | ending
  deriving DecidableEq, Repr

/-- A burst of a surface that its reader or its verify has asked for: row of the surface, number in the row, how it
stands. -/
structure SurfBurst where
  row : Nat
  i : Nat
  st : BurstState
  deriving DecidableEq, Repr

/-- A flattened surface outside its registers: its head, node, clearing (with its base) and rectangle (R278), the CRC
of each captured line, the frames of the verify so far, the trigger that takes effect at the next harvest point
(R280), is the frame not judged (R281), is it protected (R278)? `gen` numbers the surfaces that have stood here,
so that a completion for an earlier one is told apart; `reads`: the bursts asked for; `next`, `checked`: the
bursts of the verify asked for so far, and the rows compared; `tap`: N's output on the line that a capture is
taking (R279). -/
structure SurfaceSt where
  phase : SurfacePhase
  head : Nat
  node : Nat
  clearing : Nat
  base : Nat
  x : Nat
  y : Nat
  w : Nat
  h : Nat
  lineCrcs : List Nat
  frames : Nat
  trigger : Option Nat
  notJudged : Bool
  guarded : Bool
  gen : Nat
  reads : List SurfBurst
  next : Nat
  checked : Nat
  tap : List Byte
  deriving DecidableEq, Repr

/-- The governor outside its registers. `peaks`: by head, the largest sample of its frame in progress in each stack,
in ns (R273); `skips`: by head, the stacks whose model restarted in its frame in progress (R275); `leCalm`,
`nodeCalm`: the frames for which an engine or a node has been unchanged (R277); `changed`: the engines and nodes
(source codes) changed in the frame in progress. -/
structure GvSt where
  res : Vector HeadRes 8
  waiting : List GvRequest
  busy : Option (GvRequest × Verdict)
  peaks : Vector (List Nat) 8
  skips : Vector (List Nat) 8
  leCalm : Vector Nat 64
  nodeCalm : Vector Nat 64
  lastSig : Vector Nat 64
  changed : List Nat
  surfaces : Vector SurfaceSt 8
  deriving DecidableEq, Repr

/-- A commit from its arm write to its seal (R298 to R301, R313): was it admitted; was it armed on or after the eve
line of the frame in progress; has an eve line begun since; is it a pair commit? -/
structure ArmSt where
  admitted : Bool
  late : Bool
  eve : Bool
  pair : Bool
  deriving DecidableEq, Repr

/-- Whose counters a head's timing generator runs from (R312, R315, R316): its own; its own until its leader's or
source's next harvest point; its leader's or source's. -/
inductive Sync where
  | own | aligning | locked
  deriving DecidableEq, Repr

/-- A pixel that has left the head: the FP16 head-input value (R310) and the output codes; or a blanking pixel. -/
inductive OutPx where
  | px (half : List Nat) (code : List Nat)
  | blank
  deriving DecidableEq, Repr

/-- A head outside its registers. -/
structure HeadSt where
  starting : Bool                  -- a start awaits its verdict (R304)
  heldForLeader : Bool             -- a start held until the leader runs (R315)
  ticking : Bool                   -- the timing generator runs (R295)
  pllLocked : Bool                 -- the pixel PLL has locked
  timed : Bool                     -- the timing generator waits for HEAD_TIMED_START (R320)
  lateStart : Bool                 -- a late timed start records its first harvest point (R320)
  arm : Option ArmSt
  image : Option (List (Nat × Word))  -- the sealed image: live address and word (R299)
  dirtyWritten : List Nat          -- engines whose CTRL_STG was written since the seal (R301)
  evePassed : Bool                 -- the eve line of the frame in progress has begun
  eveDue : Bool                    -- it has begun and EVE_LINE_START has not come yet
  harvestDue : Bool                -- a frame has started and HARVEST_POINT has not come yet
  extra : Nat                      -- lines added by an Adaptive-Sync hold or a jump (R318, R322)
  hold : Bool                      -- the frame is in hold (R322)
  holdArm : Bool                   -- an arm was admitted in hold
  background : Bool                -- the frame is a background or alignment frame (R306, R315)
  refill : Bool                    -- a fed surface ended at this frame's harvest: line 0 is fetched in line 0 (R280)
  blocked : Bool                   -- the rest of the frame outputs BG_OUT (R246, R346)
  mark : Nat                       -- the mark of R246 taken at the frame start
  follows : Option Nat             -- the pair's leader as resolved last, for its follower (R314)
  sync : Sync
  lineRaw : Nat                    -- the raw count at which the line in progress started
  row : List OutPx                 -- its pixels that have been output, pixel 0 first
  cut : Option Nat                 -- the pixel at which it underran
  crc : Nat                        -- the running freeze CRC (R310)
  window : Nat × Nat × Nat × Nat   -- the window of the frame: x, y, w, h
  sampling : Bool                  -- the frame started with EN = 1
  fresh : Bool                     -- EN has been set and no frame has started with it since (R311)
  moved : Bool                     -- the window was written in this frame (R311)
  judged : Bool                    -- the frame in progress is judged
  skipNext : Bool                  -- the next frame is not judged (R306)
  lastJudged : Option Nat          -- the last judged signature since EN was set
  jumpNext : Bool                  -- the next frame is a jump frame (R318)
  good : Nat                       -- frames with an error below 1 clk TSC (R317)
  above : Nat                      -- frames whose correction exceeds TRIM_MAX (R319)
  deriving DecidableEq, Repr

/-- What a link's HDCP engine runs (R344). -/
inductive AuthPhase where
  | idle | running | session
  deriving DecidableEq, Repr

/-- A software AUX transaction that is open (R336, R337): its command, address, length and data as they stood at GO;
has it been sent. -/
structure AuxRequest where
  cmd : Nat
  addr : Nat
  len : Nat
  data : List Word
  sent : Bool
  deriving DecidableEq, Repr

/-- A link outside its registers (chapter 10): is an AUTO training in progress; the software AUX transaction; is the
HPD pin low since a captured edge; the raw count at which EN found it low; has it risen after an unplug; the HDCP
engine; the IDs that its authentication revokes (R347); the raw count at which SKE_Send_Eks was sent; the content
stream type of the last confirmed Stream_Manage and the one asked for since; does AUTO_REAUTH answer a failure;
the software SDP as sampled (R341). -/
structure DpSt where
  auto : Bool
  aux : Option AuxRequest
  hpdLow : Bool
  hpdFrom : Option Nat
  hpdRose : Bool
  auth : AuthPhase
  revoked : List Nat
  ske : Option Nat
  confirmed : Option Nat
  requested : Option Nat
  reauth : Bool
  sdp : List Word
  deriving DecidableEq, Repr

/-- The System Renewability Message in force (R347): the receiver IDs it revokes. -/
abbrev SrmSt := List Nat

end Sys2Proof.Machine
end

