-- ==== Sys2Proof/Machine/Parts/Engines.lean ====
section
/-!
DEFINITION. State of the copy engines (chapter 11), the cartridge ports, the asset streamer and KY (chapter 12)
outside their registers.
-/
namespace Sys2Proof.Machine

/-- What an active copy command does with its row (R359). -/
inductive BxPhase where
  | reading | writing
  deriving DecidableEq, Repr

/-- The active command (R354): its identity, the 32 words copied from its slot, the slot, the ticket, the rows done,
the phase, the bursts of the row still to issue (address; for a write its bytes and enables), the bursts read. -/
structure BxCmd where
  id : Nat
  words : List Nat
  slot : Nat
  ticket : Nat
  rows : Nat
  phase : BxPhase
  todo : List (Nat × Option BurstWrite)
  got : List (Nat × List Byte × Bool)
  code : Option Nat
  deriving DecidableEq, Repr

/-- A copy engine. -/
structure BxSt where
  active : Option BxCmd
  nextId : Nat
  deriving DecidableEq, Repr

/-- What a Read is for (R388): part of a lane's manifest or of one of its chunks, by byte offset in it. -/
inductive ReadUse where
  | manifest (off : Nat)
  | chunk (c off : Nat)
  deriving DecidableEq, Repr

/-- A Read that is outstanding on a port: identity, lane, job, start LBA, LBAs, use. -/
structure CpCommand where
  cid : Nat
  lane : Nat
  job : Nat
  lba : Nat
  blocks : Nat
  purpose : ReadUse
  deriving DecidableEq, Repr

/-- A cartridge port: the bring-up step in progress (R377), Q of R376, the Reads outstanding, a LOG_REFRESH in
progress, the numbering of its commands. -/
structure CpSt where
  step : Nat
  reads : List CpCommand
  refreshing : Bool
  nextCid : Nat
  deriving DecidableEq, Repr

/-- An entry record of a manifest (R380). -/
structure Entry where
  dest : Nat
  compressed : Bool
  windowLog : Nat
  first : Nat
  span : Nat
  outOff : Nat
  outLen : Nat
  deriving DecidableEq, Repr

/-- A chunk record of a manifest (R381), with its first 16 bytes as stored. -/
structure Chunk where
  off4k : Nat
  ctLen : Nat
  outLen : Nat
  tag : List Byte
  stored : List Byte
  deriving DecidableEq, Repr

/-- What a running job keeps of its manifest once the checks have passed (R379, R388). An entry's `dest` is then the
number of its clearing and its `outOff` the frame-store address of its object. -/
structure Manifest where
  owner : Nat
  dataOff : Nat
  bundleId : List Byte
  salt : List Byte
  key : List Byte
  entries : List Entry
  chunks : List Chunk
  deriving DecidableEq, Repr

/-- A lane (R387 to R392): its job, with the port and start LBA taken from the descriptor; is it zeroing; the manifest
bytes that have arrived, by offset; the manifest; the next chunk to read and to reap; ciphertext that has arrived
(chunk, offset, bytes); the chunk in decrypt and decode; the plaintexts of the entry so far; bytes owed by a chunk
to each stack of its half (R398); the code that ends the job. -/
structure LaneSt where
  job : Option Nat
  port : Nat
  lba : Nat
  zeroing : Bool
  bytes : List (Nat × List Byte)
  manifest : Option Manifest
  nextRead : Nat
  nextReap : Nat
  data : List (Nat × Nat × List Byte)
  decoding : Option Nat
  plain : List (List Byte)
  owed : List (Nat × Nat × Nat × Nat)   -- chunk, half, owed to the half's two stacks
  ending : Option Nat
  deriving DecidableEq, Repr

/-- The asset streamer: the queued jobs in GO order, the lanes. -/
structure AsSt where
  queue : List Nat
  lanes : Vector LaneSt 4
  deriving DecidableEq, Repr

/-- A programming command of KY in progress (R395). -/
inductive KyJob where
  | program (slot page : Nat) (bytes : List Byte)
  | revoke (slot : Nat)
  | config (requireSigned progDisable : Bool)
  deriving DecidableEq, Repr

end Sys2Proof.Machine
end

