-- ==== Sys2Proof/Machine/Parts/Ring.lean ====
section
/-!
DEFINITION. State of the ring ports and SH outside their registers (chapter 13).
-/
namespace Sys2Proof.Machine

/-- A frame in a port's queues: a device frame, or a time message of a calendar with the raw time (in 2⁻¹⁶ ns) at
which the request arrived that it answers; its timestamps are taken as it leaves (R462, R467). -/
inductive TxItem where
  | device (f : RingFrame)
  | time (m : TimeFrame) (cal arrived : Nat)
  deriving DecidableEq, Repr

/-- One class of one port (R432 to R436): its queue, head first, and its buckets in units of 2⁻¹⁶ / 25 byte. -/
structure ClassSt where
  queue : List TxItem
  committed : Int
  peak : Int
  deficit : Nat
  fresh : Bool
  deriving DecidableEq, Repr

/-- A ring port: its classes, the pointer of R436, the raw count at which the buckets were brought up to date. -/
structure RpSt where
  classes : Vector ClassSt 8
  ptr : Nat
  since : Nat
  deriving DecidableEq, Repr

/-- What a request frame was sent for (R420, R422): a channel's piece by its number, or the mailbox. -/
inductive Origin where
  | piece (k id : Nat)
  | mailbox
  deriving DecidableEq, Repr

/-- A request frame that waits for its response (R421). -/
structure Outstanding where
  origin : Origin
  frame : RingFrame
  resends : Nat
  deriving DecidableEq, Repr

/-- Where a piece of a channel's transfer stands (R420): its local reads run; its frame waits for its response; its
local writes run. -/
inductive PiecePhase where
  | reading | sent | writing
  deriving DecidableEq, Repr

/-- A piece: its number, the command it belongs to, its offset in the range, its local address, its length, its phase,
the port its data arrived on, local bursts still due, burst data by address. -/
structure Piece where
  id : Nat
  cmd : Nat
  off : Nat
  addr : Nat
  len : Nat
  phase : PiecePhase
  port : Nat
  due : Nat
  data : List (Nat × List Byte)
  poison : Bool
  deriving DecidableEq, Repr

/-- A requester channel (R420): the number of its command, the offset of the next piece, the pieces outstanding (those
of a command that has ended among them), an ABORT that waits for them, the local clearing's protection and owner,
the port that carries it. -/
structure ChannelSt where
  cmd : Nat
  next : Nat
  pieces : List Piece
  abort : Bool
  guarded : Bool
  owner : Nat
  port : Nat
  deriving DecidableEq, Repr

/-- A received frame that the unit serves over the frame store (R418, R419, R428; a register request of a clearing
window, R422): the byte ranges it reaches, the bursts to issue one after another, bursts due, bytes written, burst
data by address, the owner whose data a response carries. -/
structure Service where
  key : Nat
  port : Nat
  request : RingFrame
  ranges : List (Nat × Nat)
  todo : List Request
  due : Nat
  bytes : Nat
  data : List (Nat × List Byte)
  poison : Bool
  denied : Bool
  guarded : Bool
  owner : Nat
  deriving DecidableEq, Repr

/-- One band of one frame of a receiving stream (R428): the bytes of the tiles written, closed? -/
structure BandSt where
  bytes : Nat
  closed : Bool
  deriving DecidableEq, Repr

/-- A receiving stream: the bands of SFRAME and of SFRAME + 1, 64 each. -/
structure StreamSt where
  now : List BandSt
  next : List BandSt
  deriving DecidableEq, Repr

/-- A tile that a source has yet to queue (R425): first row, first byte, rows, bytes per row. -/
structure TilePlan where
  row : Nat
  byte : Nat
  rows : Nat
  bytes : Nat
  deriving DecidableEq, Repr

/-- A source (R424): the tiles still to queue, the first one's reads due and data, its port. -/
structure SourceSt where
  tiles : List TilePlan
  due : Nat
  data : List (Nat × List Byte)
  poison : Bool
  port : Nat
  deriving DecidableEq, Repr

/-- An almanac (R438 to R440): S and the calendar of the list in force and of the armed change, in ns of the calendar;
the armed change's PEND_COUNT. -/
structure AlmanacSt where
  start : Nat
  cal : Nat
  pending : Option (Nat × Nat × Nat)   -- S, calendar, count
  deriving DecidableEq, Repr

/-- SH outside its registers. `kept`: the last register response sent to each source unit (R421); `waiting`: local
frames that wait for room in a port's buffer (R432); `ivCount`: the 8-byte counter of R414; `nextTxn`, `nextKey`:
numbering. -/
structure ShSt where
  outstanding : List Outstanding
  channels : Vector ChannelSt 4
  services : List Service
  streams : Vector StreamSt 16
  sources : Vector SourceSt 8
  almanacs : Vector AlmanacSt 2
  kept : List (Nat × RingFrame)
  waiting : List (Nat × TxItem)
  ivPrefix : Nat
  ivCount : Nat
  nextTxn : Nat
  nextKey : Nat
  deriving DecidableEq, Repr

end Sys2Proof.Machine
end

