-- ==== Sys2Proof/Machine/Parts/Time.lean ====
section
/-!
DEFINITION. State of the calendars and event pins outside their registers (chapter 14). Times of a calendar are
counted in units of 2⁻¹⁶ ns (R455), times of a pin's schedule in units of 2⁻³² ns (R470).
-/
namespace Sys2Proof.Machine

/-- The data set that an Announce carries, as the default BMCA compares it (R463): the grandmaster's fields, the steps
removed, the sender, the receiving port. -/
structure DataSet where
  gm : Nat
  priority1 : Nat
  clockClass : Nat
  accuracy : Nat
  variance : Nat
  priority2 : Nat
  steps : Nat
  senderClock : Nat
  senderPort : Nat
  receiver : Nat
  deriving DecidableEq, Repr

/-- A foreign master: its last data set and how many of its Announces have arrived (held at 2). -/
structure Foreign where
  ds : DataSet
  seen : Nat
  deriving DecidableEq, Repr

/-- A two-step Sync that waits for its Follow_Up: sequence, sender, ingress time and correction (R464). -/
structure TwoStep where
  seq : Nat
  clock : Nat
  port : Nat
  t2 : Nat
  correction : Int
  deriving DecidableEq, Repr

/-- One port of one calendar's PTP instance. -/
structure CalPort where
  masters : List Foreign
  sync : Option TwoStep
  deriving DecidableEq, Repr

/-- A latched seconds hint (R467): HINT_S, N_h, H and the raw count at the latch. -/
structure Hint where
  sec : Nat
  ns : Nat
  stamp : Nat
  raw : Nat
  deriving DecidableEq, Repr

/-- A calendar outside its registers: the anchor pair of R455, the sample counts of R466, the servo integral in
2⁻¹⁶ ppb, the hint, its two ports, its grandmaster's data set, the sequence numbers it sends. -/
structure CalSt where
  anchorRaw : Nat
  anchorT : Nat
  good : Nat
  bad : Nat
  integ : Int
  hint : Option Hint
  ports : Vector CalPort 2
  parent : Option DataSet
  seqSync : Nat
  seqAnnounce : Nat
  deriving DecidableEq, Repr

/-- A peer-delay exchange in progress (R464): its sequence, the raw time of the request in 2⁻¹⁶ ns, and, after a
two-step response, the response's time of arrival and turnaround so far. -/
structure Exchange where
  seq : Nat
  sent : Nat
  got : Option (Nat × Int)
  deriving DecidableEq, Repr

/-- A port's peer-delay state: has an exchange completed since link-up, the exchange in progress, the next sequence. -/
structure TsPort where
  measured : Bool
  exchange : Option Exchange
  seq : Nat
  deriving DecidableEq, Repr

/-- TS outside its registers. `residual` is Q of R460 in 2⁻¹⁶ ns. -/
structure TsSt where
  cals : Vector CalSt 2
  ports : Vector TsPort 2
  residual : Int
  deriving DecidableEq, Repr

/-- A schedule of an event pin (R470): START, PERIOD and WIDTH in 2⁻³² ns, pulses asked for (none: unlimited), the
next k, the pulses used up, the calendar, and the end of the pulse in progress. `notice`: the pulse of a received
notice. -/
structure Schedule where
  start : Nat
  period : Nat
  width : Nat
  count : Option Nat
  k : Nat
  cal : Nat
  off : Option Nat
  notice : Bool
  deriving DecidableEq, Repr

/-- An event pin outside its registers (R473): the capture FIFO, head first; the schedule; is the output at its active
level; the number of the last notice that the pin queued. -/
structure EvPin where
  fifo : List (Nat × Bool)
  schedule : Option Schedule
  high : Bool
  notice : Option Nat
  deriving DecidableEq, Repr

end Sys2Proof.Machine
end

