-- ==== Sys2Proof/Syntax.lean ====
section
/-!
DEFINITION. The commands of the block: one constructor per row of the spec's table of commands, with the row's
operands.
-/
namespace Sys2Proof

/-- The commands. Each constructor's docstring names the row and its rule. -/
inductive Instr where
  /-- POR (R11) -/
  | por
  /-- POR_RELEASE (R513) -/
  | porRelease
  /-- OTP_SHADOW_LOADED (R513) -/
  | otpShadowLoaded
  /-- CRST (R514) -/
  | crst (lowNs : Nat)
  /-- CRST_RELEASE (R82) -/
  | crstRelease
  /-- FLR (R11) -/
  | flr
  /-- HRST (R100) -/
  | hrst (n : Fin 8)
  /-- HRST_COMPLETE (R100) -/
  | hrstComplete (n : Fin 8)
  /-- SRST (R101) -/
  | srst (b : SoftBlock)
  /-- SRST_COMPLETE (R101) -/
  | srstComplete (b : SoftBlock)
  /-- CADDR_SAMPLE (R82) -/
  | caddrSample (high : Bool)
  /-- ADDRESS_TOKEN (R84) -/
  | addressToken (token : BitVec 10)
  /-- ENUM_TIMEOUT (R85) -/
  | enumTimeout
  /-- STAGGER_STEP_START (R95) -/
  | staggerStepStart (p : PowerStep)
  /-- STAGGER_STEP_DONE (R95) -/
  | staggerStepDone (p : PowerStep)
  /-- CHAIN_FRAME (R92) -/
  | chainFrame (cmd : Byte) (dest : Byte) (cmdInv : Byte) (destInv : Byte) (image : List Byte)
  /-- CHAIN_STALL (R94) -/
  | chainStall
  /-- CERR_RELEASE (R108) -/
  | cerrRelease
  /-- CH_LOAD_START (R65) -/
  | chLoadStart
  /-- CH_LOAD_ABORT (R66) -/
  | chLoadAbort
  /-- CH_LOAD_DATA_WRITE (R65) -/
  | chLoadDataWrite (w : Word)
  /-- LOAD_VALIDATION_END (R61) -/
  | loadValidationEnd
  /-- LOAD_APPLY_DONE (R74) -/
  | loadApplyDone
  /-- ZEROFILL_DONE (R77) -/
  | zerofillDone
  /-- REGISTER_WRITE (R129) -/
  | registerWrite (off : BitVec 24) (w : Word)
  /-- BUS_ERROR_ACCESS (R126) -/
  | busErrorAccess (a : BusAccess)
  /-- RS_CLEAR_WRITE (R143) -/
  | rsClearWrite (off : BitVec 24) (w : Word)
  /-- BIT_ALIAS_WRITE (R141) -/
  | bitAliasWrite (off : BitVec 25) (w : Word)
  /-- COMPAT_MASKED_WRITE (R154) -/
  | compatMaskedWrite (off : BitVec 20) (w : Word)
  /-- COMPAT_MISS (R153) -/
  | compatMiss (write : Bool) (off : BitVec 20) (w : Word)
  /-- IND_DATA_READ (R132) -/
  | indDataRead (slot : Fin 128)
  /-- IND_FETCH_DONE (R133) -/
  | indFetchDone (slot : Fin 128)
  /-- IND_FETCH_TIMEOUT (R133) -/
  | indFetchTimeout (slot : Fin 128)
  /-- PARITY_SWEEP (R148) -/
  | paritySweep
  /-- PARITY_INJECT (R150) -/
  | parityInject
  /-- FS_REQUEST (R178) -/
  | fsRequest (who : Requester) (burst : BitVec 24) (write : Option BurstWrite)
  /-- FS_READ_COMPLETE (R172) -/
  | fsReadComplete (tag : Nat) (errs : List WordError) (latency : Nat)
  /-- FS_WRITE_COMPLETE (R174) -/
  | fsWriteComplete (tag : Nat) (errs : List WordError)
  /-- ECC_WRITEBACK (R176) -/
  | eccWriteback (n : Fin 4)
  /-- SCRUB_STEP (R175) -/
  | scrubStep (n : Fin 4) (wrong : BitVec 144)
  /-- REFRESH_DEADLINE (R169) -/
  | refreshDeadline (n : Fin 4)
  /-- HOST_WINDOW_READ (R183) -/
  | hostWindowRead (off : BitVec 15) (len : Nat)
  /-- HOST_WINDOW_WRITE (R183) -/
  | hostWindowWrite (off : BitVec 15) (bytes : List Byte)
  /-- TAG_HW_RESET (R193) -/
  | tagHwReset
  /-- LAT_RESET (R190) -/
  | latReset (n : Fin 4)
  /-- HEAD_LINE_START (R305) -/
  | headLineStart (n : Fin 8)
  /-- LE_ROW_FETCH (R217) -/
  | leRowFetch (l : Fin 64)
  /-- EVE_LINE_START (R299) -/
  | eveLineStart (n : Fin 8)
  /-- HARVEST_POINT (R297) -/
  | harvestPoint (n : Fin 8)
  /-- HEAD_UNDERRUN (R309) -/
  | headUnderrun (n : Fin 8) (px : Nat)
  /-- HEAD_START (R295) -/
  | headStart (n : Fin 8)
  /-- HEAD_PLL_LOCKED (R295) -/
  | headPllLocked (n : Fin 8)
  /-- HEAD_TIMED_START (R320) -/
  | headTimedStart (n : Fin 8)
  /-- HEAD_STOP (R296) -/
  | headStop (n : Fin 8)
  /-- HEAD_ARM (R298) -/
  | headArm (n : Fin 8)
  /-- HEAD_CANCEL (R302) -/
  | headCancel (n : Fin 8)
  /-- STAGED_WRITE_RECHECK (R220) -/
  | stagedWriteRecheck (n : Fin 8) (engines : List (Fin 64))
  /-- SPLIT_LEADER_WRITE (R315) -/
  | splitLeaderWrite (n : Fin 8) (v : Bool)
  /-- GV_EVALUATION_DONE (R268) -/
  | gvEvaluationDone
  /-- RELEARN (R275) -/
  | relearn (k : Fin 4)
  /-- GV_FLAT_DISABLE (R283) -/
  | gvFlatDisable
  /-- FLAT_CAPTURE_OVERFLOW (R279) -/
  | flatCaptureOverflow (k : Fin 8)
  /-- FLAT_VERIFY_DONE (R279) -/
  | flatVerifyDone (k : Fin 8) (poisoned : Bool)
  /-- FLAT_VERIFY_TIMEOUT (R279) -/
  | flatVerifyTimeout (k : Fin 8)
  /-- LINK_ENABLE_WRITE (R338) -/
  | linkEnableWrite (n : Fin 8) (en : Bool)
  /-- LINK_TRAIN_AUTO (R339) -/
  | linkTrainAuto (n : Fin 8)
  /-- LINK_TRAIN_MANUAL_PATTERN (R339) -/
  | linkTrainManualPattern (n : Fin 8) (pattern : Fin 8)
  /-- LINK_TRAIN_MANUAL_DECLARE (R339) -/
  | linkTrainManualDeclare (n : Fin 8)
  /-- AUTO_TRAINING_END (R339) -/
  | autoTrainingEnd (n : Fin 8) (code : Fin 16) (drive : BitVec 16)
  /-- AUX_GO (R336) -/
  | auxGo (n : Fin 8)
  /-- AUX_DONE (R337) -/
  | auxDone (n : Fin 8) (reply : Fin 16) (count : Fin 32) (data : List Byte)
  /-- AUX_REPLY_TIMEOUT (R337) -/
  | auxReplyTimeout (n : Fin 8)
  /-- HPD_EN_WRITE (R334) -/
  | hpdEnWrite (n : Fin 8) (en : Bool)
  /-- HPD_EDGE (R334) -/
  | hpdEdge (n : Fin 8) (level : Bool) (heldUs : Nat) (sink : SinkStatus)
  /-- HPD_UNPLUG (R334) -/
  | hpdUnplug (n : Fin 8)
  /-- HPD_PLUG (R334) -/
  | hpdPlug (n : Fin 8)
  /-- HDCP_AUTH_START (R344) -/
  | hdcpAuthStart (n : Fin 8)
  /-- HDCP_STOP_AUTH (R344) -/
  | hdcpStopAuth (n : Fin 8)
  /-- HDCP_AUTH_END (R344) -/
  | hdcpAuthEnd (n : Fin 8) (r : HdcpResult)
  /-- HDCP_REAUTH_TIMER (R344) -/
  | hdcpReauthTimer (n : Fin 8)
  /-- STREAM_MANAGE_CONFIRMED (R345) -/
  | streamManageConfirmed (n : Fin 8)
  /-- ENCRYPTION_ENABLE (R345) -/
  | encryptionEnable (n : Fin 8)
  /-- SRM_LOAD (R347) -/
  | srmLoad
  /-- BX_SUBMIT (R353) -/
  | bxSubmit (n : Fin 2)
  /-- BX_CMD_START (R355) -/
  | bxCmdStart (n : Fin 2)
  /-- BX_BURST_ISSUE (R362) -/
  | bxBurstIssue (n : Fin 2)
  /-- BX_ROW_READS_DONE (R359) -/
  | bxRowReadsDone (n : Fin 2)
  /-- BX_CMD_END (R355) -/
  | bxCmdEnd (n : Fin 2)
  /-- BX_RESUME (R365) -/
  | bxResume (n : Fin 2)
  /-- BX_ABORT (R365) -/
  | bxAbort (n : Fin 2)
  /-- CP_ENABLE_WRITE (R375) -/
  | cpEnableWrite (n : Fin 4) (en : Bool)
  /-- CP_RESTART (R375) -/
  | cpRestart (n : Fin 4)
  /-- LOG_REFRESH (R402) -/
  | logRefresh (n : Fin 4)
  /-- CP_DETECT_RETRY (R375) -/
  | cpDetectRetry (n : Fin 4)
  /-- LINK_UP (R375) -/
  | linkUp (n : Fin 4) (gen : Fin 8) (width : Fin 32)
  /-- CP_INIT_STEP_DONE (R377) -/
  | cpInitStepDone (n : Fin 4) (reply : CpReply)
  /-- CP_INIT_TIMEOUT (R375) -/
  | cpInitTimeout (n : Fin 4)
  /-- CP_READ_COMPLETION (R378) -/
  | cpReadCompletion (n : Fin 4) (cid : Nat) (result : CpRead)
  /-- CP_CMD_TIMEOUT (R378) -/
  | cpCmdTimeout (n : Fin 4)
  /-- CP_FATAL (R378) -/
  | cpFatal (n : Fin 4)
  /-- LINK_DOWN (R378) -/
  | linkDown (n : Fin 4)
  /-- CP_SHUTDOWN_DONE (R375) -/
  | cpShutdownDone (n : Fin 4)
  /-- AS_JOB_GO (R387) -/
  | asJobGo (k : Fin 8)
  /-- AS_JOB_ABORT (R400) -/
  | asJobAbort (k : Fin 8)
  /-- AS_JOB_START (R387) -/
  | asJobStart
  /-- AS_MANIFEST_CHECKED (R388) -/
  | asManifestChecked (l : Fin 4)
  /-- AS_CHUNK_REAP (R398) -/
  | asChunkReap (l : Fin 4)
  /-- AS_CHUNK_DECODED (R391) -/
  | asChunkDecoded (l : Fin 4)
  /-- AS_JOB_END (R387) -/
  | asJobEnd (l : Fin 4)
  /-- AS_LANE_ZEROED (R389) -/
  | asLaneZeroed (l : Fin 4)
  /-- KY_PROGRAM (R395) -/
  | kyProgram
  /-- KY_REVOKE (R395) -/
  | kyRevoke
  /-- KY_SET_CFG (R395) -/
  | kySetCfg
  /-- PROG_DONE (R395) -/
  | progDone (ok : Bool)
  /-- RP_LINK_UP (R409) -/
  | rpLinkUp (p : Fin 2)
  /-- RP_LINK_DOWN (R409) -/
  | rpLinkDown (p : Fin 2)
  /-- RP_RESTART (R446) -/
  | rpRestart (p : Fin 2)
  /-- RP_FRAME_RX (R415) -/
  | rpFrameRx (p : Fin 2) (quality : RxQuality) (frame : WireFrame)
  /-- RP_TX_SELECT (R436) -/
  | rpTxSelect (p : Fin 2)
  /-- TILE (R428) -/
  | tile (p : Fin 2) (f : RingFrame)
  /-- WRITE (R418) -/
  | write (p : Fin 2) (f : RingFrame)
  /-- READ_REQ (R419) -/
  | readReq (p : Fin 2) (f : RingFrame)
  /-- READ_RSP (R420) -/
  | readRsp (p : Fin 2) (f : RingFrame)
  /-- WRITE_ACK (R420) -/
  | writeAck (p : Fin 2) (f : RingFrame)
  /-- REG_WRITE (R422) -/
  | regWrite (p : Fin 2) (f : RingFrame)
  /-- REG_READ (R422) -/
  | regRead (p : Fin 2) (f : RingFrame)
  /-- REG_RSP (R422) -/
  | regRsp (p : Fin 2) (f : RingFrame)
  /-- NOTICE (R423) -/
  | notice (p : Fin 2) (f : RingFrame)
  /-- RING_REQUEST_TIMEOUT (R421) -/
  | ringRequestTimeout (txn : BitVec 16)
  /-- RQ_GO (R420) -/
  | rqGo (k : Fin 4)
  /-- RQ_ABORT (R420) -/
  | rqAbort (k : Fin 4)
  /-- RMT_GO (R422) -/
  | rmtGo
  /-- NOTICE_TX (R423) -/
  | noticeTx
  /-- SOURCE_SEND (R424) -/
  | sourceSend (k : Fin 8)
  /-- STREAM_ENABLE (R426) -/
  | streamEnable (m : Fin 16) (en : Bool)
  /-- SHAPER_WRITE (R435) -/
  | shaperWrite (c : Fin 8) (r : Fin 4) (w : Word)
  /-- ALMANAC_CHANGE (R440) -/
  | almanacChange (p : Fin 2)
  /-- ALMANAC_CANCEL (R440) -/
  | almanacCancel (p : Fin 2)
  /-- ALMANAC_START (R440) -/
  | almanacStart (p : Fin 2)
  /-- ALMANAC_ENTRY_BOUNDARY (R439) -/
  | almanacEntryBoundary (p : Fin 2)
  /-- TS_SNAP (R458) -/
  | tsSnap
  /-- CAL_SET (R459) -/
  | calSet (x : Fin 2)
  /-- CAL_STEP (R459) -/
  | calStep (x : Fin 2)
  /-- CAL_RATE_WRITE (R455) -/
  | calRateWrite (x : Fin 2) (w : Word)
  /-- ACTIVE_WRITE (R461) -/
  | activeWrite (x : Fin 2)
  /-- ACTIVE_VIEW_SLEW_STEP (R460) -/
  | activeViewSlewStep
  /-- HINT_WRITE (R467) -/
  | hintWrite (x : Fin 2) (w : Word)
  /-- HINT_EXPIRE (R467) -/
  | hintExpire (x : Fin 2)
  /-- SYNC_RX (R464) -/
  | syncRx (p : Fin 2) (msg : TimeMsg)
  /-- FOLLOW_UP_RX (R464) -/
  | followUpRx (p : Fin 2) (msg : TimeMsg)
  /-- ANNOUNCE_RX (R463) -/
  | announceRx (p : Fin 2) (msg : Announce)
  /-- PDELAY_REQ_RX (R462) -/
  | pdelayReqRx (p : Fin 2) (msg : TimeMsg)
  /-- PDELAY_RESP_RX (R464) -/
  | pdelayRespRx (p : Fin 2) (msg : TimeMsg)
  /-- PDELAY_RESP_FOLLOW_UP_RX (R464) -/
  | pdelayRespFollowUpRx (p : Fin 2) (msg : TimeMsg)
  /-- SYNC_TX (R467) -/
  | syncTx (x : Fin 2) (p : Fin 2)
  /-- ANNOUNCE_TX (R462) -/
  | announceTx (x : Fin 2) (p : Fin 2)
  /-- PDELAY_REQ_TX (R462) -/
  | pdelayReqTx (x : Fin 2) (p : Fin 2)
  /-- ANNOUNCE_RECEIPT_TIMEOUT (R462) -/
  | announceReceiptTimeout (x : Fin 2) (p : Fin 2)
  /-- SYNC_LOSS_HOLDOVER (R466) -/
  | syncLossHoldover (x : Fin 2)
  /-- EV_MODE_WRITE (R469) -/
  | evModeWrite (n : Fin 48) (mode : Fin 8)
  /-- EV_ARM (R470) -/
  | evArm (n : Fin 48)
  /-- EV_DISARM (R470) -/
  | evDisarm (n : Fin 48)
  /-- EV_POP (R473) -/
  | evPop (n : Fin 48)
  /-- EV_SCHEDULED_EDGE (R471) -/
  | evScheduledEdge (n : Fin 48)
  /-- EV_PIN_EDGE (R473) -/
  | evPinEdge (pin : Fin 48) (level : Bool) (heldUs : Nat) (sink : SinkStatus)
  /-- IC_SOURCE_EDGE (R482) -/
  | icSourceEdge (src : Fin 1024)
  /-- IC_CLAIM (R488) -/
  | icClaim (t : Fin 16)
  /-- IC_COMPLETE (R489) -/
  | icComplete (t : Fin 16) (src : BitVec 10)
  /-- IC_TARGET_RESET (R490) -/
  | icTargetReset (t : Fin 16)
  /-- IC_PEND_WRITE (R492) -/
  | icPendWrite (w : Fin 32) (v : Word)
  /-- COAL_FLUSH (R493) -/
  | coalFlush (g : Fin 32)
  /-- COAL_TIMER (R493) -/
  | coalTimer (g : Fin 32)
  /-- WAKE_INPUT_EDGE (R494) -/
  | wakeInputEdge (w : Fin 64)
  /-- WAKE_CLR (R500) -/
  | wakeClr (w : Fin 64)
  /-- MSIX_ENABLE_WRITE (R486) -/
  | msixEnableWrite (en : Bool) (mask : Bool)
  /-- MSIX_UNMASK (R486) -/
  | msixUnmask (v : Option (Fin 16))
  /-- THERMAL_UPDATE (R517) -/
  | thermalUpdate (temps : List Int)
  /-- THERMAL_TRIP (R516) -/
  | thermalTrip
  /-- HOT (R187) -/
  | hot (n : Fin 4) (celsius : Int)
  /-- MGMT_WRITE (R518) -/
  | mgmtWrite (bytes : List Byte)
  /-- MGMT_READ (R518) -/
  | mgmtRead
  /-- TAP_RESET (R519) -/
  | tapReset
  /-- EXTEST (R519) -/
  | extest
  /-- SAMPLE_PRELOAD (R519) -/
  | samplePreload (pins : BitVec 180) (data : BitVec 180)
  /-- IDCODE (R519) -/
  | idcode
  /-- CLAMP (R519) -/
  | clamp
  /-- HIGHZ (R519) -/
  | highz
  /-- BYPASS (R519) -/
  | bypass
  deriving DecidableEq, Repr

end Sys2Proof
end

