-- ==== Sys2Proof/Machine/State.lean ====
section
/-!
DEFINITION. The state of the unit, the reasons a step can stop, and the state after reset.
-/
namespace Sys2Proof.Machine

/-- What leaves the unit: messages on a link, completions to the host, levels on a line. -/
inductive OutMsg where
  | msix (vector : Nat)                                  -- an MSI-X write (R486)
  | chainBits (bits : List Bool)                         -- bits on CDOUT, one for each CCLK edge (R89)
  | addressToken (token : BitVec 10)                     -- a token on CADDR_OUT, its bit 0 first (R83, R84)
  | configRetry                                          -- Configuration Request Retry Status (R96)
  | abort (a : BusAccess) (cause : Nat)                  -- a Completer Abort (R126)
  | readData (offset : Nat) (w : Word)                   -- a register read's completion
  | windowData (offset : Nat) (bytes : List Byte) (poisoned : Bool)  -- a window read's completion (R173, R183)
  | windowAbort (offset : Nat)                           -- a window read's Completer Abort (R183)
  | videoLine (head line : Nat) (px : List (List Nat))   -- an active line at a head's output, codes R, G, B (R251, R292)
  | trainPattern (dp pattern drive : Nat)                -- a training pattern on a link's lanes (R339)
  | auxRequest (dp cmd addr len : Nat) (data : List Word) -- a software AUX request (R336)
  | streamManage (dp type : Nat)                         -- a Stream_Manage message (R345)
  | msa (dp : Nat) (raster : List Nat)                   -- an MSA: HACT, HTOTAL, HFP, HSW, VACT, VTOTAL, VFP, VSW (R341)
  | vscSdp (dp bpc colorimetry : Nat)                    -- a VSC SDP, which declares RGB (R341)
  | softwareSdp (dp : Nat) (words : List Word)           -- the software SDP: HB1 to HB3, then its data words (R341)
  | adaptiveSync (dp rate longest shortest : Nat)        -- an Adaptive-Sync SDP: frame rates rate / shortest down to
                                                         -- rate / longest Hz, in pixels of a frame (R342)
  | ppsSdp (dp : Nat) (bytes : List Byte)                -- a PPS SDP (R343)
  | ringFrame (port : Nat) (f : RingFrame) (wire : List Byte)  -- a device frame on a ring port, and its bytes (R411, R436)
  | timeFrame (port address : Nat) (m : TimeFrame)       -- a time message on a ring port, to its group address (R462)
  | nvmeRead (port lba blocks : Nat)                     -- a Read command on a cartridge port (R376)
  | nvmeAdmin (port opcode detail : Nat)                 -- an admin command (R376); detail: CNS, FID, QID or LID
  | mgmtByte (b : Byte)                                  -- a byte on the management port (R518)
  deriving DecidableEq, Repr

/-- A held read of an IND_DATA register (R132): its slot, the address that is fetched (none: it waits for an earlier
one), does its completion carry the word (a request with a part in error completes with an abort instead, R124)? -/
structure IndRead where
  slot : Nat
  addr : Option Nat
  answer : Bool
  deriving DecidableEq, Repr

/-- Everything in the unit but the frame-store bytes and the command queue. -/
structure Dev where
  regs : List (Nat × Word)        -- registers by BAR0 offset, those not at their reset value (R12)
  rx : List (Nat × Word)          -- RX registers by slot and indirect address (R131)
  raw : Nat                       -- the raw counter in ticks of 1.25 ns (R454)
  freeCount : Nat                 -- the model's own: numbers the free values
  out : List OutMsg               -- what has left the unit, oldest first
  badParity : List Nat            -- registers whose stored parity of byte 0 is inverted (R150)
  faulted : List Nat              -- registers reported since their block's last recovery (R149)
  safe : List Nat                 -- slots in their parity safe state (R149)
  indFetch : List IndRead         -- indirect reads held, oldest first (R132)
  chain : ChainSt
  loader : LoaderSt
  fp : Floorplan
  otp : Otp
  shadow : Otp                    -- the OTP shadow (R393)
  ic : IcSt
  board : BoardSt
  fs : FsSt
  le : Vector LeSt 64
  gv : GvSt
  hd : Vector HeadSt 8
  dp : Vector DpSt 8
  srm : SrmSt
  bx : Vector BxSt 2
  cp : Vector CpSt 4
  streamer : AsSt
  ky : Option KyJob
  rp : Vector RpSt 2
  sh : ShSt
  ts : TsSt
  ev : Vector EvPin 48
  srsts : List SoftBlock          -- soft resets in progress (R101)
  deriving DecidableEq, Repr

/-- The state: the unit, the frame-store bytes (sparse by address; an unlisted byte reads 0) and the waiting commands,
first in, first out. -/
structure State where
  dev : Dev
  mem : List Host.Cell
  pending : List Instr
  deriving DecidableEq, Repr

/-- Why the machine stops: never. The spec names no behaviour of this block without an effect, so no meaning of the
model raises a fault. The type has no constructor. -/
inductive Fault where
  deriving DecidableEq, Repr

/-- Why a command is refused. -/
inductive Refusal where
  /-- The command's row of the table has no meaning yet; raised by `exec` alone. Safe: nothing is claimed of it. -/
  | notModelled (mnemonic : String)
  deriving DecidableEq, Repr

/-! The state after a power-on reset (R11, R12, R99). Registers that are not listed hold their reset values. -/

def ChainSt.reset : ChainSt :=
  { power := .por, crstLow := false, tripHold := false, slotMs := 5, addr := .held, started := [], controlUp := false,
    cerrLoad := false, rx := .hunt 0xFFFFFFFF, cdout := true, caddrOut := false }

def Floorplan.blank : Floorplan := ⟨[], [], [], [], [], [], [], []⟩

def LoaderSt.reset : LoaderSt :=
  { phase := .idle, source := .pcie, image := [], held := [], flrWaiting := false, applied := [], zero := [] }

def Otp.blank : Otp := { pages := [], revoked := 0, requireSigned := false, progDisable := false }

def IcTarget.reset : IcTarget := { stack := [], fault := false, faultSrc := 0, line := false }

def CoalGroup.reset : CoalGroup := { isOpen := false, count := 0, since := .none }

def IcSt.reset : IcSt :=
  { targets := .replicate 16 .reset, groups := .replicate 32 .reset, inflight := [], msixEnable := false,
    funcMask := false }

def BoardSt.reset : BoardSt :=
  { tap := .idcode, boundary := .replicate 180 false, shift := 0xB841654F, ptr := 0, logicC := .replicate 9 0,
    stackC := .replicate 4 0 }

def FsSt.reset : FsSt :=
  { inflight := [], waiting := [], errors := [], arbs := .replicate 4 ⟨0, 0, 0, 0, false⟩, hostQueue := [],
    writeBacks := [], hostReads := [], held := [], nextHost := 0, written := [] }

def LeSt.reset : LeSt := { cache := [], nextId := 0, enabled := false, shown := .none, fedLate := false }

def SurfaceSt.reset : SurfaceSt :=
  { phase := .idle, head := 0, node := 0, clearing := 0, base := 0, x := 0, y := 0, w := 0, h := 0, lineCrcs := [],
    frames := 0, trigger := .none, notJudged := false, guarded := false, gen := 0, reads := [], next := 0, checked := 0,
    tap := [] }

def GvSt.reset : GvSt :=
  { res := .replicate 8 ⟨.none, .none, .none⟩, waiting := [], busy := .none, peaks := .replicate 8 [0, 0, 0, 0],
    skips := .replicate 8 [], leCalm := .replicate 64 0, nodeCalm := .replicate 64 0, lastSig := .replicate 64 0, changed := [],
    surfaces := .replicate 8 .reset }

def HeadSt.reset : HeadSt :=
  { starting := false, heldForLeader := false, ticking := false, pllLocked := false, timed := false, lateStart := false,
    arm := .none, image := .none, dirtyWritten := [], evePassed := false, eveDue := false,
    harvestDue := false, extra := 0, hold := false, holdArm := false, background := false, refill := false, blocked := false,
    mark := 0, follows := .none, sync := .own, lineRaw := 0, row := [], cut := .none, crc := 0xFFFFFFFF, window := (0, 0, 0, 0),
    sampling := false, fresh := false, moved := false, judged := false, skipNext := false, lastJudged := .none,
    jumpNext := false, good := 0, above := 0 }

def DpSt.reset : DpSt :=
  { auto := false, aux := .none, hpdLow := false, hpdFrom := .none, hpdRose := false, auth := .idle,
    revoked := [], ske := .none, confirmed := .none, requested := .none, reauth := false, sdp := [] }

def BxSt.reset : BxSt := { active := .none, nextId := 0 }

def CpSt.reset : CpSt := { step := 0, reads := [], refreshing := false, nextCid := 0 }

def LaneSt.reset : LaneSt :=
  { job := .none, port := 0, lba := 0, zeroing := false, bytes := [], manifest := .none, nextRead := 0,
    nextReap := 0, data := [], decoding := .none, plain := [], owed := [], ending := .none }

def AsSt.reset : AsSt := { queue := [], lanes := .replicate 4 .reset }

/-- A class at reset: empty, C at 0, P at the reset PBS of 65,536 bytes. -/
def ClassSt.reset : ClassSt :=
  { queue := [], committed := 0, peak := 65536 * 1638400, deficit := 0, fresh := true }

def RpSt.reset : RpSt := { classes := .replicate 8 .reset, ptr := 0, since := 0 }

def ChannelSt.reset : ChannelSt :=
  { cmd := 0, next := 0, pieces := [], abort := false, guarded := false, owner := 0, port := 1 }

def BandSt.reset : BandSt := { bytes := 0, closed := false }

def StreamSt.reset : StreamSt := { now := .replicate 64 .reset, next := .replicate 64 .reset }

def SourceSt.reset : SourceSt := { tiles := [], due := 0, data := [], poison := false, port := 1 }

def AlmanacSt.reset : AlmanacSt := { start := 0, cal := 0, pending := .none }

def ShSt.reset : ShSt :=
  { outstanding := [], channels := .replicate 4 .reset, services := [], streams := .replicate 16 .reset,
    sources := .replicate 8 .reset, almanacs := .replicate 2 .reset, kept := [], waiting := [], ivPrefix := 0,
    ivCount := 0, nextTxn := 0, nextKey := 0 }

def CalSt.reset : CalSt :=
  { anchorRaw := 0, anchorT := 0, good := 0, bad := 0, integ := 0, hint := .none, ports := .replicate 2 ⟨[], .none⟩,
    parent := .none, seqSync := 0, seqAnnounce := 0 }

def TsSt.reset : TsSt :=
  { cals := .replicate 2 .reset, ports := .replicate 2 ⟨false, .none, 0⟩, residual := 0 }

def EvPin.reset : EvPin := { fifo := [], schedule := .none, high := false, notice := .none }

def Dev.reset : Dev :=
  { regs := [], rx := [], raw := 0, freeCount := 0, out := [], badParity := [], faulted := [],
    safe := [],
    indFetch := [], chain := .reset, loader := .reset, fp := .blank, otp := .blank, shadow := .blank, ic := .reset,
    board := .reset, fs := .reset, le := .replicate 64 .reset, gv := .reset, hd := .replicate 8 .reset,
    dp := .replicate 8 .reset, srm := [], bx := .replicate 2 .reset, cp := .replicate 4 .reset, streamer := .reset,
    ky := .none, rp := .replicate 2 .reset, sh := .reset, ts := .reset, ev := .replicate 48 .reset, srsts := [] }

/-- The state right after a power-on reset, POR still asserted (R11, R513); no command waits. -/
def State.reset : State := { dev := Dev.reset, mem := [], pending := [] }

end Sys2Proof.Machine
end

