-- ==== Sys2Proof/Machine/Operands.lean ====
section
/-!
DEFINITION. Register addressing and fields: which register lies at an offset (R118, R119, R121), what it holds at
reset (R12), and reading and writing its fields.
-/
namespace Sys2Proof.Machine

/-- Is `k` the distance of some instance from the first, for these strides and counts? -/
def dimsHit : List (Nat × Nat) → Nat → Bool
  | [], k => k == 0
  | (s, c) :: t, k => decide (k / s < c) && dimsHit t (k % s)

/-- Does the row list the offset? -/
def RegRow.has (r : RegRow) (rel : Nat) : Bool := decide (r.off ≤ rel) && dimsHit r.dims (rel - r.off)

/-- The row of a block's table that lists a slot offset (R121). DP0's SRM registers exist in DP0 alone (R352). -/
def rowIn (b : Block) (n rel : Nat) : Option RegRow :=
  match b.rows.find? (·.has rel) with
  | some r => if b = .DP ∧ n ≠ 0 ∧ onlyDp0.contains r.name then none else some r
  | none => none

/-- The L3 window shows the bank PAGE names (R261); bank 1's words are held this far above BAR0. -/
def l3Bank : Nat := 0x1000000

/-- The row of a register at a BAR0 offset below 0x0080_0000 (bank 1 of the 3D LUT above `l3Bank`). -/
def rowOf (addr : Nat) : Option RegRow :=
  match blockOfSlot (addr % l3Bank / 0x10000) with
  | some (b, n) => rowIn b n (addr % 0x10000)
  | none => none

/-- FP16 pattern of the degamma reset entry i: x_i of R248 at E = 0 (R262). -/
def degammaReset (i : Nat) : Nat :=
  if i < 64 then 8 * i else if i < 128 then 512 + 8 * (i % 64) else (i / 64 - 1) * 1024 + 16 * (i % 64)

/-- The regamma reset entry i: round(65,535 × x_i) at E = 0 (R248, R262). -/
def regammaReset (i : Nat) : Nat :=
  let num := if i < 64 then 2 * i else 2 ^ (i / 64) * (64 + i % 64)
  (2 * 65535 * num + 2 ^ 22) / 2 ^ 23

/-- FP16 pattern of r / 16 for r from 0 to 16 (R262). -/
def sixteenth (r : Nat) : Nat := if r = 0 then 0 else (11 + r.log2) * 1024 + (r - 2 ^ r.log2) * 2 ^ (10 - r.log2)

/-- The 3D LUT reset component c of node n (R250, R262). -/
def l3Reset (c n : Nat) : Nat :=
  if n > 4912 then 0 else sixteenth (if c = 0 then n % 17 else if c = 1 then n / 17 % 17 else n / 289)

/-- Reset words that the tables give by a formula: the bilinear coefficients (R232), the output matrix (R260), the
LUTs (R262). -/
def formulaReset (b : Block) (rel : Nat) : Option Nat :=
  match b with
  | .LE =>
    if 0x1000 ≤ rel then
      let q := rel % 0x800
      if q < 0x400 then
        let p := q / 16
        some (match q % 16 / 4 with | 1 => (4096 - 64 * p) <<< 16 | 2 => 64 * p | _ => 0)
      else
        let p := (q - 0x400) / 12
        some (if (q - 0x400) % 12 / 4 = 1 then (64 * p) <<< 16 + (4096 - 64 * p) else 0)
    else none
  | .HD =>
    if 0x8000 ≤ rel then
      let c := (rel - 0x8000) / 0x2800
      let k := (rel - 0x8000) % 0x2800 / 4
      some (l3Reset c (2 * k) + l3Reset c (2 * k + 1) <<< 16)
    else if 0x4000 ≤ rel then
      let k := (rel - 0x4000) % 0x800 / 4
      some (regammaReset (2 * k) + regammaReset (2 * k + 1) <<< 16)
    else if 0x1000 ≤ rel then
      let k := (rel - 0x1000) % 0x800 / 4
      some (degammaReset (2 * k) + degammaReset (2 * k + 1) <<< 16)
    else if rel = 0xC08 ∨ rel = 0xC1C ∨ rel = 0xC30 ∨ rel = 0xD08 ∨ rel = 0xD1C ∨ rel = 0xD30 then some 0x10000
    else none
  | _ => none

/-- The word the fields of a row hold at reset (R12). -/
def RegRow.resetNat (r : RegRow) : Nat := r.fields.foldl (fun acc f => acc + f.rst <<< f.lo) 0

/-- What the register at a BAR0 offset holds at reset (R12); 0 where no register is. -/
def resetWord (addr : Nat) : Word :=
  match blockOfSlot (addr % l3Bank / 0x10000) with
  | some (b, n) =>
    match formulaReset b (addr % 0x10000) with
    | some w => BitVec.ofNat 32 w
    | none => match rowIn b n (addr % 0x10000) with
      | some r => BitVec.ofNat 32 r.resetNat
      | none => 0
  | none => 0

/-- The bits of a row's fields of a type. -/
def RegRow.mask (r : RegRow) (t : FieldType) : Nat :=
  r.fields.foldl (fun m f => if f.ty = t then setBits m f.hi f.lo (2 ^ (f.hi + 1 - f.lo) - 1) else m) 0

/-- The bits of a row that stored parity covers: RW, WO and floorplan-owned fields (R147). -/
def RegRow.parityMask (r : RegRow) : Nat := r.mask .rw ||| r.mask .wo ||| r.mask .fp

/-- Does the register of a row hold stored parity (R147)? -/
def RegRow.hasParity (r : RegRow) : Bool := r.parityMask != 0

/-- The bits whose store makes the parity of byte 0 anew. Where byte 0 has no field with parity, the model takes the
register's other fields with parity for it (DESIGN CHOICE, log entry 28). -/
def RegRow.byte0 (r : RegRow) : Nat := if r.parityMask % 256 = 0 then r.parityMask else r.parityMask % 256

/-- Does a store into the bits `m` of the register at an offset make the parity of its byte 0 anew (R147)? -/
def remakesParity (addr m : Nat) : Bool :=
  match rowOf addr with
  | some r => r.byte0 &&& m != 0
  | none => false

/-- What an RX register holds at reset: 0 (R191, R403, R447, R501). -/
def rxReset (_ : Nat) : Word := 0

namespace Dev

/-- The stored word of the register at a BAR0 offset. -/
def get (d : Dev) (addr : Nat) : Word := cellAt resetWord d.regs addr

/-- Store a word in the register at a BAR0 offset. -/
def set (d : Dev) (addr : Nat) (w : Word) : Dev := { d with regs := setCell resetWord d.regs addr w }

/-- A store into the bits `m` of a register makes the parity of byte 0 anew, where it reaches a field that byte 0's
parity covers (R147). -/
def renew (d : Dev) (addr m : Nat) : Dev :=
  { d with badParity := if d.badParity.contains addr && remakesParity addr m then d.badParity.filter (· != addr)
      else d.badParity }

/-- The value of a field. -/
def fld (d : Dev) (f : Fld) : Nat := bits (d.get f.addr).toNat f.hi f.lo

/-- Store v (modulo the field's width) in a field; the register's other bits are unchanged. -/
def setFld (d : Dev) (f : Fld) (v : Nat) : Dev :=
  (d.set f.addr (BitVec.ofNat 32 (setBits (d.get f.addr).toNat f.hi f.lo v))).renew f.addr
    (2 ^ (f.hi + 1) - 2 ^ f.lo)

/-- Store a whole register's word on a path that makes its parity anew (R147). -/
def put (d : Dev) (addr : Nat) (w : Word) : Dev := (d.set addr w).renew addr 0xFFFFFFFF

/-- Is a field non-zero? -/
def flag (d : Dev) (f : Fld) : Bool := d.fld f != 0

/-- Store several fields, in order. -/
def setFlds (d : Dev) (l : List (Fld × Nat)) : Dev := l.foldl (fun d p => d.setFld p.1 p.2) d

/-- Do f if c holds. -/
def when' (d : Dev) (c : Bool) (f : Dev → Dev) : Dev := if c then f d else d

/-- An RX register's word, by slot and indirect address (R131). -/
def getRx (d : Dev) (slot ind : Nat) : Word := cellAt rxReset d.rx (slot * 0x10000 + ind)

/-- Store an RX register's word. -/
def setRx (d : Dev) (slot ind : Nat) (w : Word) : Dev := { d with rx := setCell rxReset d.rx (slot * 0x10000 + ind) w }

/-- A message leaves the unit. -/
def emit (d : Dev) (o : OutMsg) : Dev := { d with out := d.out ++ [o] }

/-- Take a fresh number for a free value. -/
def fresh (d : Dev) : Dev := { d with freeCount := d.freeCount + 1 }

end Dev

/-- A 64-bit value held in two words, low word first (R136). -/
def Dev.get64 (d : Dev) (lo hi : Nat) : Nat := (d.get lo).toNat + (d.get hi).toNat * 2 ^ 32

/-- Store a 64-bit value in two words. -/
def Dev.set64 (d : Dev) (lo hi v : Nat) : Dev :=
  (d.set lo (BitVec.ofNat 32 v)).set hi (BitVec.ofNat 32 (v / 2 ^ 32))

/-- The first address of a block's slot. -/
def blockAddr (b : Block) (n : Nat) : Nat := (b.base + n) * 0x10000

/-! Pixel formats (R203, R204). -/

/-- Bytes per sample of each plane of a format, plane 0 first; for 0x18 and 0x19 the 4-byte pixel pair; [] for a
reserved code. -/
def planeBytes (fmt : Nat) : List Nat :=
  if 0x10 ≤ fmt ∧ fmt ≤ 0x15 then [2]
  else if fmt = 0x18 ∨ fmt = 0x19 then [4]
  else if 0x20 ≤ fmt ∧ fmt ≤ 0x22 then [3]
  else if 0x30 ≤ fmt ∧ fmt ≤ 0x37 then [4]
  else if fmt = 0x40 ∨ fmt = 0x41 then [8]
  else if 0x50 ≤ fmt ∧ fmt ≤ 0x52 then [1, 2]
  else if 0x53 ≤ fmt ∧ fmt ≤ 0x55 then [2, 4]
  else if fmt = 0x56 ∨ fmt = 0x57 then [1, 1, 1]
  else if fmt = 0x58 ∨ fmt = 0x59 then [2, 2, 2]
  else if fmt = 0x60 ∨ fmt = 0x61 then [1]
  else []

end Sys2Proof.Machine
end

