-- ==== Sys2Proof/Machine/Flags.lean ====
section
/-!
DEFINITION. Event bits, sequence numbers, interrupt source edges and counters: how the device sets a status bit
(R142), which source that is an edge of (R482, R495), and how a counter saturates or wraps (R16).
-/
namespace Sys2Proof.Machine

/-- The interrupt source that an event bit of a status register belongs to (R495); none where the map lists none. -/
def sourceOf (addr bitNo : Nat) : Option Nat :=
  match blockOfSlot (addr / 0x10000) with
  | none => none
  | some (b, n) =>
    let rel := addr % 0x10000
    match b with
    | .SY => if rel = 0x80 ∧ bitNo ≤ 3 then some bitNo else none
    | .CH =>
      if rel = 0x08 then
        (match bitNo with | 1 => some 0x004 | 2 => some 0x005 | 3 => some 0x006 | _ => none)
      else if rel = 0x24 then
        (if bitNo = 5 then some 0x009 else if 2 ≤ bitNo ∧ bitNo ≤ 4 then some 0x007 else none)
      else none
    | .GV => if rel = 0x10 ∧ bitNo ≤ 4 then some (0x010 + bitNo) else none
    | .IC => if rel = 0x100 ∧ bitNo ≤ 1 then some (0x020 + bitNo) else none
    | .FS => if rel = 0x20 ∧ bitNo ≤ 1 then some (0x028 + 2 * n + bitNo) else none
    | .CL => if rel = 0x10 ∧ bitNo = 0 then some 0x030 else none
    | .CN => if rel = 0x320 ∧ bitNo ≤ 1 then some (0x040 + 8 * n + bitNo) else none
    | .BX => if rel = 0x04 ∧ bitNo ≤ 4 then some (0x050 + 8 * n + bitNo) else none
    | .CP => if rel = 0x08 ∧ bitNo ≤ 6 then some (0x060 + 8 * n + bitNo) else none
    | .AS => if rel = 0x04 ∧ bitNo ≤ 3 then some (0x080 + bitNo) else none
    | .KY => if rel = 0x10 ∧ bitNo = 0 then some 0x088 else none
    | .RP => if rel = 0x04 ∧ bitNo ≤ 5 then some (0x090 + 8 * n + bitNo) else none
    | .SH =>
      if rel = 0x04 ∧ bitNo ≤ 10 then some (0x0A0 + bitNo) else if rel = 0x08 ∧ bitNo ≤ 23 then some 0x0AB else none
    | .TS => if rel = 0x04 ∧ bitNo ≤ 8 then some (0x0B0 + bitNo) else none
    | .HD => if rel = 0x208 ∧ bitNo ≤ 14 then some (0x100 + 16 * n + bitNo) else none
    | .DP =>
      if rel = 0x0C ∧ (bitNo ≤ 10 ∨ (bitNo = 11 ∧ n = 0)) then some (0x180 + 16 * n + bitNo) else none
    | .LE => if rel = 0x200 ∧ bitNo ≤ 1 then some (0x200 + 4 * n + bitNo) else none
    | .EV => if rel % 64 = 0x04 ∧ rel < 48 * 64 then
        (let p := rel / 64
         match bitNo with
         | 0 => some (0x300 + 4 * p) | 1 => some (0x300 + 4 * p)
         | 2 => some (0x301 + 4 * p) | 3 => some (0x302 + 4 * p)
         | 5 => some 0x3C0 | _ => none) else none

/-- The CFG_PARITY source of the block in a slot (R495). FS0 to FS3 and CL have none of their own: SY's stands for
them. -/
def paritySource (slot : Nat) : Nat :=
  match blockOfSlot slot with
  | some (.CH, _) => 0x008
  | some (.GV, _) => 0x015
  | some (.IC, _) => 0x022
  | some (.CN, n) => 0x042 + 8 * n
  | some (.BX, n) => 0x055 + 8 * n
  | some (.CP, n) => 0x067 + 8 * n
  | some (.AS, _) => 0x084
  | some (.KY, _) => 0x089
  | some (.RP, n) => 0x096 + 8 * n
  | some (.SH, _) => 0x0AC
  | some (.TS, _) => 0x0B9
  | some (.HD, n) => 0x10F + 16 * n
  | some (.DP, n) => 0x18C + 16 * n
  | some (.LE, n) => 0x202 + 4 * n
  | some (.EV, _) => 0x3C1
  | _ => 0x002

/-- Is an interrupt source assigned (R495)? -/
def assigned (s : Nat) : Bool :=
  s ≤ 0x009 || (0x010 ≤ s && s ≤ 0x015) || (0x020 ≤ s && s ≤ 0x022) || (0x028 ≤ s && s ≤ 0x02F) || s == 0x030 ||
  (0x040 ≤ s && s < 0x050 && s % 8 ≤ 2) || (0x050 ≤ s && s < 0x060 && s % 8 ≤ 5) || (0x060 ≤ s && s < 0x080) ||
  (0x080 ≤ s && s ≤ 0x084) || s == 0x088 || s == 0x089 || (0x090 ≤ s && s < 0x0A0 && s % 8 ≤ 6) ||
  (0x0A0 ≤ s && s ≤ 0x0AC) || (0x0B0 ≤ s && s ≤ 0x0B9) || (0x0C0 ≤ s && s ≤ 0x0F6) || (0x100 ≤ s && s < 0x180) ||
  (0x180 ≤ s && s < 0x200 && (s % 16 ≤ 10 || s == 0x18B || s % 16 == 12)) ||
  (0x200 ≤ s && s < 0x300 && s % 4 ≤ 2) || (0x300 ≤ s && s < 0x3C0 && s % 4 ≤ 2) || s == 0x3C0 || s == 0x3C1

namespace Dev

/-- An edge of a source leaves its block for IC (R24, R482). -/
def edge (d : Dev) (src : Nat) : Dev := { d with ic := { d.ic with inflight := d.ic.inflight ++ [[src]] } }

/-- An edge of each of several sources in one clk. -/
def edges (d : Dev) (srcs : List Nat) : Dev :=
  { d with ic := { d.ic with inflight := d.ic.inflight ++ (if srcs.isEmpty then [] else [srcs]) } }

/-- Set event bits of one status register in one clk: the bits become 1, SEQ counts once whether or not they were set
already, and each source that a bit belongs to has an edge (R142, R482). No bit named: nothing happens. -/
def event (d : Dev) (addr : Nat) (evs : List Nat) : Dev :=
  match evs with
  | [] => d
  | _ =>
    let w := (d.get addr).toNat
    let w := evs.foldl (fun w b => setBits w b b 1) w
    let w := setBits w 31 24 (bits w 31 24 + 1)
    (d.set addr (BitVec.ofNat 32 w)).edges (evs.filterMap (sourceOf addr)).eraseDups

/-- Set event bits named by their fields (all of one status register). -/
def eventF (d : Dev) (evs : List Fld) : Dev :=
  match evs with
  | [] => d
  | f :: _ => d.event f.addr (evs.map (·.lo))

/-- Add k to a saturating counter field (R16): it stops at all ones. The Bool tells that it reached all ones now: a
count on a counter that stands there already raises STAT_SAT no more (DESIGN CHOICE, log entry 87). -/
def satAdd (d : Dev) (f : Fld) (k : Nat) : Dev × Bool :=
  let top := 2 ^ (f.hi + 1 - f.lo) - 1
  let v := d.fld f
  if v + k ≥ top then (d.setFld f top, v != top) else (d.setFld f (v + k), false)

/-- Add k to a saturating 64-bit counter of two words (R16, R136). -/
def satAdd64 (d : Dev) (lo hi k : Nat) : Dev × Bool :=
  let top := 2 ^ 64 - 1
  let v := d.get64 lo hi
  if v + k ≥ top then (d.set64 lo hi top, v != top) else (d.set64 lo hi (v + k), false)

/-- Add k to a wrapping counter field (R16). -/
def wrapAdd (d : Dev) (f : Fld) (k : Nat) : Dev := d.setFld f (d.fld f + k)

/-- Count k in a saturating counter and set event bits of a status register in the same clk; STAT_SAT (`sat`) is among
them when the counter reaches all ones (R16, R142). -/
def count (d : Dev) (cnt : Fld) (k : Nat) (sat : Fld) (evs : List Fld := []) : Dev :=
  let r := d.satAdd cnt k
  r.1.eventF (if r.2 then evs ++ [sat] else evs)

/-- Count k in a saturating 64-bit counter, with STAT_SAT when it reaches all ones. -/
def count64 (d : Dev) (lo hi k : Nat) (sat : Fld) (evs : List Fld := []) : Dev :=
  let r := d.satAdd64 lo hi k
  r.1.eventF (if r.2 then evs ++ [sat] else evs)

/-- Is the block of a slot in its parity safe state (R149)? -/
def isSafe (d : Dev) (slot : Nat) : Bool := d.safe.contains slot

/-- This unit's chain address (R84). -/
def unitAddr (d : Dev) : Nat := d.fld R.CH_CHAIN_ADDR_ADDR

/-- Every step of the start has completed (R96). -/
def ready (d : Dev) : Bool := d.flag R.SY_BRINGUP_READY

/-- Can a block not be used yet: before READY only SY and CH can (R96), in a unit with address 0 also IC, and every
other block is held in soft reset (R87)? -/
def blockHeld (d : Dev) (b : Block) : Bool :=
  !d.ready && !(b == .SY || b == .CH || (b == .IC && d.unitAddr == 0))

/-- Does the endpoint answer configuration requests with Configuration Request Retry Status: before READY, but not in
a unit that has failed enumeration (R87, R96)? -/
def configRetry (d : Dev) : Bool := !d.ready && !(d.flag R.CH_CHAIN_ADDR_ENUM_DONE && d.unitAddr == 0)

/-- Is head n running in the sense of R295: HDn_STATUS.RUN not 0 (stopped)? -/
def headRunning (d : Dev) (n : Nat) : Bool := d.fld (R.HD_STATUS_RUN n) != 0

end Dev

end Sys2Proof.Machine

namespace Sys2Proof.Machine.Dev

/-- Count in several saturating counters and set event bits of one status register in one clk; STAT_SAT joins them if
any counter reaches all ones (R16, R142). -/
def tally (d : Dev) (cs : List (Fld × Nat)) (wide : List (Nat × Nat × Nat)) (sat : Fld) (evs : List Fld) : Dev :=
  let r := cs.foldl (fun (p : Dev × Bool) c => let q := p.1.satAdd c.1 c.2; (q.1, p.2 || q.2)) (d, false)
  let r := wide.foldl (fun (p : Dev × Bool) c => let q := p.1.satAdd64 c.1 c.2.1 c.2.2; (q.1, p.2 || q.2)) r
  r.1.eventF (if r.2 then evs ++ [sat] else evs)

end Sys2Proof.Machine.Dev
end

