-- ==== Sys2Proof/Machine/Image.lean ====
section
/-!
DEFINITION. The floorplan image (chapter 02): its bytes, the checks of R61 stage by stage with the code, section and
record each failure reports (R63, R70), and the structure that a valid image gives.
-/
namespace Sys2Proof.Machine

/-- Why a load ended (R63, R70): code, table index (0xFF: none), record index (0xFFF: none). -/
structure LoadErr where
  code : Nat
  sect : Nat
  record : Nat
  deriving DecidableEq, Repr

/-- A header failure (R70): SECTION 0xFF, RECORD 0xFFF. -/
def headerErr (code : Nat) : LoadErr := ⟨code, 0xFF, 0xFFF⟩

/-- A failure of a section as a whole. -/
def sectErr (code i : Nat) : LoadErr := ⟨code, i, 0xFFF⟩

/-- The first failure of a list of checks, each a condition that holds when it is broken. -/
def firstErr : List (Bool × LoadErr) → Option LoadErr
  | [] => none
  | (true, e) :: _ => some e
  | (false, _) :: t => firstErr t

/-- The first failure among the elements of a list, in order. -/
def firstOf {α : Type} (f : α → Option LoadErr) : List α → Option LoadErr
  | [] => none
  | a :: t => match f a with | some e => some e | none => firstOf f t

/-- One step of the CRC-32 of R43, on one bit. -/
def crcBit (c : Nat) : Nat := if c % 2 = 1 then (c / 2) ^^^ 0xEDB88320 else c / 2

/-- CRC-32 of IEEE 802.3 over one byte: reflected, least significant bit first (R43). -/
def crcByte (c : Nat) (b : Byte) : Nat :=
  crcBit (crcBit (crcBit (crcBit (crcBit (crcBit (crcBit (crcBit (c ^^^ b.toNat))))))))

/-- The CRC-32 register after bytes, from a register value. -/
def crcFeed (c : Nat) (l : List Byte) : Nat := l.foldl crcByte c

/-- The CRC-32 of bytes (R43): initial value and final XOR of all ones. -/
def crc32 (l : List Byte) : Nat := crcFeed 0xFFFFFFFF l ^^^ 0xFFFFFFFF

/-- Are the `n` bytes at offset `o` not all 0? -/
def notZero (l : List Byte) (o n : Nat) : Bool := (slice l o n).any (· != 0)

/-- The next multiple of 8 at or after n. -/
def align8 (n : Nat) : Nat := (n + 7) / 8 * 8

/-! Header (R42). -/
def imgKind (b : List Byte) : Nat := field b 0x0F 1
def imgTotal (b : List Byte) : Nat := field b 0x08 4
def imgSections (b : List Byte) : Nat := field b 0x10 2

/-- Stage 1 on the header, in the order of R61. -/
def checkHeader (b : List Byte) (unit : Nat) (configured : Bool) : Option LoadErr :=
  firstErr [
    (field b 0 4 != 0x49504641, headerErr 0x01),
    (field b 4 1 != 2 || field b 5 1 != 0, headerErr 0x02),
    (field b 0x3C 4 != crc32 (slice b 0 0x3C), headerErr 0x03),
    (field b 6 2 != 64 || field b 0x14 4 != 64 || (imgKind b != 1 && imgKind b != 2) ||
      imgSections b == 0 || decide (16 < imgSections b) || decide (2 ≤ field b 0x13 1) || notZero b 0x20 28,
      headerErr 0x04),
    (imgTotal b % 8 != 0 || decide (imgTotal b < 128) || decide (32768 < imgTotal b) ||
      decide (imgTotal b < 64 + 16 * imgSections b), headerErr 0x05),
    (field b 0x0C 2 != 0x8416 || (field b 0x0E 1 != 0xB0 && field b 0x0E 1 != 0xB1), headerErr 0x06),
    (field b 0x12 1 != 0 && field b 0x12 1 != unit, headerErr 0x07),
    (!configured && imgKind b != 1, headerErr 0x62)]

/-- A section table entry (R44). -/
structure Sect where
  idx : Nat
  ty : Nat
  half : Nat
  pad : Nat
  off : Nat
  len : Nat
  crc : Nat
  deriving DecidableEq, Repr

/-- Entry i of the section table (R44). -/
def sectAt (b : List Byte) (i : Nat) : Sect :=
  let o := 64 + 16 * i
  ⟨i, field b o 1, field b (o + 1) 1, field b (o + 2) 2, field b (o + 4) 4, field b (o + 8) 4, field b (o + 12) 4⟩

/-- The section table. -/
def sects (b : List Byte) : List Sect := (List.range (imgSections b)).map (sectAt b)

/-- Record size of a section type (R47); none: an unknown type, or the signature, which holds no records. -/
def recordSize : Nat → Option Nat
  | 0x01 => some 8 | 0x02 => some 16 | 0x03 => some 8 | 0x04 => some 8 | 0x05 => some 16
  | 0x06 => some 4 | 0x07 => some 4 | 0x08 => some 8 | _ => none

/-- Is the section type structural (R47)? -/
def structural (ty : Nat) : Bool := decide (1 ≤ ty ∧ ty ≤ 5)

/-- The HALF that an image's structural sections name (R47): 1, 2, or none where there is none. -/
def reloadHalf (b : List Byte) : Option Nat :=
  if imgKind b = 1 then none else ((sects b).find? (structural ·.ty)).map (·.half)

/-- TYPE, HALF and place of entry s, the entries before it given (R45, R47, R60; E_SECT_TYPE). -/
def badType (b : List Byte) (before : List Sect) (s : Sect) : Bool :=
  ((recordSize s.ty).isNone && s.ty != 0x7F) ||
  before.any (fun p => p.ty == s.ty && p.half == s.half) ||
  (if s.ty = 0x7F then s.half != 0 || s.idx + 1 != imgSections b
   else if imgKind b = 1 then s.half != 0
   else if structural s.ty then
     (s.half != 1 && s.half != 2) || before.any (fun p => structural p.ty && p.half != s.half)
   else s.half != 0 || s.ty == 0x08)

/-- Bounds of entry s (R45): it starts at the first multiple of 8 after the body (or table) before it, lies inside the
image, and the last body ends exactly at TOTAL_LEN. -/
def badBounds (b : List Byte) (s : Sect) : Bool :=
  let prevEnd := if s.idx = 0 then 64 + 16 * imgSections b
    else (sectAt b (s.idx - 1)).off + (sectAt b (s.idx - 1)).len
  s.off != align8 prevEnd || decide (imgTotal b < s.off + s.len) ||
  (s.idx + 1 == imgSections b && s.off + s.len != imgTotal b)

/-- Stage 1 on the table entries in table order (R61). -/
def checkTable (b : List Byte) : Option LoadErr :=
  firstOf (fun s => firstErr [
    (badType b ((sects b).take s.idx) s, sectErr 0x11 s.idx),
    (s.pad != 0, sectErr 0x13 s.idx),
    (badBounds b s, sectErr 0x10 s.idx)]) (sects b)

/-- FLAGS.SIGNED against the presence of a signature section, then the mandatory sections (R47, R60, R61). -/
def checkPresence (b : List Byte) : Option LoadErr :=
  let has := fun ty => (sects b).any (·.ty == ty)
  firstErr [
    ((field b 0x13 1 == 1) != has 0x7F, headerErr 0x11),
    ((imgKind b == 1 || (sects b).any (structural ·.ty)) && !(has 2 && has 3 && has 4 && has 5), headerErr 0x15)]

/-- Stage 1 on a section: padding after it and reserved bytes of its section header (E_PAD), its CRC, then RECORD_SIZE
and LENGTH (R45, R46, R60, R61). That the reserved bytes of a section header are checked before the CRC is DEDUCED:
R61 names no place for them (log entry 12). DESIGN CHOICE: the 15 reserved bytes of the signature section are checked
there too, in stage 1 with E_PAD; the spec gives them neither a place nor a code (log entry 12). -/
def checkSection (b : List Byte) (s : Sect) : Option LoadErr :=
  let fin := s.off + s.len
  firstErr [
    (notZero b fin (align8 fin - fin) ||
      (if s.ty = 0x7F then notZero b (s.off + 1) (min 15 (s.len - 1)) else notZero b (s.off + 4) (min 4 (s.len - 4))),
      sectErr 0x13 s.idx),
    (s.crc != (if s.ty = 0x7F then 0 else crc32 (slice b s.off s.len)), sectErr 0x12 s.idx),
    (match recordSize s.ty with
      | none => s.len != 80
      | some n => decide (s.len < 8) || field b (s.off + 2) 2 != n || s.len != 8 + field b s.off 2 * n,
      sectErr 0x14 s.idx)]

/-- A public-key or content-key slot usable by validation: programmed and not revoked in the OTP shadow (R60, R394).
Bit k of PROGRAMMED and REVOKED as R406 numbers them. -/
def slotUsable (programmed revoked k : Nat) : Bool := bit programmed k && !bit revoked k

/-- The content of an OTP slot by its bit number in KY_SLOT_PROG (R406). -/
def slotBytes (pages : List (Nat × List Byte)) (k : Nat) : List Byte := ((pages.find? (·.1 == k)).map (·.2)).getD []

/-- Stage 2 (R60). -/
def checkSignature (b : List Byte) (otp : Otp) (programmed : Nat) (required : Bool) : Option LoadErr :=
  match (sects b).find? (·.ty == 0x7F) with
  | none => if required then some (headerErr 0x20) else none
  | some s =>
    let k := field b s.off 1
    firstErr [
      (decide (3 < k) || !slotUsable programmed otp.revoked k, sectErr 0x21 s.idx),
      (!signatureOk (slotBytes otp.pages k) (slice b 0 s.off) (slice b (s.off + 16) 64), sectErr 0x22 s.idx)]

/-! Records (R48 to R58). -/

/-- The records of section s, each with its index. -/
def records (b : List Byte) (s : Sect) : List (Nat × List Byte) :=
  match recordSize s.ty with
  | none => []
  | some n => (List.range (field b s.off 2)).map (fun i => (i, slice b (s.off + 8 + n * i) n))

/-- Range, default and half (0 East, 1 West, 2 spine) of an island that R48 lets an image name. -/
def islandInfo (k : Nat) : Option (Nat × Nat × Nat × Nat) :=
  if k ≤ 7 then some (25000000, 520000000, 520000000, k / 4)
  else if 0x10 ≤ k ∧ k ≤ 0x13 then some (488281250, 976562500, 976562500, (k - 0x10) / 2)
  else if 0x18 ≤ k ∧ k ≤ 0x1B then some (400000000, 1000000000, 1000000000, k % 2)
  else if k = 0x20 then some (250000000, 500000000, 500000000, 2)
  else if k = 0x21 then some (375000000, 750000000, 750000000, 2)
  else if k = 0x22 then some (200000000, 800000000, 800000000, 2)
  else none

/-- FREQ_HZ as the device uses it (R49): a PXC ceiling as written, any other island rounded down to 390,625 Hz. -/
def islandHz (k hz : Nat) : Nat := if k ≤ 7 then hz else hz / 390625 * 390625

/-- Half of a layer engine, a node (both 0 to 63) or a head (R19): 0 East, 1 West. -/
def halfOfEngine (n : Nat) : Nat := n / 32
def halfOfHead (n : Nat) : Nat := n / 4

/-- Is a value in source encoding (LE00 to BN63, or none)? -/
def sourceCode (v : Nat) : Bool := decide (v ≤ 0x7F) || v == 0xFF

def parseClearing (r : List Byte) : Clearing :=
  ⟨field r 0 1, field r 1 1, field r 2 1, field r 3 1, field r 4 4, field r 8 4, field r 12 2⟩
def parseLe (r : List Byte) : LeRec := ⟨field r 0 1, field r 1 1, field r 2 2⟩
def parseNode (r : List Byte) : NodeRec := ⟨field r 0 1, field r 1 1, field r 2 1, field r 3 1⟩
def parseHead (r : List Byte) : HeadCap :=
  ⟨field r 0 1, field r 1 1, field r 2 1, field r 3 1, field r 4 1, field r 5 1, field r 6 1, field r 8 2, field r 10 2⟩
def parseOwner (r : List Byte) : OwnerRec := ⟨field r 0 1, field r 1 1, field r 2 1, field r 3 1⟩

/-! Clearing attributes (R50). -/
namespace Clearing
def isProtected (c : Clearing) : Bool := bit c.attr 0
def ringVisible (c : Clearing) : Bool := bit c.attr 1
def hostRead (c : Clearing) : Bool := bit c.attr 2
def hostWrite (c : Clearing) : Bool := bit c.attr 3
def copyRead (c : Clearing) : Bool := bit c.attr 4
def copyWrite (c : Clearing) : Bool := bit c.attr 5
def scratch (c : Clearing) : Bool := bit c.attr 6
/-- Do two clearings overlap? -/
def overlaps (c e : Clearing) : Bool := decide (c.base < e.base + e.size) && decide (e.base < c.base + c.size)
end Clearing

/-- R51 on one record, the records before it given: alignment, size and half; overlap; attributes; owner. -/
def checkClearing (i : Nat) (half : Option Nat) (before : List Clearing) (rec : Nat × List Byte) : Option LoadErr :=
  let c := parseClearing rec.2
  let e := fun code => (⟨code, i, rec.1⟩ : LoadErr)
  firstErr [
    (decide (1 < c.half) || c.base % 0x10000 != 0 || c.size % 0x10000 != 0 || decide (c.size < 0x10000) ||
      decide (c.base < c.half * 0x20000000) || decide ((c.half + 1) * 0x20000000 < c.base + c.size) ||
      (match half with | some h => c.half + 1 != h | none => false), e 0x38),
    (before.any (fun p => p.number == c.number || p.overlaps c), e 0x39),
    (bit c.attr 7 || (c.ringTag != 0) != c.ringVisible ||
      (c.ringVisible && before.any (fun p => p.ringVisible && p.ringTag == c.ringTag)) ||
      (c.isProtected && (c.hostRead || c.hostWrite)) ||
      (c.scratch && (c.hostRead || c.hostWrite || c.copyRead || c.copyWrite || c.ringVisible)), e 0x3A),
    (decide (15 < c.owner) || (!c.isProtected && c.owner != 0), e 0x3B),
    (notZero rec.2 14 2, e 0x13)]

/-- Stage 3 on one record of section s, the section's earlier records given (R48 to R58). A record's reserved bytes
are checked after its other rules: DEDUCED (log entry 12). DESIGN CHOICE, the spec giving no code: a NODE that two
CANOPY records name (R53) fails here with E_TREE, and a reserved bit [7:2] of FLAGS that is set (R54) fails with
E_HEAD, as the other checks of its HEAD_CAPS record do, not with E_PAD (log entry 88). -/
def checkRecord (b : List Byte) (programmed revoked : Nat) (s : Sect) (before : List (List Byte))
    (rec : Nat × List Byte) : Option LoadErr :=
  let r := rec.2
  let half := if imgKind b = 2 ∧ structural s.ty then some s.half else none
  let wrong := fun (h : Nat) => (match half with | some k => h + 1 != k | none => false)
  let e := fun code => (⟨code, s.idx, rec.1⟩ : LoadErr)
  let seen := before.any (fun p => field p 0 1 == field r 0 1)
  match s.ty with
  | 0x01 =>
    let k := field r 0 1
    firstErr [
      ((match islandInfo k with
        | none => true
        | some (lo, hi, _, h) =>
          seen || wrong h || decide (islandHz k (field r 4 4) < lo) || decide (hi < islandHz k (field r 4 4))), e 0x30),
      (notZero r 1 3, e 0x13)]
  | 0x02 => checkClearing s.idx half (before.map parseClearing) rec
  | 0x03 =>
    let m := parseLe r
    let pool := ((before.map parseLe).filter (fun p => halfOfEngine p.le == halfOfEngine m.le)).foldl
      (fun a p => a + p.cacheKib) m.cacheKib
    firstErr [
      (decide (63 < m.le) || decide (7 < m.head) || seen || wrong (halfOfEngine m.le), e 0x40),
      (m.cacheKib % 16 != 0 || m.cacheKib == 0 || decide (512 < m.cacheKib) || decide (4096 < pool), e 0x41),
      (notZero r 4 4, e 0x13)]
  | 0x04 =>
    let n := parseNode r
    firstErr [
      (decide (63 < n.node) || decide (7 < n.head) || halfOfHead n.head != halfOfEngine n.node ||
        wrong (halfOfEngine n.node), e 0x48),
      (seen || n.inA == 0xFF || !sourceCode n.inA || !sourceCode n.inB, e 0x49),
      (notZero r 4 4, e 0x13)]
  | 0x05 =>
    let c := parseHead r
    firstErr [
      (decide (7 < c.head) || seen || wrong (halfOfHead c.head) || decide (2 < c.mode) || !sourceCode c.root ||
        (c.mode != 1 && c.root != 0xFF) || (if c.mode = 2 then decide (7 < c.cloneSrc) else c.cloneSrc != 0xFF) ||
        (decide (7 < c.partner) && c.partner != 0xFF) || decide (4 ≤ c.flags) || decide (3 < c.linkMax) ||
        decide (c.hactMax < 64) || decide (7680 < c.hactMax) || decide (c.vactMax < 64) || decide (4320 < c.vactMax),
        e 0x50),
      (notZero r 7 1 || notZero r 12 4, e 0x13)]
  | 0x06 =>
    firstErr [
      (field r 0 1 == 0 || decide (7 < field r 0 1) || decide (7 < field r 1 1) || seen ||
        (decide (field r 0 1 ≤ 2) && field r 1 1 != 7), e 0x58),
      (notZero r 2 2, e 0x13)]
  | 0x07 =>
    firstErr [
      (decide (1023 < field r 0 2) || !assigned (field r 0 2) || decide (15 < field r 2 1) ||
        before.any (fun p => field p 0 2 == field r 0 2), e 0x59),
      (notZero r 3 1, e 0x13)]
  | 0x08 =>
    let o := parseOwner r
    firstErr [
      (o.owner == 0 || decide (15 < o.owner) || seen || o.keySlot == 0 || decide (15 < o.keySlot) ||
        !slotUsable programmed revoked (8 + o.keySlot) || (o.hdcp != 1 && o.hdcp != 2) || decide (32 ≤ o.perms) ||
        notZero r 4 4, e 0x60)]
  | _ => none

/-- Stage 3 over the records of a section, in record order. -/
def checkRecords (b : List Byte) (programmed revoked : Nat) (s : Sect) : Option LoadErr :=
  let rs := records b s
  firstOf (fun rec => checkRecord b programmed revoked s ((rs.take rec.1).map (·.2)) rec) rs

/-! Structure (stage 4). Every record carries where it stands in the image, (table index, record index); a record in
force stands at (0xFF, 0xFFF), as no record of the image holds the offending reference then (log entry 14). -/

/-- A record with its place in the image. -/
abbrev Placed (α : Type) := α × Nat × Nat

/-- The parsed records of a section type, with their places; none where the image has no such section. -/
def placed {α : Type} (b : List Byte) (ty : Nat) (parse : List Byte → α) : Option (List (Placed α)) :=
  ((sects b).find? (·.ty == ty)).map fun s => (records b s).map fun r => (parse r.2, s.idx, r.1)

/-- The structure that an image gives, merged with the structure in force, each record with its place (R61, R75, R76). -/
structure Merged where
  islands : List (Nat × Nat)
  clearings : List (Placed Clearing)
  leMap : List (Placed LeRec)
  canopy : List (Placed NodeRec)
  heads : List (Placed HeadCap)
  ringClass : List (Nat × Nat)
  irqMap : List (Nat × Nat)
  owners : List OwnerRec

/-- Records of a structural section merged with those in force: all new in a FULL image; in a RELOAD the other half's
in force with the reloaded half's new ones; unchanged where the RELOAD has no structural section. -/
def mergeRecords {α : Type} (b : List Byte) (ty : Nat) (parse : List Byte → α) (half : α → Nat) (cur : List α) :
    List (Placed α) :=
  let new := (placed b ty parse).getD []
  if imgKind b = 1 then new
  else match reloadHalf b with
    | some h => (cur.filter (fun x => half x + 1 != h)).map (fun x => (x, 0xFF, 0xFFF)) ++ new
    | none => cur.map (fun x => (x, 0xFF, 0xFFF))

/-- The island frequencies after the image (R49): those named, the others of its scope at their defaults. -/
def mergeIslands (b : List Byte) (cur : List (Nat × Nat)) : List (Nat × Nat) :=
  let new := ((placed b 1 (fun r => (field r 0 1, islandHz (field r 0 1) (field r 4 4)))).getD []).map (·.1)
  let kept := if imgKind b = 1 then [] else match reloadHalf b with
    | some h => cur.filter (fun p => match islandInfo p.1 with | some i => i.2.2.2 + 1 != h | none => false)
    | none => cur
  kept ++ new

/-- The structure that an image gives over the structure in force. The key policy is the first image's (R59). -/
def merge (b : List Byte) (fp : Floorplan) (first : Bool) : Merged where
  islands := mergeIslands b fp.islands
  clearings := mergeRecords b 2 parseClearing (·.half) fp.clearings
  leMap := mergeRecords b 3 parseLe (fun m => halfOfEngine m.le) fp.leMap
  canopy := mergeRecords b 4 parseNode (fun n => halfOfEngine n.node) fp.canopy
  heads := mergeRecords b 5 parseHead (fun c => halfOfHead c.head) fp.heads
  ringClass := match placed b 6 (fun r => (field r 0 1, field r 1 1)) with
    | some l => l.map (·.1)
    | none => if imgKind b = 1 then [] else fp.ringClass
  irqMap := match placed b 7 (fun r => (field r 0 2, field r 2 1)) with
    | some l => l.map (·.1)
    | none => if imgKind b = 1 then [] else fp.irqMap
  owners := if first then ((placed b 8 parseOwner).getD []).map (·.1) else fp.owners

/-- An owner of the key policy. -/
def ownerOf (l : List OwnerRec) (k : Nat) : Option OwnerRec := l.find? (·.owner == k)

/-- Clearings and owners of the merged structure (R51, R61). -/
def checkMergedClearings (m : Merged) : Option LoadErr :=
  firstOf (fun (k : Nat) =>
    match m.clearings[k]? with
    | none => none
    | some (c, i, r) =>
      let before := (m.clearings.take k).map (·.1)
      firstErr [
        (before.any (fun p => p.number == c.number || p.overlaps c), ⟨0x39, i, r⟩),
        (c.ringVisible && before.any (fun p => p.ringVisible && p.ringTag == c.ringTag), ⟨0x3A, i, r⟩),
        (c.isProtected && (match ownerOf m.owners c.owner with
          | none => true
          | some o => (c.copyRead && !bit o.perms 0) || (c.copyWrite && !bit o.perms 1) ||
              (c.ringVisible && !(bit o.perms 2 || bit o.perms 3)) || (c.scratch && !bit o.perms 4)), ⟨0x3B, i, r⟩)])
    (List.range m.clearings.length)

/-- The bridge count of R52: at most 8 engines feed a head of the other half, both directions together. The ninth, in
ascending engine order, is named. -/
def checkBridge (m : Merged) : Option LoadErr :=
  let cross := (List.range 64).filterMap (fun le =>
    m.leMap.find? (fun p => p.1.le == le && halfOfEngine le != halfOfHead p.1.head))
  match cross[8]? with
  | some (_, i, r) => some ⟨0x42, i, r⟩
  | none => none

/-- What a tree walk has reached so far, or its first offending reference. -/
structure Walk where
  nodes : List Nat
  les : List Nat
  err : Option LoadErr

/-- Visit the source v of a head's tree, referred to by the record at place (i, r): IN_A's subtree before IN_B's
(R61, R63). `fuel` bounds the depth; a tree of 64 nodes needs 65. -/
def visit (m : Merged) (head : Nat) : Nat → Nat → Nat × Nat → Walk → Walk
  | 0, _, p, w => { w with err := w.err.or (some ⟨0x49, p.1, p.2⟩) }
  | fuel + 1, v, p, w =>
    match w.err with
    | some _ => w
    | none =>
      if v < 0x40 then
        match m.leMap.find? (·.1.le == v) with
        | some l =>
          if l.1.head != head || w.les.contains v then { w with err := some ⟨0x49, p.1, p.2⟩ }
          else { w with les := v :: w.les }
        | none => { w with err := some ⟨0x49, p.1, p.2⟩ }
      else
        match m.canopy.find? (·.1.node == v - 0x40) with
        | some n =>
          if n.1.head != head || w.nodes.contains n.1.node then { w with err := some ⟨0x49, p.1, p.2⟩ }
          else
            let w := visit m head fuel n.1.inA n.2 { w with nodes := n.1.node :: w.nodes }
            if n.1.inB = 0xFF then w else visit m head fuel n.1.inB n.2 w
        | none => { w with err := some ⟨0x49, p.1, p.2⟩ }

/-- One head's tree (R53, R61): ROOT and the walk of a MODE 1 head, then the node outputs and mapped engines of the
head that the walk did not reach, in ascending order. DESIGN CHOICE, the spec not saying which: a MODE 1 head
whose ROOT is 0xFF (R54) fails here, in stage 4 with E_TREE, not in stage 3 with E_HEAD (log entry 88). -/
def checkTree (m : Merged) (head : Nat) : Option LoadErr :=
  let w : Walk := match m.heads.find? (·.1.head == head) with
    | some h => if h.1.mode = 1 then
        (if h.1.root = 0xFF then ⟨[], [], some ⟨0x49, h.2.1, h.2.2⟩⟩ else visit m head 65 h.1.root h.2 ⟨[], [], none⟩)
      else ⟨[], [], none⟩
    | none => ⟨[], [], none⟩
  match w.err with
  | some e => some e
  | none =>
    let nodeMiss : Option (Placed NodeRec) := (List.range 64).findSome? (fun n =>
      m.canopy.find? (fun p => p.1.node == n && p.1.head == head && !w.nodes.contains n))
    match nodeMiss with
    | some p => some ⟨0x49, p.2.1, p.2.2⟩
    | none =>
      let leMiss : Option (Placed LeRec) := (List.range 64).findSome? (fun l =>
        m.leMap.find? (fun p => p.1.le == l && p.1.head == head && !w.les.contains l))
      leMiss.map fun p => ⟨0x49, p.2.1, p.2.2⟩

/-- The clone rules, then the split rules, of R55. -/
def checkCloneSplit (m : Merged) : Option LoadErr :=
  let capOf := fun n => (m.heads.find? (·.1.head == n)).map (·.1)
  let inOrder := (List.range 8).filterMap (fun n => m.heads.find? (·.1.head == n))
  let clone := firstOf (fun (p : Placed HeadCap) =>
    let c := p.1
    firstErr [(c.mode == 2 && ((c.head != 3 && c.head != 7) || c.cloneSrc == c.head || c.partner != 0xFF ||
      (match capOf c.cloneSrc with
        | some s => s.mode != 1 || decide (c.hactMax < s.hactMax) || decide (c.vactMax < s.vactMax)
        | none => true)), ⟨0x51, p.2.1, p.2.2⟩)]) inOrder
  match clone with
  | some e => some e
  | none => firstOf (fun (p : Placed HeadCap) =>
    let c := p.1
    let pair := (min c.head c.partner, max c.head c.partner)
    firstErr [(c.partner != 0xFF && (!([(0, 1), (2, 3), (4, 5), (6, 7), (3, 4)].contains pair) || c.mode != 1 ||
      (match capOf c.partner with
        | some q => q.mode != 1 || q.partner != c.head || q.hactMax != c.hactMax || q.vactMax != c.vactMax ||
            q.linkMax != c.linkMax
        | none => true)), ⟨0x52, p.2.1, p.2.2⟩)]) inOrder

/-- Stage 4 (R61): clearings and owners, the bridge count, each head's tree from HD0 to HD7, clone and split rules. -/
def checkStructure (m : Merged) : Option LoadErr :=
  match checkMergedClearings m with
  | some e => some e
  | none => match checkBridge m with
    | some e => some e
    | none => match firstOf (checkTree m) (List.range 8) with
      | some e => some e
      | none => checkCloneSplit m

/-- The structure in force after the image. -/
def Merged.floorplan (m : Merged) : Floorplan where
  islands := m.islands.filter (fun p => match islandInfo p.1 with | some i => p.2 != i.2.2.1 | none => false)
  clearings := m.clearings.map (·.1)
  leMap := m.leMap.map (·.1)
  canopy := m.canopy.map (·.1)
  heads := m.heads.map (·.1)
  ringClass := m.ringClass
  irqMap := m.irqMap
  owners := m.owners

/-- Stages 1 (after the header) to 4 of R61, stopping at the first failure. -/
def checkImage (b : List Byte) (fp : Floorplan) (first : Bool) (otp : Otp) (programmed : Nat) (required : Bool) :
    Option LoadErr :=
  match checkTable b with
  | some e => some e
  | none => match checkPresence b with
    | some e => some e
    | none => match firstOf (checkSection b) (sects b) with
      | some e => some e
      | none => match checkSignature b otp programmed required with
        | some e => some e
        | none => match firstOf (checkRecords b programmed otp.revoked) (sects b) with
          | some e => some e
          | none => checkStructure (merge b fp first)

end Sys2Proof.Machine
end

