-- ==== Sys2Proof/Machine/Structure.lean ====
section
/-!
DEFINITION. What the structure in force says (R48 to R58): frequencies, clearings, which engine feeds which head, the
blend trees, head capabilities, classes, interrupt targets, owners.
-/
namespace Sys2Proof.Machine
namespace Floorplan

/-- The frequency of an island in Hz (R48, R49): as named, or its default. -/
def hz (fp : Floorplan) (k : Nat) : Nat :=
  match fp.islands.find? (·.1 == k) with
  | some p => p.2
  | none => match islandInfo k with | some i => i.2.2.1 | none => 0

/-- The clearing with a number. -/
def clearing (fp : Floorplan) (n : Nat) : Option Clearing := fp.clearings.find? (·.number == n)

/-- The LE_MAP record of an engine (R52). -/
def leRec (fp : Floorplan) (le : Nat) : Option LeRec := fp.leMap.find? (·.le == le)

/-- The CANOPY record of a node (R53). -/
def nodeRec (fp : Floorplan) (n : Nat) : Option NodeRec := fp.canopy.find? (·.node == n)

/-- A head's capabilities; a head that no record names is off, with the values of R54. -/
def cap (fp : Floorplan) (h : Nat) : HeadCap :=
  (fp.heads.find? (·.head == h)).getD ⟨h, 0, 0xFF, 0xFF, 0xFF, 0, 3, 7680, 4320⟩

/-- The default class of a traffic kind (R56). -/
def defaultClass : Nat → Nat
  | 1 => 7 | 2 => 7 | 3 => 6 | 4 => 2 | 5 => 5 | 6 => 6 | _ => 5

/-- The class of a traffic kind (R56). -/
def classOf (fp : Floorplan) (kind : Nat) : Nat :=
  match fp.ringClass.find? (·.1 == kind) with
  | some p => p.2
  | none => defaultClass kind

/-- The static target of an interrupt source (R57, R483). -/
def target (fp : Floorplan) (src : Nat) : Nat :=
  match fp.irqMap.find? (·.1 == src) with
  | some p => p.2
  | none => 14

/-- An owner of the key policy in force (R58). -/
def owner (fp : Floorplan) (k : Nat) : Option OwnerRec := ownerOf fp.owners k

/-- The engines mapped to a head, in ascending order (R28, R52). -/
def engines (fp : Floorplan) (h : Nat) : List Nat :=
  (List.range 64).filter (fun l => match fp.leRec l with | some r => r.head == h | none => false)

/-- Does an engine feed its head over the bridge (R21, R52)? -/
def bridged (fp : Floorplan) (le : Nat) : Bool :=
  match fp.leRec le with
  | some r => halfOfEngine le != halfOfHead r.head
  | none => false

/-- Every engine and node of the subtree at a source, as source codes, the source itself first (R53). -/
def subtree (fp : Floorplan) : Nat → Nat → List Nat
  | 0, _ => []
  | fuel + 1, v =>
    if v < 0x40 then [v]
    else match fp.nodeRec (v - 0x40) with
      | some n => v :: (subtree fp fuel n.inA ++ (if n.inB = 0xFF then [] else subtree fp fuel n.inB))
      | none => [v]

/-- The layer engines under a source. -/
def leaves (fp : Floorplan) (v : Nat) : List Nat := (fp.subtree 66 v).filter (· < 0x40)

/-- The tree of a head in source codes; nothing for a head without a tree. A clone head has its source's tree. -/
def tree (fp : Floorplan) (h : Nat) : List Nat :=
  let c := fp.cap h
  if c.mode = 1 then fp.subtree 66 c.root else []

end Floorplan

/-- The clearing table that requests are checked against: that of the structure in force, which an image replaces at
DONE (R62, R181). -/
def Dev.clearings (d : Dev) : List Clearing := d.fp.clearings

/-- Does head h's tree hold engine or node v (source code), as things stand? -/
def Dev.inTree (d : Dev) (h v : Nat) : Bool := (d.fp.tree h).contains v

end Sys2Proof.Machine
end

