-- ==== Sys2Proof/Machine/Ops.lean ====
section
/-!
DEFINITION. The named operations over frame-store bytes and over the whole state: reading and writing bytes, running
an effect of the unit on a state. Every byte of the 1 GiB frame store exists (R159); an unlisted byte reads 0 (log
entry 3).
-/
namespace Sys2Proof.Machine

/-- What an unlisted frame-store byte reads as. -/
def memBlank (_ : Nat) : Byte := 0

/-- The frame-store byte at an address. -/
def readByte (m : List Host.Cell) (a : Nat) : Byte := cellAt memBlank m a

/-- Write one frame-store byte. -/
def writeByte (m : List Host.Cell) (a : Nat) (b : Byte) : List Host.Cell := setCell memBlank m a b

/-- n bytes from an address. -/
def readBytes (m : List Host.Cell) (a n : Nat) : List Byte := (List.range n).map (fun i => readByte m (a + i))

/-- Write bytes from an address. -/
def writeBytes : List Host.Cell → Nat → List Byte → List Host.Cell
  | m, _, [] => m
  | m, a, b :: t => writeBytes (writeByte m a b) (a + 1) t

/-- Write those bytes of a burst that `en` enables, at the burst's address (R164). -/
def writeEnabled : List Host.Cell → Nat → List Byte → List Bool → List Host.Cell
  | m, a, b :: t, e :: u => writeEnabled (if e then writeByte m a b else m) (a + 1) t u
  | m, _, _, _ => m

/-- Zero every byte of the ranges (base, size) (R77). -/
def zeroRanges (m : List Host.Cell) (rs : List (Nat × Nat)) : List Host.Cell :=
  m.filter (fun c => !rs.any (fun r => decide (r.1 ≤ c.1 ∧ c.1 < r.1 + r.2)))

/-- The canonical form of the frame store: strictly rising addresses, no listed byte that reads as an unlisted one. -/
abbrev Memory.wf (m : List Host.Cell) : Prop := wfCells memBlank m = true

/-- The outcome of a command. -/
abbrev Result := Host.Outcome State Fault Refusal

/-- Run an effect of the unit that touches neither the frame-store bytes nor the queue. -/
def onDev (f : Dev → Dev) (s : State) : Result := .next { s with dev := f s.dev }

/-- Run an effect of the unit that also touches the frame-store bytes. -/
def onStore (f : Dev → List Host.Cell → Dev × List Host.Cell) (s : State) : Result :=
  let r := f s.dev s.mem
  .next { s with dev := r.1, mem := r.2 }

end Sys2Proof.Machine
end

