-- ==== Sys2Proof/Machine/FrameStore.lean ====
section
/-!
DEFINITION. The frame store (chapter 05): the clearing check and tags of the front end, the error-correcting code, the
scrubber, the host windows. What a completion does for the engine that made the request is in `Completion.lean`.
-/
namespace Sys2Proof

/-- Requester codes (R182). -/
def Requester.code : Requester → Nat
  | .le _ => 0 | .gv => 1 | .bx n => 2 + n.val | .as _ => 4 | .rp n => 5 + n.val | .host => 7 | .scrub => 8
  | .zerofill => 9

/-- The LE field that goes with a requester code of 0. -/
def Requester.leIndex : Requester → Nat
  | .le n => n.val | _ => 0

/-- How a write treats one of its words, by its 16 enables (R174): nothing, whole, or partial. -/
inductive WordWrite where
  | none | whole | part
  deriving DecidableEq, Repr

/-- What the error-correcting code finds in one 16-byte word (R171, R172). -/
inductive EccOutcome where
  | clean
  | corrected (symbol : Fin 18)
  | uncorrectable
  deriving DecidableEq, Repr

/-- The treatment of word k of a burst write (R174). -/
def BurstWrite.word (w : BurstWrite) (k : Nat) : WordWrite :=
  let en := (List.range 16).map (fun i => w.enables.getLsbD (16 * k + i))
  if en.all (!·) then .none else if en.all (·) then .whole else .part

end Sys2Proof

namespace Sys2Proof.Machine

/-- Does the request belong to the scan-out class (R165): a layer engine's, or a surface reader's (R278)? -/
def Request.scanout (r : Request) : Bool :=
  match r.who, r.purpose with
  | .le _, _ => true
  | _, .flatRead .. => true
  | _, _ => false

/-- Do two requests come from one requester and class? An AS request carries its bundle's owner, which makes it no
other requester. -/
def Request.sameSource (r q : Request) : Bool :=
  r.who.code == q.who.code && r.who.leIndex == q.who.leIndex && r.scanout == q.scanout

/-- The stack of a frame-store address (R159): half from bit 29, stack within the half from bit 10. -/
def stackOf (a : Nat) : Nat := 2 * bits a 29 29 + bits a 10 10

/-- The stack-local address (R159). -/
def localOf (a : Nat) : Nat := bits a 28 11 * 1024 + a % 1024

/-- The frame-store address of a stack-local address (R159). -/
def globalOf (n l : Nat) : Nat := n / 2 * 0x20000000 + l / 1024 * 2048 + n % 2 * 1024 + l % 1024

/-- The valid clearing that holds a burst (R178). -/
def Dev.clearingAt (d : Dev) (a : Nat) : Option Clearing :=
  d.clearings.find? (fun c => decide (c.base ≤ a ∧ a < c.base + c.size))

/-- The half that an open RELOAD restructures, as HALF codes it: 1 East, 2 West (R76); none while its bytes do not
tell. -/
def Dev.openHalf (d : Dev) : Option Nat := if d.loader.phase = .idle then none else reloadHalf d.loader.image

/-- Is it not known yet which half the open load restructures, if any: its header, or the entry of a RELOAD image that
would tell, is still to come? -/
def Dev.halfUnknown (d : Dev) : Bool :=
  let b := d.loader.image
  d.loader.phase == .receiving && (decide (b.length < 64) ||
    (imgKind b == 2 && (reloadHalf b).isNone && decide (b.length < 64 + 16 * imgSections b)))

/-- Is a half closed to starts and ring requests from the opening of a load (R76)? While it is not known which half
the load restructures, both are (log entry 15). -/
def Dev.closedHalf (d : Dev) (half : Nat) : Bool := d.openHalf == some (half + 1) || d.halfUnknown

/-- Is a start of a head of a half held: its half is closed, or a FULL image is being applied (R75, R76)? -/
def Dev.startHeld (d : Dev) (half : Nat) : Bool :=
  d.closedHalf half || (imgKind d.loader.image == 1 && (d.loader.phase == .applying || d.loader.phase == .zerofill))

/-- Is a clearing of the half that an open RELOAD restructures (R76, R181)? -/
def Dev.underReload (d : Dev) (c : Clearing) : Bool := d.openHalf == some (c.half + 1)

/-- Is a ring request for a clearing answered as for an absent one (R76, R181)? -/
def Dev.ringClosed (d : Dev) (c : Clearing) : Bool := d.closedHalf c.half

/-- Has the sweep found a fault in one of a clearing entry's four words (R149)? -/
def Dev.entryFault (d : Dev) (c : Nat) : Bool :=
  d.faulted.any (fun a => decide (R.CL_Cccc_ATTR c ≤ a ∧ a < R.CL_Cccc_ATTR c + 16))

/-- Does a clearing hold a layer of a subtree that the governor is flattening (R179)? The layers are the enabled
engines under the node of a surface whose GV_FLAT_STATE is not idle, each at the addresses of the planes that its
live format has. -/
def Dev.holdsFlattened (d : Dev) (c : Clearing) : Bool :=
  (List.range 8).any fun k =>
    d.fld (R.GV_FLAT_STATE_STATE k) != 0 &&
    ((d.fp.leaves (0x40 + d.fld (R.GV_FLAT_STATE_NODE k))).filter (fun l => d.flag (R.LE_CTRL_ENABLE l))).any fun l =>
      (List.range (planeBytes (d.fld (R.LE_FORMAT_FMT l 0))).length).any fun p =>
        let a := d.fld (R.LE_SRC_BASE_BASE l 0 p)
        decide (c.base ≤ a ∧ a < c.base + c.size)

/-- The attribute and permission rule of R179 for one requester and clearing. -/
def Dev.permits (d : Dev) (who : Requester) (write : Bool) (c : Clearing) : Bool :=
  let perm := fun k => match d.fp.owner c.owner with | some o => bit o.perms k | none => false
  match who, write with
  | .le _, w => !w
  | .gv, false => c.scratch || d.holdsFlattened c
  | .gv, true => c.scratch
  | .bx _, false => c.copyRead
  | .bx _, true => c.copyWrite
  | .as _, false => false
  | .as o, true => !c.scratch && (!c.isProtected || c.owner == o.val)
  | .rp _, false => c.ringVisible && (!c.isProtected || perm 2)
  | .rp _, true => c.ringVisible && (!c.isProtected || perm 3)
  | .host, false => c.hostRead
  | .host, true => c.hostWrite
  | .scrub, _ => true
  | .zerofill, _ => true

/-- Why the front end refuses a request: REASON and CLEARING of CL_FAULT_INFO (R179, R194); none: allowed. While KY is
in its safe state a scan-out read of a protected clearing is refused (R149), as not permitted (DESIGN CHOICE, log
entry 28). -/
def Dev.refusal (d : Dev) (r : Request) : Option (Nat × Nat) :=
  match r.who with
  | .scrub => none
  | .zerofill => none
  | who =>
    match d.clearingAt r.addr with
    | none => some (0, 0)
    | some c =>
      let ring := match who with | .rp _ => true | _ => false
      if ring && d.ringClosed c then some (4, c.number)
      else if d.entryFault c.number then some (5, c.number)
      else if d.isSafe Block.KY.base && r.scanout && r.write.isNone && c.isProtected then some (1, c.number)
      else match who, r.write.isSome with
        | .le _, true => some (2, c.number)
        | .as _, false => some (2, c.number)
        | _, w => if d.permits who w c then none else some (1, c.number)

/-- Record a refused request in CL (R180, R194). -/
def Dev.logRefusal (d : Dev) (r : Request) (why : Nat × Nat) : Dev :=
  let d := if d.flag R.CL_FAULT_STATUS_ACCESS_FAULT then d else
    d.setFlds [(R.CL_FAULT_INFO_WRITE, b2n r.write.isSome), (R.CL_FAULT_INFO_REASON, why.1),
      (R.CL_FAULT_INFO_REQ, r.who.code), (R.CL_FAULT_INFO_LE, r.who.leIndex),
      (R.CL_FAULT_INFO_CLEARING, why.2), (R.CL_FAULT_ADDR_ADDR, r.addr)]
  d.count R.CL_FAULT_COUNT_COUNT 1 R.CL_FAULT_STATUS_STAT_SAT [R.CL_FAULT_STATUS_ACCESS_FAULT]

/-- What becomes of a request at the front end. -/
inductive Accepted where
  | tagged      -- it holds a tag and goes to its stack
  | waits       -- no tag is free for it (R165)
  | refused     -- refused and logged (R180)
  | stackSafe   -- refused by a stack in its parity safe state (R540)
  deriving DecidableEq, Repr

/-- Is a tag free for a request (R163, R165)? -/
def FsSt.tagFree (fs : FsSt) (r : Request) : Bool :=
  let scan := fs.inflight.filter (·.req.scanout)
  if r.scanout then decide (scan.length < 12288)
  else decide (fs.inflight.length - scan.length < 4096) &&
    decide ((fs.inflight.filter (fun t => t.req.who.code == r.who.code && !t.req.scanout)).length < 1024)

/-- The lowest tag not in use of a class: 0 to 12,287 for scan-out, the others for bulk (log entry 16). -/
def FsSt.lowestTag (fs : FsSt) (r : Request) : Nat :=
  let base := if r.scanout then 0 else 12288
  base + ((List.range (fs.inflight.length + 1)).find? (fun k => !fs.inflight.any (·.tag == base + k))).getD 0

/-- HIGH_WATER after tags have been taken (R193). -/
def Dev.tagStatus (d : Dev) : Dev :=
  d.setFld R.CL_TAG_STATUS_HIGH_WATER (max d.fs.inflight.length (d.fld R.CL_TAG_STATUS_HIGH_WATER))

/-- A window write that reaches offset 0x1FFF advances PAGE once its last part is accepted (R184). -/
def Dev.pageAdvance (d : Dev) (p : Purpose) : Dev :=
  match p with
  | .hostWrite w true _ => if d.flag (R.CL_WINn_CTRL_AUTO w) then d.wrapAdd (R.CL_WINn_CTRL_PAGE w) 1 else d
  | _ => d

/-- Note a write for the governor's WATCH trigger while a surface is not idle (R280). -/
def Dev.watchWrite (d : Dev) (r : Request) : Dev :=
  if r.write.isSome && d.gv.surfaces.toList.any (·.phase != .idle) && !d.fs.written.contains r.addr
  then { d with fs := { d.fs with written := d.fs.written ++ [r.addr] } } else d

/-- Accept one request: wait for a tag, or check it and route it to its stack (R165, R178, R180, R540). -/
def Dev.fsAccept (d : Dev) (r : Request) : Dev × Accepted :=
  if !d.fs.tagFree r || d.fs.waiting.any r.sameSource then
    ({ d with fs := { d.fs with waiting := d.fs.waiting ++ [r] } }, .waits)
  else match d.refusal r with
    | some why => (d.logRefusal r why, .refused)
    | none =>
      if d.isSafe (Block.FS.base + stackOf r.addr) then (d, .stackSafe)
      else
        let t : Inflight := ⟨d.fs.lowestTag r, r, none⟩
        (({ d with fs := { d.fs with inflight := d.fs.inflight ++ [t] } }).watchWrite r |>.tagStatus.pageAdvance r.purpose,
          .tagged)

/-- Take the oldest waiting request that can have a tag now; answers it with what became of it. -/
def Dev.fsNextWaiting (d : Dev) : Option (Dev × Request × Accepted) :=
  match d.fs.waiting.find? d.fs.tagFree with
  | none => none
  | some q =>
    let fs := { d.fs with waiting := d.fs.waiting.erase q }
    let others := fs.waiting.filter q.sameSource
    let r := ({ d with fs := { fs with waiting := fs.waiting.filter (!q.sameSource ·) } }).fsAccept q
    some ({ r.1 with fs := { r.1.fs with waiting := r.1.fs.waiting ++ others } }, q, r.2)

/-- Free a tag (R165). -/
def Dev.freeTag (d : Dev) (tag : Nat) : Dev :=
  { d with fs := { d.fs with inflight := d.fs.inflight.filter (·.tag != tag) } }

/-! The error-correcting code (R171 to R177). -/

/-- The wrong bits of a stored word. -/
def FsSt.errorAt (fs : FsSt) (a : Nat) : BitVec 144 := ((fs.errors.find? (·.1 == a)).map (·.2)).getD 0

/-- Errors strike stored words: the struck bits change. -/
def FsSt.strike (fs : FsSt) (l : List WordError) : FsSt :=
  { fs with errors := l.foldl (fun es e =>
      let a := 16 * e.word.toNat
      let old := ((es.find? (·.1 == a)).map (·.2)).getD 0
      let new := old ^^^ e.bits
      let rest := es.filter (·.1 != a)
      if new = 0 then rest else rest ++ [(a, new)]) fs.errors }

/-- The symbols of a word that hold a wrong bit (R171): 0 to 15 its data bytes, 16 and 17 its check bytes. -/
def wrongSymbols (e : BitVec 144) : List (Fin 18) :=
  (List.finRange 18).filter (fun k => bits e.toNat (8 * k.val + 7) (8 * k.val) != 0)

/-- A read of one stored word: what the code delivers, and what it finds (R171, R172). An error within one symbol is
corrected, one within two is detected; what becomes of a wider one is open (log entry 75). An uncorrectable word comes
as it is stored. -/
def readStored (m : List Host.Cell) (a : Nat) (e : BitVec 144) : List Byte × EccOutcome :=
  let right := leNat (readBytes m a 16)
  let stored := right ^^^ e.toNat % 2 ^ 128
  match wrongSymbols e with
  | [] => (toLe 16 right, .clean)
  | [k] => (toLe 16 right, .corrected k)
  | [_, _] => (toLe 16 stored, .uncorrectable)
  | _ => match Config.eccBeyond e with
    | none => (toLe 16 stored, .uncorrectable)
    | some none => (toLe 16 stored, .clean)
    | some (some (k, v)) => (toLe 16 (stored ^^^ (if k.val < 16 then v.toNat <<< (8 * k.val) else 0)), .corrected k)

/-- A word as a stack reads it: its address, the bytes that the code delivers, and what it finds. -/
structure WordRead where
  addr : Nat
  bytes : List Byte
  found : EccOutcome

/-- The read of the word at an address. -/
def Dev.readWord16 (d : Dev) (m : List Host.Cell) (a : Nat) : WordRead :=
  let r := readStored m a (d.fs.errorAt a)
  ⟨a, r.1, r.2⟩

/-- The read of a burst's four words, which are checked independently (R171). -/
def Dev.readBurst (d : Dev) (m : List Host.Cell) (a : Nat) : List WordRead :=
  [a, a + 16, a + 32, a + 48].map (d.readWord16 m)

/-- Record the words found in error (R172, R175): captures, counts and event bits of stack n in one clk. `extra` are
further event bits, `wide` further 64-bit counts. Of several words of one burst the one at the lowest address is
captured (DESIGN CHOICE, log entry 89). -/
def Dev.eccRecord (d : Dev) (n : Nat) (who : Requester) (ws : List WordRead) (extra : List Fld)
    (wide : List (Nat × Nat × Nat)) : Dev :=
  let ces := ws.filterMap (fun w => match w.found with | .corrected k => some (w.addr, k.val) | _ => none)
  let ues := (ws.filter (·.found == .uncorrectable)).map (·.addr)
  let d := match ces with
    | c :: _ => if d.flag (R.FS_ERR_STATUS_CE n) then d else
        d.setFlds [(R.FS_CE_ADDR_ADDR n, c.1), (R.FS_ERR_INFO_CE_SYMBOL n, c.2)]
    | [] => d
  let d := match ues with
    | u :: _ => if d.flag (R.FS_ERR_STATUS_UE n) then d else
        d.setFlds [(R.FS_UE_ADDR_ADDR n, u), (R.FS_ERR_INFO_UE_REQ n, who.code), (R.FS_ERR_INFO_UE_LE n, who.leIndex)]
    | [] => d
  d.tally [(R.FS_CE_COUNT_COUNT n, ces.length), (R.FS_UE_COUNT_COUNT n, ues.length)] wide (R.FS_ERR_STATUS_STAT_SAT n)
    ((if ces.isEmpty then [] else [R.FS_ERR_STATUS_CE n]) ++ (if ues.isEmpty then [] else [R.FS_ERR_STATUS_UE n]) ++ extra)

/-- Queue conditional write-backs of the corrected words (R172, R176). -/
def Dev.queueWriteBacks (d : Dev) (ws : List WordRead) : Dev :=
  let corr := ws.filterMap (fun w => match w.found with | .corrected _ => some (⟨w.addr, w.bytes⟩ : WriteBack) | _ => none)
  { d with fs := { d.fs with
    writeBacks := d.fs.writeBacks ++ corr.filter (fun w => !d.fs.writeBacks.any (·.word == w.word)) } }

/-- Words are stored anew, with new check bits, and write-backs queued for them are dropped (R174, R176). -/
def FsSt.renewed (fs : FsSt) (as : List Nat) : FsSt :=
  { fs with
    errors := fs.errors.filter (fun e => !as.contains e.1)
    writeBacks := fs.writeBacks.filter (fun b => !as.contains b.word) }

/-! Grants (R166, R169). -/

/-- A read is granted: the burst as it stands, its errors recorded, the read counted (R166, R172, R186). -/
def Dev.grantRead (d : Dev) (m : List Host.Cell) (r : Request) : Dev × Answer :=
  let n := stackOf r.addr
  let ws := d.readBurst m r.addr
  let le := match r.who with | .le _ => true | _ => false
  let d := d.eccRecord n r.who ws []
    ([(R.FS_RD_BURSTS n 0, R.FS_RD_BURSTS n 1, 1)] ++
      (if le then [(R.FS_SCANOUT_BURSTS n 0, R.FS_SCANOUT_BURSTS n 1, 1)] else []))
  let d := if d.flag (R.FS_SCRUB_CTRL_WB_DEMAND n) then d.queueWriteBacks ws else d
  (d, ⟨ws.any (·.found == .uncorrectable), ws.flatMap (·.bytes)⟩)

/-- A write is granted (R174): whole words stored, partial words merged into what a read delivers, partial writes to
uncorrectable words dropped. The errors that a merge finds are recorded. -/
def Dev.grantWrite (d : Dev) (m : List Host.Cell) (r : Request) (w : BurstWrite) : Dev × List Host.Cell :=
  let n := stackOf r.addr
  let ws := (d.readBurst m r.addr).zipIdx
  let merged := (ws.filter (fun p => w.word p.2 == .part)).map (·.1)
  let dropped := fun k => w.word k == .part && ws.any (fun p => p.2 == k && p.1.found == .uncorrectable)
  let partial' := (List.range 4).any dropped
  let d := d.eccRecord n r.who merged (if partial' then [R.FS_ERR_STATUS_UE_PARTIAL n] else [])
    [(R.FS_WR_BURSTS n 0, R.FS_WR_BURSTS n 1, 1)]
  let stored := (List.range 4).filter (fun k => w.word k != .none && !dropped k)
  let old := ws.flatMap (·.1.bytes)
  let new := (List.range 64).map (fun i => if w.enables.getLsbD i then w.bytes.getD i 0 else old.getD i 0)
  ({ d with fs := d.fs.renewed (stored.map (fun k => r.addr + 16 * k)) },
    writeEnabled m r.addr new ((List.range 64).map (fun i => stored.contains (i / 16))))

/-- Frequency of a stack's island. -/
def Dev.fscHz (d : Dev) (s : Nat) : Nat := d.fp.hz (0x10 + s)

/-- The place of a bulk requester in the round of R169: CH zero-fill, scan-out above its reservation, GV, BX0, BX1,
AS, RP0, RP1, host. -/
def Request.turn (r : Request) : Nat :=
  if r.scanout then 1 else if r.who.code = 9 then 0 else 1 + r.who.code

/-- The weights of that round (R169). A fault in CL_ARB_WEIGHT makes every settable weight act as 1 (chapter 05). -/
def Dev.weights (d : Dev) : List Nat :=
  [15, 8] ++ (List.range 7).map (fun k =>
    if d.faulted.contains R.CL_ARB_WEIGHT then 1 else bits (d.get R.CL_ARB_WEIGHT).toNat (4 * k + 3) (4 * k))

/-- Whose turn a bulk grant is: the requester in turn until it has had as many grants as its weight or has nothing
pending, then the next one (R169). Answers the turn with the grants had in it, this one among them. -/
def nextTurn (weights : List Nat) (pending : Nat → Bool) : Nat → Nat → Nat → Option (Nat × Nat)
  | 0, _, _ => none
  | fuel + 1, turn, given =>
    if pending turn && decide (given < weights.getD turn 1) then some (turn, given + 1)
    else nextTurn weights pending fuel ((turn + 1) % 9) 0

/-- Change the arbiter of stack n. -/
def Dev.updArb (d : Dev) (n : Nat) (f : ArbSt → ArbSt) : Dev := { d with fs := { d.fs with arbs := upd d.fs.arbs n f } }

/-- The 256-clk window of stack n at this moment, counted from the start of the raw counter (R169; log entry 90). -/
def Dev.arbWindow (d : Dev) (n : Nat) : Nat := d.raw * d.fscHz n / 800000000 / 256

/-- The request of stack n that its arbiter grants next, with the arbiter's state after it (R169): maintenance at its
deadline, scan-out while the reservation of the window is not used up, bulk by weighted round robin. -/
def Dev.arbitrate (d : Dev) (n : Nat) : Option (Inflight × ArbSt) :=
  let s := at' d.fs.arbs n ⟨0, 0, 0, 0, false⟩
  let s := if s.window = d.arbWindow n then s else { s with window := d.arbWindow n, used := 0 }
  let s := { s with refresh := false }
  let pending := d.fs.inflight.filter (fun t => t.got.isNone && stackOf t.req.addr == n)
  let scan := if s.used < 4 * d.fld (R.GV_RES_FSs_BPC n) then pending.find? (·.req.scanout) else none
  match pending.find? (fun t => t.req.who.code == 8), scan with
  | some t, _ => some (t, s)
  | none, some t => some (t, { s with used := s.used + 64 })
  | none, none =>
    match nextTurn d.weights (fun k => pending.any (·.req.turn == k)) 10 s.turn s.given with
    | some (k, g) => (pending.find? (·.req.turn == k)).map (fun t => (t, { s with turn := k, given := g }))
    | none => none

/-- The arbiter of stack n grants one request; answers it, if there is one. -/
def Dev.grantNext (d : Dev) (m : List Host.Cell) (n : Nat) : Dev × List Host.Cell × Option Inflight :=
  match d.arbitrate n with
  | none => (d, m, none)
  | some (t, s) =>
    let d := d.updArb n (fun _ => s)
    let r := match t.req.write with
      | some w => let r := d.grantWrite m t.req w; (r.1, r.2, (⟨false, []⟩ : Answer))
      | none => let r := d.grantRead m t.req; (r.1, m, r.2)
    let mark := fun (q : Inflight) => if q.tag = t.tag then { q with got := some r.2.2 } else q
    ({ r.1 with fs := { r.1.fs with inflight := r.1.fs.inflight.map mark } }, r.2.1, some t)

/-- The requests that are granted up to a tag, in the order of the grants (R169): grants are made when the first
completion needs them (log entry 90). -/
def Dev.grantUpTo (tag n : Nat) : Nat → Dev → List Host.Cell → Dev × List Host.Cell × List Request
  | 0, d, m => (d, m, [])
  | fuel + 1, d, m =>
    match d.grantNext m n with
    | (d, m, none) => (d, m, [])
    | (d, m, some t) =>
      if t.tag = tag then (d, m, [t.req])
      else let r := Dev.grantUpTo tag n fuel d m; (r.1, r.2.1, t.req :: r.2.2)

/-- The requests that are granted up to the completing one, if it holds a tag and has not been granted yet; errors
that have struck stored words by then come first. -/
def Dev.grantFor (d : Dev) (m : List Host.Cell) (tag : Nat) (errs : List WordError) :
    Dev × List Host.Cell × List Request :=
  let d := { d with fs := d.fs.strike errs }
  match d.fs.inflight.find? (fun t => t.tag == tag && t.got.isNone) with
  | none => (d, m, [])
  | some t => Dev.grantUpTo tag (stackOf t.req.addr) (d.fs.inflight.length + 1) d m

/-- REFRESH_DEADLINE: a refresh of stack n has reached its deadline and comes before every request (R169). -/
def Dev.refreshDue (d : Dev) (n : Nat) : Dev := d.updArb n (fun s => { s with refresh := true })

/-- The largest scan-out latency of stack n, in clk FSCn (R168, R191). -/
def Dev.latMax (d : Dev) (n latency : Nat) : Dev :=
  if (d.getRx (Block.FS.base + n) 0).toNat < min latency 0xFFFF
  then d.setRx (Block.FS.base + n) 0 (BitVec.ofNat 32 (min latency 0xFFFF)) else d

/-- A completion: its tag is freed (R165). Answers the request and what its stack answered; nothing where no granted
request of the kind holds the tag. -/
def Dev.complete (d : Dev) (tag : Nat) (write : Bool) : Option (Dev × Request × Answer) :=
  match d.fs.inflight.find? (fun t => t.tag == tag && t.req.write.isSome == write) with
  | some t => t.got.map (fun a => (d.freeTag tag, t.req, a))
  | none => none

/-- ECC_WRITEBACK: the oldest queued write-back of a stack is granted (R176). A write-back whose word was written
meanwhile is no longer queued, so it is dropped. -/
def Dev.writeBack (d : Dev) (m : List Host.Cell) (n : Nat) : Dev × List Host.Cell :=
  match d.fs.writeBacks.find? (fun w => stackOf w.word == n) with
  | none => (d, m)
  | some w =>
    (({ d with fs := d.fs.renewed [w.word] }).tally []
      [(R.FS_WR_BURSTS n 0, R.FS_WR_BURSTS n 1, 1)] (R.FS_ERR_STATUS_STAT_SAT n) [], writeBytes m w.word w.bytes)

/-- SCRUB_STEP: the scrubber of stack n reads its next word (R175); `wrong`: the error that has struck it by then.
Each step of one word counts as one read of FSn_RD_BURSTS (R186; DESIGN CHOICE, log entry 40). -/
def Dev.scrub (d : Dev) (m : List Host.Cell) (n : Nat) (wrong : BitVec 144) : Dev :=
  if d.fld (R.FS_SCRUB_CTRL_PERIOD_H n) = 0 then d
  else
    let pos := d.fld (R.FS_SCRUB_POS_POS n)
    let a := globalOf n (pos / 16 * 16)
    let d := { d with fs := d.fs.strike [⟨BitVec.ofNat 26 (a / 16), wrong⟩] }
    let w := d.readWord16 m a
    let d := d.eccRecord n .scrub [w] (if w.found = .uncorrectable then [R.FS_ERR_STATUS_SCRUB_UE n] else [])
      [(R.FS_RD_BURSTS n 0, R.FS_RD_BURSTS n 1, 1)]
    let d := d.queueWriteBacks [w]
    let d := d.setFld (R.FS_SCRUB_POS_POS n) (pos + 16)
    if pos + 16 ≥ 2 ^ 28 then d.count (R.FS_SCRUB_PASSES_COUNT n) 1 (R.FS_ERR_STATUS_STAT_SAT n) else d

/-! Host windows (R183 to R185). -/

/-- The parts of a window access from a CL offset: (window, window offset, bytes), cut at 64-byte boundaries. -/
def windowParts : Nat → Nat → Nat → List (Nat × Nat × Nat)
  | 0, _, _ => []
  | fuel + 1, off, len =>
    if len = 0 ∨ off ≥ 0x10000 then []
    else
      let k := min len (64 - off % 64)
      ((off - 0x8000) / 0x2000, (off - 0x8000) % 0x2000, k) :: windowParts fuel (off + k) (len - k)

/-- The frame-store address that a window offset maps to, or the reason for which the part is refused (R183, R194). -/
def Dev.windowMap (d : Dev) (w x : Nat) : Nat × Option (Nat × Nat) :=
  let c := d.fld (R.CL_WINn_CTRL_CLEARING w)
  let off := d.fld (R.CL_WINn_CTRL_PAGE w) * 0x2000 + x
  match d.clearings.find? (·.number == c) with
  | none => (off, some (if d.faulted.contains (R.CL_WINn_CTRL w) then (5, c) else (0, c)))
  | some r =>
    (r.base + off, if d.faulted.contains (R.CL_WINn_CTRL w) then some (5, c)
      else if off ≥ r.size then some (3, c) else none)

/-- The numbers of the window writes that have not completed (R185). -/
def FsSt.hostWrites (fs : FsSt) : List Nat :=
  (fs.inflight.map (·.req) ++ fs.waiting).filterMap
    (fun r => match r.purpose with | .hostWrite _ _ n => some n | _ => none) ++
  fs.hostQueue.filterMap (fun i => match i with | .write _ _ _ _ n _ => some n | _ => none)

/-- HOST_WINDOW_WRITE: a write from a CL offset of the bytes that `en` enables: one part for each 64-byte piece that
holds an enabled byte, behind the parts before it (R183, R184). -/
def Dev.hostWindowWrite (d : Dev) (off : Nat) (bytes : List Byte) (en : List Bool) : Dev :=
  let past := ((List.range en.length).filter (fun i => en.getD i false)).foldl (fun _ i => i + 1) 0
  let ends := decide ((off - 0x8000 + past) % 0x2000 = 0)
  let step := fun (p : Dev × Nat) (q : Nat × Nat × Nat) =>
    let e := (en.drop p.2).take q.2.2
    let k := p.2 + q.2.2
    if e.any id then
      let n := p.1.fs.nextHost
      let item : HostItem := .write q.1 q.2.1 (slice bytes p.2 q.2.2) e n (ends && p.2 < past && past ≤ k)
      ({ p.1 with fs := { p.1.fs with hostQueue := p.1.fs.hostQueue ++ [item], nextHost := n + 1 } }, k)
    else (p.1, k)
  ((windowParts (bytes.length + 1) off bytes.length).foldl step (d, 0)).1

/-- Send the completions of the window reads whose parts and earlier window writes have completed (R183, R185). -/
def Dev.finishHostReads (d : Dev) : Dev :=
  let busy := d.fs.hostWrites
  let ready := d.fs.hostReads.filter (fun h => h.due == 0 && h.writes.all (fun t => !busy.contains t))
  let keep := d.fs.hostReads.filter (fun h => !(h.due == 0 && h.writes.all (fun t => !busy.contains t)))
  let send := fun (d : Dev) (h : HostRead) =>
    if h.aborted then d.emit (.windowAbort h.clOffset)
    else d.emit (.windowData h.clOffset
      ((List.range h.parts.length).flatMap (fun i => (h.parts.filter (·.1 == i)).flatMap (·.2))) h.poisoned)
  ready.foldl send { d with fs := { d.fs with hostReads := keep } }

/-- Change the window read with an identity. -/
def Dev.updHostRead (d : Dev) (id : Nat) (f : HostRead → HostRead) : Dev :=
  { d with fs := { d.fs with hostReads := d.fs.hostReads.map (fun h => if h.id == id then f h else h) } }

/-- A part of a window read was refused (R183). -/
def Dev.hostPartRefused (d : Dev) (id : Nat) : Dev :=
  (d.updHostRead id (fun h => { h with due := h.due - 1, aborted := true })).finishHostReads

/-- HOST_WINDOW_READ: a read of len bytes from a CL offset, whose parts stand behind the parts before them (R183). -/
def Dev.hostWindowRead (d : Dev) (off len : Nat) : Dev :=
  let parts := (windowParts (len + 1) off len).zipIdx
  let id := d.fs.nextHost
  let h : HostRead := ⟨id, off, len, [], parts.length, false, false, d.fs.hostWrites⟩
  { d with fs := { d.fs with
    hostReads := d.fs.hostReads ++ [h], nextHost := id + 1
    hostQueue := d.fs.hostQueue ++ parts.map (fun p => .read p.1.1 p.1.2.1 id p.2) } }

/-- Can the first entry of the queue go on: a part needs a tag (R165)? -/
def FsSt.hostReady (fs : FsSt) : Bool :=
  match fs.hostQueue with
  | [] => false
  | .reg .. :: _ => true
  | _ => fs.tagFree ⟨.host, 0, none, .plain⟩ && !fs.waiting.any (fun r => r.who.code == 7)

/-- A window part is mapped and accepted (R183, R184). -/
def Dev.hostPart (d : Dev) (i : HostItem) : Dev :=
  match i with
  | .write win x bytes en serial last =>
    let a := d.windowMap win x
    let lane := a.1 % 64
    let full := fun (v : List Byte) => List.replicate lane 0 ++ v ++ List.replicate (64 - lane - v.length) 0
    let mask := BitVec.ofNat 64 ((en.zipIdx.foldl (fun s p => s + b2n p.1 * 2 ^ p.2) 0) <<< lane)
    let r : Request := ⟨.host, a.1 / 64 * 64 % 2 ^ 30, some ⟨full bytes, mask⟩, .hostWrite win last serial⟩
    (match a.2 with
     | some why => d.logRefusal r why
     | none => (d.fsAccept r).1)
  | .read win x id part =>
    let a := d.windowMap win x
    let r : Request := ⟨.host, a.1 / 64 * 64 % 2 ^ 30, none, .hostRead id part⟩
    (match a.2 with
     | some why => (d.logRefusal r why).hostPartRefused id
     | none =>
       let q := d.fsAccept r
       if q.2 = .refused ∨ q.2 = .stackSafe then q.1.hostPartRefused id else q.1)
  | .reg .. => d

/-- A part of a window read is delivered; a poisoned burst reads 0xFF (R173). -/
def Dev.hostPartDone (d : Dev) (id part : Nat) (poisoned : Bool) (burst : List Byte) : Dev :=
  let got := fun (h : HostRead) =>
    match (windowParts (h.len + 1) h.clOffset h.len)[part]? with
    | some p => if poisoned then List.replicate p.2.2 0xFF else slice burst (p.2.1 % 64) p.2.2
    | none => []
  (d.updHostRead id (fun h => { h with
    parts := h.parts ++ [(part, got h)], due := h.due - 1, poisoned := h.poisoned || poisoned })).finishHostReads

/-- TAG_HW_RESET (R193). -/
def Dev.tagHwReset (d : Dev) : Dev := d.setFld R.CL_TAG_STATUS_HIGH_WATER d.fs.inflight.length

/-- LAT_RESET of stack n (R190, R191). -/
def Dev.latReset (d : Dev) (n : Nat) : Dev := d.setRx (Block.FS.base + n) 0 0

/-- HOT: the temperature of stack n, and whether it is above 85 °C (R187, R191). -/
def Dev.stackTemp (d : Dev) (n : Nat) (c : Int) : Dev :=
  (d.setFld (R.FS_STATE_HOT n) (b2n (decide (85 < c)))).setRx (Block.FS.base + n) 4 (BitVec.ofNat 32 (unsigned 8 c))

end Sys2Proof.Machine
end

