-- ==== Sys2Proof/Machine/Layer.lean ====
section
/-!
DEFINITION. The layer engines (chapter 06): surface geometry and formats, the layer check, the fetch schedule, and an
output pixel from decode to FP16.
-/
namespace Sys2Proof.Machine

/-- The configuration in bank b (0 live, 1 staged) of engine n. -/
def Dev.leCfg (d : Dev) (n b : Nat) : LeCfg :=
  let c := fun (live stg : Fld) => d.fld (if b = 0 then live else stg)
  let s15 := fun (f : Fld) => signed 15 (d.fld f)
  { enable := c (R.LE_CTRL_ENABLE n) (R.LE_CTRL_STG_ENABLE n) != 0
    fmt := d.fld (R.LE_FORMAT_FMT n b)
    base := (List.range 3).map (fun p => d.fld (R.LE_SRC_BASE_BASE n b p))
    pitch := (List.range 2).map (fun p => d.fld (R.LE_PITCH_PITCH n b p))
    srcW := d.fld (R.LE_SRC_SIZE_SRC_W n b), srcH := d.fld (R.LE_SRC_SIZE_SRC_H n b)
    cropX := d.fld (R.LE_CROP_POS_CROP_X n b), cropY := d.fld (R.LE_CROP_POS_CROP_Y n b)
    cropW := d.fld (R.LE_CROP_SIZE_CROP_W n b), cropH := d.fld (R.LE_CROP_SIZE_CROP_H n b)
    dstX := signed 16 (d.fld (R.LE_DST_POS_DST_X n b)), dstY := signed 16 (d.fld (R.LE_DST_POS_DST_Y n b))
    dstW := d.fld (R.LE_DST_SIZE_DST_W n b), dstH := d.fld (R.LE_DST_SIZE_DST_H n b)
    decH := d.fld (R.LE_SCALE_MODE_DEC_H n b), decV := d.fld (R.LE_SCALE_MODE_DEC_V n b)
    hMode := d.fld (R.LE_SCALE_MODE_H_MODE n b), vMode := d.fld (R.LE_SCALE_MODE_V_MODE n b)
    stepH := d.fld (R.LE_STEP_STEP n b 0), stepV := d.fld (R.LE_STEP_STEP n b 1)
    initH := signed 24 (d.fld (R.LE_INIT_INIT n b 0)), initV := signed 24 (d.fld (R.LE_INIT_INIT n b 1))
    pa := d.fld (R.LE_PLANE_ALPHA_PA n b)
    const := [d.fld (R.LE_CONST_COLOR_R n b), d.fld (R.LE_CONST_COLOR_G n b), d.fld (R.LE_CONST_COLOR_B n b)]
    mat := [s15 (R.LE_MAT0_M00 n b), s15 (R.LE_MAT0_M01 n b), s15 (R.LE_MAT1_M02 n b), s15 (R.LE_MAT1_OFF0 n b),
      s15 (R.LE_MAT2_M10 n b), s15 (R.LE_MAT2_M11 n b), s15 (R.LE_MAT3_M12 n b), s15 (R.LE_MAT3_OFF1 n b),
      s15 (R.LE_MAT4_M20 n b), s15 (R.LE_MAT4_M21 n b), s15 (R.LE_MAT5_M22 n b), s15 (R.LE_MAT5_OFF2 n b)]
    transfer := c (R.LE_CTRL_TRANSFER n) (R.LE_CTRL_STG_TRANSFER n)
    matrixEn := c (R.LE_CTRL_MATRIX_EN n) (R.LE_CTRL_STG_MATRIX_EN n) != 0
    alphaMode := c (R.LE_CTRL_ALPHA_MODE n) (R.LE_CTRL_STG_ALPHA_MODE n)
    edge := c (R.LE_CTRL_EDGE_MODE n) (R.LE_CTRL_STG_EDGE_MODE n)
    coefBank := c (R.LE_CTRL_COEF_BANK n) (R.LE_CTRL_STG_COEF_BANK n)
    csiteH := c (R.LE_CTRL_CSITE_H n) (R.LE_CTRL_STG_CSITE_H n)
    csiteV := c (R.LE_CTRL_CSITE_V n) (R.LE_CTRL_STG_CSITE_V n)
    chromaFilt := c (R.LE_CTRL_CHROMA_FILT n) (R.LE_CTRL_STG_CHROMA_FILT n) != 0 }

/-! Formats (R203, R204). -/

/-- Is it a packed pixel-pair format? -/
def packedPair (fmt : Nat) : Bool := fmt == 0x18 || fmt == 0x19

/-- Chroma factors, horizontal and vertical (R204): 2 where subsampled. -/
def chromaFactor (fmt : Nat) : Nat × Nat :=
  if packedPair fmt then (2, 1)
  else if fmt = 0x52 ∨ fmt = 0x54 then (2, 1)
  else if fmt = 0x50 ∨ fmt = 0x51 ∨ fmt = 0x53 ∨ fmt = 0x55 ∨ fmt = 0x56 then (2, 2)
  else (1, 1)

/-- The sampling factors of plane p: chroma planes are subsampled, and a pair format holds one sample for two pixels. -/
def planeFactor (fmt p : Nat) : Nat × Nat :=
  if packedPair fmt then (2, 1) else if p = 0 then (1, 1) else chromaFactor fmt

/-- Alignment of plane p's base (R203, R204). -/
def baseAlign (fmt p : Nat) : Nat := if 0x20 ≤ fmt ∧ fmt ≤ 0x22 then 1 else (planeBytes fmt).getD p 1

/-- DEC code to factor: 3 acts as 1 in a live state (R206, R221). -/
def decFactor (c : Nat) : Nat := if c = 1 then 2 else if c = 2 then 4 else 1

namespace LeCfg

def planes (c : LeCfg) : List Nat := List.range (planeBytes c.fmt).length
def bytesOf (c : LeCfg) (p : Nat) : Nat := (planeBytes c.fmt).getD p 0
def baseOf (c : LeCfg) (p : Nat) : Nat := c.base.getD p 0
def pitchOf (c : LeCfg) (p : Nat) : Nat := c.pitch.getD (if p = 0 then 0 else 1) 0
def dH (c : LeCfg) : Nat := decFactor c.decH
def dV (c : LeCfg) : Nat := decFactor c.decV
/-- Width and height of plane p in its own samples (R199). Half of an odd SRC_W or SRC_H is rounded up (DESIGN CHOICE,
log entry 93). -/
def planeW (c : LeCfg) (p : Nat) : Nat := ceilDiv c.srcW (planeFactor c.fmt p).1
def planeH (c : LeCfg) (p : Nat) : Nat := ceilDiv c.srcH (planeFactor c.fmt p).2
/-- The crop in plane p's own samples: x, y, width, height. A live crop that starts or ends inside a chroma sample
takes it whole (R221). -/
def planeCrop (c : LeCfg) (p : Nat) : Nat × Nat × Nat × Nat :=
  let f := planeFactor c.fmt p
  (c.cropX / f.1, c.cropY / f.2, ceilDiv (c.cropX + c.cropW) f.1 - c.cropX / f.1,
    ceilDiv (c.cropY + c.cropH) f.2 - c.cropY / f.2)
/-- Rows of a vertical mode's filter (R208). -/
def vTaps (c : LeCfg) : Nat := match c.vMode with | 0 => 1 | 1 => 2 | 2 => 4 | _ => 6
/-- Edge mode as a live state acts: 3 is REPLICATE (R221). -/
def edgeAs (c : LeCfg) : Nat := if c.edge = 3 then 0 else c.edge

/-- SOURCE margins of plane p in its own samples: left, right, above, below (R211). -/
def margin (c : LeCfg) (p : Nat) : Nat × Nat × Nat × Nat :=
  let r := c.planeCrop p
  let luma := (p == 0 && !packedPair c.fmt) || chromaFactor c.fmt == (1, 1)
  let m := if luma then (3, 4, 2, 3)
    else if (chromaFactor c.fmt).2 = 2 then (2, 2, 2, 2) else (2, 2, 2, 3)
  let h := if c.edgeAs = 1 ∧ c.dH = 1 then
      (min m.1 r.1, min m.2.1 (c.planeW p - (r.1 + r.2.2.1))) else (0, 0)
  let v := if c.edgeAs = 1 ∧ c.dV = 1 then
      (min m.2.2.1 r.2.1, min m.2.2.2 (c.planeH p - (r.2.1 + r.2.2.2))) else (0, 0)
  (h.1, h.2, v.1, v.2)

/-- Bytes of one cached row of plane p (R216). -/
def rowSlot (c : LeCfg) (p : Nat) : Nat :=
  let m := c.margin p
  let r := c.planeCrop p
  let b := c.bytesOf p
  let n := ceilDiv (r.2.2.1 + m.1 + m.2.1) c.dH
  let first := (r.1 - m.1) * b
  let e := if c.dH > 1 then 0
    else if c.baseOf p % 64 = 0 ∧ c.pitchOf p % 64 = 0 ∧ first % 64 = 0 then 0 else 1
  64 * (ceilDiv (n * b) 64 + e)

/-- The line-cache need in bytes (R216). -/
def need (c : LeCfg) : Nat := (c.vTaps + 2) * (c.planes.map c.rowSlot).foldl (· + ·) 0

/-- Does the layer check find a plane outside every valid clearing (R200)? -/
def planeOutside (c : LeCfg) (tab : List Clearing) (p : Nat) : Bool :=
  let first := c.baseOf p
  let last := first + c.pitchOf p * (c.planeH p - 1) + c.planeW p * c.bytesOf p - 1
  !tab.any (fun k => decide (k.base ≤ first ∧ last < k.base + k.size))

/-- The layer check of R219 on a configuration: CFG_ERR (0 passed). -/
def check (c : LeCfg) (cacheKib : Nat) (tab : List Clearing) : Nat :=
  let f := chromaFactor c.fmt
  if (planeBytes c.fmt).isEmpty || c.alphaMode == 3 || decide (5 ≤ c.transfer) || c.edge == 3 || c.decH == 3 ||
      c.decV == 3 then 1
  else if c.planes.any (fun p => c.baseOf p % baseAlign c.fmt p != 0) then 2
  else if c.planes.any (fun p => c.pitchOf p % 16 != 0 || decide (c.pitchOf p < c.planeW p * c.bytesOf p)) then 3
  else if c.srcW == 0 || c.srcH == 0 || decide (16384 < c.srcW) || decide (16384 < c.srcH) then 4
  else if c.cropW == 0 || c.cropH == 0 || decide (c.srcW < c.cropX + c.cropW) || decide (c.srcH < c.cropY + c.cropH) ||
      c.cropX % f.1 != 0 || c.cropW % f.1 != 0 || c.cropY % f.2 != 0 || c.cropH % f.2 != 0 ||
      c.cropW % (f.1 * c.dH) != 0 || c.cropH % (f.2 * c.dV) != 0 then 5
  else if c.dstW == 0 || decide (7680 < c.dstW) || c.dstH == 0 || decide (4320 < c.dstH) then 6
  else if decide (c.stepH < 0x10000) || decide (0x200000 < c.stepH) || decide (c.stepV < 0x10000) ||
      decide (0x200000 < c.stepV) then 7
  else if decide (cacheKib * 1024 < c.need) then 8
  else if c.planes.any (c.planeOutside tab) then 9
  else 0

/-! Where the filters sample (R207, R208, R211). Positions are in units of 2⁻²⁰ decimated samples. -/

/-- Source size on an axis in decimated luma samples. -/
def wd (c : LeCfg) : Nat := c.cropW / c.dH
def hd (c : LeCfg) : Nat := c.cropH / c.dV

/-- The taps of a filter mode at a position: sample index and table slot (none: the one NEAREST sample). -/
def taps (mode centre slots : Nat) (pos : Int) : List (Int × Option Nat) :=
  let i0 := pos / 1048576
  if mode = 0 then [((pos + 524288) / 1048576, none)]
  else
    let n := if mode = 1 then 2 else if mode = 2 then 4 else slots
    let first := centre + 1 - n / 2
    (List.range n).map (fun k => (i0 + ((first + k : Nat) : Int) - centre, some (first + k)))

/-- Horizontal taps of output pixel j, vertical taps of output line k. -/
def hTapsAt (c : LeCfg) (j : Nat) : List (Int × Option Nat) := taps c.hMode 3 8 (c.initH + (j * c.stepH : Nat))
def vTapsAt (c : LeCfg) (k : Nat) : List (Int × Option Nat) := taps c.vMode 2 6 (c.initV + (k * c.stepV : Nat))

/-- The phase of a position (R207). -/
def phase (pos : Int) : Nat := ((pos % 1048576) / 16384).toNat

/-- The sample that an index takes on an axis of n samples with margins lo and hi (R211); none: outside, TRANSPARENT. -/
def place (edge n lo hi : Nat) (i : Int) : Option Int :=
  if 0 ≤ i ∧ i < n then some i
  else match edge with
    | 2 => none
    | 1 => some (max (-(lo : Int)) (min i ((n : Int) - 1 + hi)))
    | _ => some (max 0 (min i ((n : Int) - 1)))

/-- Luma columns and rows that an index takes. A pair format's luma margin is two pixels for each pair (R211). -/
def column (c : LeCfg) (i : Int) : Option Int :=
  let m := c.margin 0
  let f := (planeFactor c.fmt 0).1
  place c.edgeAs c.wd (f * m.1) (f * m.2.1) i
def rowAt (c : LeCfg) (i : Int) : Option Int :=
  let m := c.margin 0
  place c.edgeAs c.hd m.2.2.1 m.2.2.2 i

/-- Chroma position of a luma index in quarters of a chroma sample (R205): 2x co-sited, 2x − 1 midway. -/
def chromaPos (sub : Nat) (midway : Bool) (x : Int) : Int :=
  if sub = 1 then 4 * x else if midway then 2 * x - 1 else 2 * x

/-- Is chroma taken as midway-sited on an axis (R205)? -/
def midH (c : LeCfg) : Bool := c.csiteH != 0 || decide (c.dH > 1)
def midV (c : LeCfg) : Bool := c.csiteV != 0 || decide (c.dV > 1)

/-- Chroma position of a luma column or row of the crop, in quarters of a sample of the chroma crop: an undecimated
live crop at an odd column or row starts midway in its first chroma sample (R205, R221). -/
def chromaX (c : LeCfg) (x : Int) : Int :=
  let f := (chromaFactor c.fmt).1
  chromaPos f c.midH (if c.dH = 1 then x + (c.cropX % f : Nat) else x)
def chromaY (c : LeCfg) (y : Int) : Int :=
  let f := (chromaFactor c.fmt).2
  chromaPos f c.midV (if c.dV = 1 then y + (c.cropY % f : Nat) else y)

/-- The chroma samples that a position u needs on an axis: floor(u), and the next one where the filter is linear. -/
def chromaIdx (sub : Nat) (filt : Bool) (u : Int) : List Int :=
  if sub = 1 ∨ !filt then [u / 4] else [u / 4, u / 4 + 1]

/-- Clamp an index of plane p's decimated grid to the fetched samples (R205). -/
def clampCol (c : LeCfg) (p : Nat) (i : Int) : Int :=
  let m := c.margin p
  let n := (c.planeCrop p).2.2.1 / c.dH
  max (-(m.1 : Int)) (min i ((n : Int) - 1 + m.2.1))
def clampRow (c : LeCfg) (p : Nat) (i : Int) : Int :=
  let m := c.margin p
  let n := (c.planeCrop p).2.2.2 / c.dV
  max (-(m.2.2.1 : Int)) (min i ((n : Int) - 1 + m.2.2.2))

/-- Does the format carry its chroma in a plane of its own, or (pair formats) in plane 0? The plane, if any. -/
def chromaPlane (c : LeCfg) : Option Nat :=
  if packedPair c.fmt then some 0 else if 0x50 ≤ c.fmt ∧ c.fmt ≤ 0x59 then some 1 else none

/-- Plane p's decimated columns (rows) that a luma column (row) needs. -/
def planeCols (c : LeCfg) (p : Nat) (x : Int) : List Int :=
  let f := chromaFactor c.fmt
  let chroma := chromaIdx f.1 c.chromaFilt (c.chromaX x)
  if packedPair c.fmt then
    let s : Int := (c.cropX % 2 : Nat)
    ((if c.dH = 1 then [(x + s) / 2] else [x / 2, (x + s) / 2]) ++ chroma).map (c.clampCol 0)
  else if p = 0 then [x]
  else chroma.map (c.clampCol p)
def planeRows (c : LeCfg) (p : Nat) (y : Int) : List Int :=
  let f := chromaFactor c.fmt
  if p = 0 then [y] else (chromaIdx f.2 c.chromaFilt (c.chromaY y)).map (c.clampRow p)

/-- Output pixels of the layer visible in a raster of width w: the j from lo to hi − 1 (R201). -/
def visible (c : LeCfg) (w : Nat) : Nat × Nat :=
  ((-c.dstX).toNat, min c.dstW ((w : Int) - c.dstX).toNat)

/-- The output line of the layer on raster line y, if any. -/
def lineOf (c : LeCfg) (y : Nat) : Option Nat :=
  let k := (y : Int) - c.dstY
  if 0 ≤ k ∧ k < c.dstH then some k.toNat else none

/-- The source rows of plane p, in plane samples, that output line k needs (R201, R206). -/
def rowsNeeded (c : LeCfg) (k p : Nat) : List Nat :=
  let ys := (c.vTapsAt k).filterMap (fun t => c.rowAt t.1)
  let rs := (ys.flatMap (c.planeRows p)).eraseDups
  let y0 := (c.planeCrop p).2.1
  ((rs.flatMap (fun r => (List.range c.dV).map (fun (i : Nat) => ((y0 : Int) + r * c.dV + i).toNat))).eraseDups)

/-- The outermost luma columns that the taps at these indices span; a TRANSPARENT tap takes no column (R211). -/
def columnSpan (c : LeCfg) (is : List Int) : List Int :=
  if c.edgeAs ≠ 2 then is.filterMap c.column
  else match is with
    | [] => []
    | i :: t =>
      let lo := t.foldl min i
      let hi := t.foldl max i
      if hi < 0 ∨ (c.wd : Int) ≤ lo then [] else [max lo 0, min hi ((c.wd : Int) - 1)]

/-- The bytes of a row of plane p, first and past the last, that the visible pixels need (R201). -/
def bytesNeeded (c : LeCfg) (w p : Nat) : Option (Nat × Nat) :=
  let v := c.visible w
  if v.2 ≤ v.1 then none
  else
    let js := if v.2 - v.1 ≤ 1 then [v.1] else [v.1, v.2 - 1]
    let xs := c.columnSpan (js.flatMap (fun j => (c.hTapsAt j).map (·.1)))
    let cs := xs.flatMap (c.planeCols p)
    match cs with
    | [] => none
    | x :: t =>
      let lo := t.foldl min x
      let hi := t.foldl max x
      let x0 : Int := (c.planeCrop p).1
      let b : Int := c.bytesOf p
      some (((x0 + lo * c.dH) * b).toNat, ((x0 + hi * c.dH + c.dH) * b).toNat)

/-- The bursts of plane p's source row that the line needs: offset from the row's start, and address, ascending. -/
def rowBursts (c : LeCfg) (w p row : Nat) : List (Int × Nat) :=
  match c.bytesNeeded w p with
  | none => []
  | some (lo, hi) =>
    let start := c.baseOf p + c.pitchOf p * row
    let a0 := (start + lo) / 64
    let a1 := (start + hi - 1) / 64
    (List.range (a1 + 1 - a0)).map (fun i => (((a0 + i) * 64 : Nat) - (start : Int), (a0 + i) * 64))

/-- The rows that output line k needs: plane 0 first, top to bottom (R217). -/
def lineRows (c : LeCfg) (k : Nat) : List (Nat × Nat) :=
  c.planes.flatMap fun p => (c.rowsNeeded k p).mergeSort.map fun r => (p, r)

/-- Do the visible pixels of output line k take bytes of a cached burst? -/
def takes (c : LeCfg) (w k : Nat) (b : CacheBurst) : Bool :=
  c.planes.contains b.plane && (c.rowsNeeded k b.plane).contains b.row &&
    (match c.bytesNeeded w b.plane with
     | some (lo, hi) => decide (b.off < (hi : Int) ∧ (lo : Int) < b.off + 64)
     | none => false)

/-- A configuration as a line uses it: the geometry and ENABLE that it took at its start, the rest as it stands now
(R221). -/
def onLine (c now : LeCfg) : LeCfg :=
  { c with
    fmt := now.fmt, pa := now.pa, const := now.const, mat := now.mat, transfer := now.transfer, matrixEn := now.matrixEn
    alphaMode := now.alphaMode, edge := now.edge, coefBank := now.coefBank, csiteH := now.csiteH, csiteV := now.csiteV
    chromaFilt := now.chromaFilt }

end LeCfg

/-! Samples (R202, R206, R223). -/

/-- A sample that a tap reads: its components, transparent black in place of a refused or reported burst, or what the
cache lacks. -/
inductive Sample where
  | comps (l : List Nat)
  | black
  | poison
  | missing
  deriving DecidableEq, Repr

/-- The byte of plane p's row at an offset, as the cache has it. -/
def cacheByte (cache : List CacheBurst) (p row off : Nat) : BurstState × Nat :=
  match cache.find? (fun b => b.plane == p && b.row == row && decide (b.off ≤ (off : Int) ∧ (off : Int) < b.off + 64)) with
  | some b => (b.st, ((off : Int) - b.off).toNat)
  | none => (.asked, 0)

/-- The little-endian value of a sample's bytes, as a whole (R223). -/
def rawSample (c : LeCfg) (cache : List CacheBurst) (p row x : Nat) : Sample :=
  let n := c.bytesOf p
  let bs := (List.range n).map (fun i => cacheByte cache p row (x * n + i))
  if bs.any (fun b => b.1 == .poisoned) then .poison
  else if bs.any (fun b => b.1 == .asked || b.1 == .late) then .missing
  else if bs.any (fun b => b.1 == .refused || b.1 == .spent) then .black
  else .comps [leNat (bs.map (fun b => match b.1 with | .held l => l.getD b.2 0 | _ => 0))]

/-- The stored components of one sample of plane p, from its value. -/
def components (fmt p v : Nat) : List Nat :=
  let b := fun hi lo => bits v hi lo
  match fmt with
  | 0x10 => [b 15 11, b 10 5, b 4 0]
  | 0x11 => [b 4 0, b 10 5, b 15 11]
  | 0x12 => [b 14 10, b 9 5, b 4 0, b 15 15]
  | 0x13 => [b 15 11, b 10 6, b 5 1, b 0 0]
  | 0x14 => [b 11 8, b 7 4, b 3 0, b 15 12]
  | 0x15 => [b 15 12, b 11 8, b 7 4, b 3 0]
  | 0x18 => [b 7 0, b 23 16, b 15 8, b 31 24]     -- Y0, Y1, Cb, Cr
  | 0x19 => [b 15 8, b 31 24, b 7 0, b 23 16]
  | 0x20 => [b 23 16, b 15 8, b 7 0]
  | 0x21 => [b 7 0, b 15 8, b 23 16]
  | 0x22 => [b 23 16, b 15 8, b 7 0]
  | 0x30 => [b 23 16, b 15 8, b 7 0, b 31 24]
  | 0x31 => [b 7 0, b 15 8, b 23 16, b 31 24]
  | 0x32 => [b 23 16, b 15 8, b 7 0]
  | 0x33 => [b 7 0, b 15 8, b 23 16]
  | 0x34 => [b 29 20, b 19 10, b 9 0, b 31 30]
  | 0x35 => [b 9 0, b 19 10, b 29 20, b 31 30]
  | 0x36 => [b 29 20, b 19 10, b 9 0]
  | 0x37 => [b 29 20, b 19 10, b 9 0, b 31 30]
  | 0x40 => [b 15 0, b 31 16, b 47 32, b 63 48]
  | 0x41 => [b 15 0, b 31 16, b 47 32, b 63 48]
  | 0x50 => if p = 0 then [v] else [b 7 0, b 15 8]
  | 0x51 => if p = 0 then [v] else [b 15 8, b 7 0]
  | 0x52 => if p = 0 then [v] else [b 7 0, b 15 8]
  | 0x53 => if p = 0 then [b 15 6] else [b 15 6, b 31 22]
  | 0x54 => if p = 0 then [b 15 6] else [b 15 6, b 31 22]
  | 0x55 => if p = 0 then [b 15 4] else [b 15 4, b 31 20]
  | 0x58 => [b 9 0]
  | _ => [v]

/-- The bits of each component of a format: colour, alpha (0: none). -/
def depths (fmt : Nat) : List Nat :=
  match fmt with
  | 0x10 => [5, 6, 5] | 0x11 => [5, 6, 5] | 0x12 => [5, 5, 5, 1] | 0x13 => [5, 5, 5, 1]
  | 0x14 => [4, 4, 4, 4] | 0x15 => [4, 4, 4, 4]
  | 0x30 => [8, 8, 8, 8] | 0x31 => [8, 8, 8, 8]
  | 0x34 => [10, 10, 10, 2] | 0x35 => [10, 10, 10, 2] | 0x36 => [10, 10, 10] | 0x37 => [10, 10, 10, 2]
  | 0x41 => [16, 16, 16, 16] | 0x53 => [10, 10, 10] | 0x54 => [10, 10, 10] | 0x55 => [12, 12, 12]
  | 0x58 => [10, 10, 10] | 0x59 => [16, 16, 16]
  | _ => [8, 8, 8]

/-- The mean of FP16 patterns in binary32, rounded to FP16 (R206): a NaN, or infinities of both signs, give a NaN, an
infinity itself. -/
def meanHalf (vals : List Nat) : Nat :=
  let up := vals.contains 0x7C00
  let down := vals.contains 0xFC00
  if vals.any (fun h => decide (0x7C00 < h % 0x8000)) || (up && down) then 0x7E00
  else if up then 0x7C00
  else if down then 0xFC00
  else ((vals.foldl (fun a h => a.add (Fl.ofHalf h)) Fl.zero).div (Fl.ofNat vals.length)).toHalf

/-- Mean of components over a decimation block (R206): integers rounded half up; FP16 averaged in binary32, rounded to
FP16. -/
def meanOf (fmt : Nat) (vals : List Nat) : Nat :=
  let n := vals.length
  if n ≤ 1 then vals.getD 0 0
  else if fmt = 0x40 then meanHalf vals
  else (2 * vals.foldl (· + ·) 0 + n) / (2 * n)

/-- Combine the samples of a block: anything missing or poisoned shows; a block with a replaced sample is black
(log entry 21); otherwise the mean of each component. -/
def blend (f : List (List Nat) → List Nat) (ss : List Sample) : Sample :=
  if ss.contains .poison then .poison
  else if ss.contains .missing then .missing
  else if ss.contains .black then .black
  else .comps (f (ss.map (fun s => match s with | .comps l => l | _ => [])))

/-- Mean component by component. -/
def meanComps (fmt : Nat) (ls : List (List Nat)) : List Nat :=
  (List.range (ls.headD []).length).map (fun i => meanOf fmt (ls.map (·.getD i 0)))

/-- The samples of plane p that the block of decimated sample (x, y) covers, on the plane's own grid (R206). -/
def blockOf (c : LeCfg) (cache : List CacheBurst) (p : Nat) (x y : Int) : List Sample :=
  let r := c.planeCrop p
  (List.range c.dV).flatMap fun (i : Nat) => (List.range c.dH).map fun (k : Nat) =>
    let sx := ((r.1 : Int) + x * c.dH + k).toNat
    let sy := ((r.2.1 : Int) + y * c.dV + i).toNat
    match rawSample c cache p sy sx with
    | .comps [v] => .comps (components c.fmt p v)
    | s => s

/-- The decimated sample (x, y) of plane p (of a pair format: its chroma). -/
def planeSample (c : LeCfg) (cache : List CacheBurst) (p : Nat) (x y : Int) : Sample :=
  let s := blend (meanComps c.fmt) (blockOf c cache p x y)
  if packedPair c.fmt then (match s with | .comps l => .comps (l.drop 2) | s => s) else s

/-- The decimated luma sample (x, y) of a pair format: the mean over DEC_H pixels and DEC_V rows (R206). -/
def pairLuma (c : LeCfg) (cache : List CacheBurst) (x y : Int) : Sample :=
  let r := c.planeCrop 0
  blend (meanComps c.fmt) <|
    (List.range c.dV).flatMap fun (i : Nat) => (List.range c.dH).map fun (k : Nat) =>
      let px := (c.cropX : Int) + x * c.dH + k
      let sy := ((r.2.1 : Int) + y * c.dV + i).toNat
      match rawSample c cache 0 sy (px / 2).toNat with
      | .comps [v] => .comps [(components c.fmt 0 v).getD (px % 2).toNat 0]
      | s => s

/-- A decoded tap: four binary32 values (colour, alpha), or what stands in for them. -/
inductive Tap where
  | rgba (c0 c1 c2 a : Fl)
  | black
  | poison
  | missing

/-- Value of a component of n bits (R202). -/
def unorm (n v : Nat) : Fl := Fl.frac v (2 ^ n - 1)

/-- One chroma component at a luma position (R205): nearest, or linear horizontally and then vertically. -/
def chromaAt (c : LeCfg) (cache : List CacheBurst) (p comp : Nat) (x y : Int) : Sample × Fl :=
  let f := chromaFactor c.fmt
  let ux := c.chromaX x
  let uy := c.chromaY y
  let n := (depths c.fmt).getD 1 8
  let one := fun (i j : Int) => planeSample c cache p (c.clampCol p i) (c.clampRow p j)
  let val := fun (s : Sample) => match s with | .comps l => unorm n (l.getD comp 0) | _ => Fl.zero
  let lerp := fun (k : Int) (a b : Fl) =>
    let w : Fl := ⟨false, (k % 4).toNat, -2⟩
    ((Fl.one.sub w).mul a).add (w.mul b)
  if !c.chromaFilt then (one (ux / 4) (uy / 4), val (one (ux / 4) (uy / 4)))
  else
    let cols := if f.1 = 1 then [ux / 4] else [ux / 4, ux / 4 + 1]
    let rows := if f.2 = 1 then [uy / 4] else [uy / 4, uy / 4 + 1]
    let ss := rows.flatMap (fun j => cols.map (fun i => one i j))
    let hor := fun (j : Int) => match cols with
      | [i] => val (one i j)
      | _ => lerp ux (val (one (ux / 4) j)) (val (one (ux / 4 + 1) j))
    let v := match rows with
      | [j] => hor j
      | _ => lerp uy (hor (uy / 4)) (hor (uy / 4 + 1))
    (blend (fun _ => []) ss, v)

/-- Decode the tap at decimated luma sample (x, y): components in source order (R202, R205). -/
def decodeTap (c : LeCfg) (cache : List CacheBurst) (x y : Int) : Tap :=
  let stand := fun (ss : List Sample) (t : Tap) =>
    match blend (fun _ => []) ss with
    | .poison => Tap.poison | .missing => Tap.missing | .black => Tap.black | .comps _ => t
  let k10 := fun i => Fl.frac (c.const.getD i 0) 1023
  match c.chromaPlane with
  | none =>
    let s := planeSample c cache 0 x y
    match s with
    | .comps l =>
      if c.fmt = 0x60 then .rgba (k10 0) (k10 1) (k10 2) (unorm 8 (l.getD 0 0))
      else if c.fmt = 0x61 then .rgba (unorm 8 (l.getD 0 0)) (Fl.frac 128 255) (Fl.frac 128 255) Fl.one
      else if c.fmt = 0x40 then
        .rgba (Fl.ofHalf (l.getD 0 0)) (Fl.ofHalf (l.getD 1 0)) (Fl.ofHalf (l.getD 2 0)) (Fl.ofHalf (l.getD 3 0))
      else
        let d := depths c.fmt
        let v := fun i => unorm (d.getD i 8) (l.getD i 0)
        .rgba (v 0) (v 1) (v 2) (if d.length = 4 then v 3 else Fl.one)
    | s => stand [s] .black
  | some _ =>
    let planar3 := (planeBytes c.fmt).length = 3
    let luma := if packedPair c.fmt then pairLuma c cache x y else planeSample c cache 0 x y
    let cp := if packedPair c.fmt then 0 else 1
    let cb := chromaAt c cache cp 0 x y
    let cr := if planar3 then chromaAt c cache 2 0 x y else chromaAt c cache cp 1 x y
    let y' := match luma with | .comps l => unorm ((depths c.fmt).getD 0 8) (l.getD 0 0) | _ => Fl.zero
    stand [luma, cb.1, cr.1] (.rgba y' cb.2 cr.2 Fl.one)

/-- Matrix, linear light and premultiplication of a decoded tap (R212 to R214): R, G, B, A in binary32. -/
def colourTap (c : LeCfg) (c0 c1 c2 a : Fl) : List Fl :=
  let k := fun i => Fl.ofInt (c.mat.getD i 0) (-12)
  let row := fun r => ((((k (4 * r)).mul c0).add ((k (4 * r + 1)).mul c1)).add ((k (4 * r + 2)).mul c2)).add (k (4 * r + 3))
  let rgb := if c.matrixEn then [row 0, row 1, row 2] else [c0, c1, c2]
  let code := if 5 ≤ c.transfer then 0 else c.transfer
  let lin := fun (l : List Fl) => l.map (toLinear code)
  match c.alphaMode with
  | 1 => (lin rgb).map (·.mul a) ++ [a]
  | 2 =>
    if code = 0 then lin rgb ++ [a]
    else (lin (rgb.map (fun v => if a.m = 0 then Fl.zero else v.div a))).map (·.mul a) ++ [a]
  | _ => lin rgb ++ [Fl.one]

/-- A filtered position's four values, or why it has none. -/
inductive Filtered where
  | vals (l : List Fl)
  | poison
  | missing

/-- A sum of coefficient × sample over taps in tap order (R208, R215). -/
def weigh (ts : List (Option Fl × List Fl)) : List Fl :=
  (List.range 4).map fun i =>
    match ts with
    | [(none, v)] => v.getD i Fl.zero
    | _ => ts.foldl (fun acc t => acc.add (((t.1).getD Fl.one).mul (t.2.getD i Fl.zero))) Fl.zero

/-- Coefficient of a table slot: S2.12 (R209, R232). Axis 0 horizontal, 1 vertical. -/
def Dev.coef (d : Dev) (n bank axis ph slot : Nat) : Fl :=
  let f := if axis = 0 then
      (if slot % 2 = 0 then R.LE_COEF_Hb_p_w_TAP_EVEN n bank ph (slot / 2) else R.LE_COEF_Hb_p_w_TAP_ODD n bank ph (slot / 2))
    else
      (if slot % 2 = 0 then R.LE_COEF_Vb_p_w_TAP_EVEN n bank ph (slot / 2) else R.LE_COEF_Vb_p_w_TAP_ODD n bank ph (slot / 2))
  Fl.ofInt (signed 14 (d.fld f)) (-12)

/-- One premultiplied tap sample at a column and row index (R211, R214). -/
def tapValue (c : LeCfg) (cache : List CacheBurst) (i j : Int) : Filtered :=
  match c.column i, c.rowAt j with
  | some x, some y =>
    match decodeTap c cache x y with
    | .rgba c0 c1 c2 a => .vals (colourTap c c0 c1 c2 a)
    | .black => .vals [Fl.zero, Fl.zero, Fl.zero, Fl.zero]
    | .poison => .poison
    | .missing => .missing
  | _, _ => .vals [Fl.zero, Fl.zero, Fl.zero, Fl.zero]

/-- Gather filtered values, or the first reason that there are none. -/
def gather : List (Option Fl × Filtered) → Filtered ⊕ List (Option Fl × List Fl)
  | [] => .inr []
  | (k, .vals l) :: t => match gather t with | .inr r => .inr ((k, l) :: r) | .inl e => .inl e
  | (_, .poison) :: _ => .inl .poison
  | (_, .missing) :: t => match gather t with | .inl .poison => .inl .poison | _ => .inl .missing

/-- Filter over gathered taps. -/
def filterTaps (l : List (Option Fl × Filtered)) : Filtered :=
  match gather l with
  | .inl e => e
  | .inr ts => .vals (weigh ts)

/-- The result of one output pixel: four FP16 patterns, or what the engine lacks. -/
inductive LePixel where
  | rgba (r g b a : Nat)
  | poison
  | late
  | missing
  deriving DecidableEq, Repr

/-- Output pixel (j, k) of engine n (R198, R207, R208, R214, R215): vertical before horizontal, plane alpha, clamps,
FP16. -/
def Dev.lePixel (d : Dev) (n : Nat) (c : LeCfg) (cache : List CacheBurst) (j k : Nat) : LePixel :=
  let posH := c.initH + (j * c.stepH : Nat)
  let posV := c.initV + (k * c.stepV : Nat)
  let cf := fun axis pos (s : Option Nat) => s.map (fun t => d.coef n c.coefBank axis (LeCfg.phase pos) t)
  let column := fun (i : Int) =>
    filterTaps ((c.vTapsAt k).map (fun t => (cf 1 posV t.2, tapValue c cache i t.1)))
  match filterTaps ((c.hTapsAt j).map (fun t => (cf 0 posH t.2, column t.1))) with
  | .vals l =>
    let pa := Fl.ofInt c.pa (-15)
    let o := l.map (·.mul pa)
    let lo := if c.fmt = 0x40 ∧ (c.transfer = 0 ∨ 5 ≤ c.transfer) then Fl.maxHalf.neg' else Fl.zero
    let col := fun i => ((o.getD i Fl.zero).clamp lo Fl.maxHalf).toHalf
    .rgba (col 0) (col 1) (col 2) ((o.getD 3 Fl.zero).clamp Fl.zero Fl.one).toHalf
  | .poison => .poison
  | .missing => .missing

/-- The CRC-32 of a frame's fetched bytes inside the crop (R224), from the bursts the engine holds. -/
def signature (c : LeCfg) (cache : List CacheBurst) : Nat :=
  let bytes := c.planes.flatMap fun p =>
    let r := c.planeCrop p
    let rows := ((cache.filter (fun (b : CacheBurst) => b.plane == p)).map (·.row)).eraseDups.mergeSort
    (rows.filter (fun y => decide (r.2.1 ≤ y ∧ y < r.2.1 + r.2.2.2))).flatMap fun y =>
      (List.range (r.2.2.1 * c.bytesOf p)).filterMap fun i =>
        match cacheByte cache p y (r.1 * c.bytesOf p + i) with
        | (.held l, k) => l[k]?
        | _ => none
  crc32 bytes

end Sys2Proof.Machine
end

