-- ==== Sys2Proof/Machine/Canopy.lean ====
section
/-!
DEFINITION. The canopy and the output colour stages (chapter 07): blend nodes, the head input, the LUTs and the
matrix, dither, the background output code.
-/
namespace Sys2Proof.Machine

/-- A premultiplied pixel of four FP16 patterns, or what its source lacks. -/
abbrev Pixel := LePixel

/-- Transparent black. -/
def clearPixel : Pixel := .rgba 0 0 0 0

/-- Fa and Fb of an operator (R236); reserved codes act as SRC_OVER. -/
def blendFactors (op : Nat) (aA aB : Fl) : Fl × Fl :=
  let nA := Fl.one.sub aA
  let nB := Fl.one.sub aB
  match op with
  | 0 => (Fl.zero, Fl.zero)
  | 1 => (Fl.one, Fl.zero)
  | 2 => (Fl.zero, Fl.one)
  | 4 => (nB, Fl.one)
  | 5 => (aB, Fl.zero)
  | 6 => (Fl.zero, aA)
  | 7 => (nB, Fl.zero)
  | 8 => (Fl.zero, nA)
  | 9 => (aB, nA)
  | 10 => (nB, aA)
  | 11 => (nB, nA)
  | 12 => (Fl.one, Fl.one)
  | _ => (Fl.one, nA)

/-- A blend node (R236, R237): binary32, times NODE_ALPHA, clamped, rounded to FP16. -/
def blendNode (op alpha : Nat) (a b : Pixel) : Pixel :=
  match a, b with
  | .rgba r1 g1 b1 a1, .rgba r2 g2 b2 a2 =>
    let v := Fl.ofHalf
    let f := blendFactors op (v a1) (v a2)
    let k := Fl.ofInt alpha (-15)
    let mix := fun x y => (((f.1.mul (v x)).add (f.2.mul (v y))).mul k)
    let col := fun x y => ((mix x y).clamp Fl.maxHalf.neg' Fl.maxHalf).toHalf
    .rgba (col r1 r2) (col g1 g2) (col b1 b2) ((mix a1 a2).clamp Fl.zero Fl.one).toHalf
  | .poison, _ => .poison
  | _, .poison => .poison
  | .late, _ => .late
  | _, .late => .late
  | _, _ => .missing

/-- The value of a source of head h's tree (R233), from the engines' pixels. `fed` is what stands in for a subtree
that the governor feeds from a flattened surface. -/
def Dev.treeValue (d : Dev) (layer : Nat → Pixel) (fed : Nat → Option Pixel) : Nat → Nat → Pixel
  | 0, _ => clearPixel
  | fuel + 1, v =>
    if v = 0xFF then clearPixel
    else if v < 0x40 then layer v
    else match fed (v - 0x40) with
      | some p => p
      | none => match d.fp.nodeRec (v - 0x40) with
        | some n =>
          let a := d.treeValue layer fed fuel n.inA
          let b := d.treeValue layer fed fuel n.inB
          let x := (v - 0x40) / 32
          let k := (v - 0x40) % 32
          blendNode (d.fld (R.CN_BN_CTRL_OP x k)) (d.fld (R.CN_BN_CTRL_NODE_ALPHA x k)) a b
        | none => clearPixel

/-! Output colour of head n (R243 to R251). `b` is the bank: 0 live. -/

/-- A domain exponent: 7 acts as 6 (R254). -/
def expOf (e : Nat) : Nat := min e 6

/-- The base colour: HDn_BG_COLOR through BG_TRANSFER (R243). -/
def Dev.baseColour (d : Dev) (n : Nat) : List Fl :=
  let t := d.fld (R.HD_OC_CTRL_BG_TRANSFER n 0)
  [d.fld (R.HD_BG_COLOR_R n 0), d.fld (R.HD_BG_COLOR_G n 0), d.fld (R.HD_BG_COLOR_B n 0)].map
    fun c => toLinear t (Fl.frac c 1023)

/-- A one-dimensional LUT at x in the domain of exponent e; t gives the entries (R248). -/
def lut1d (x : Fl) (e : Nat) (t : Nat → Fl) : Fl :=
  let x := x.clamp Fl.zero ⟨false, 1, e⟩
  let u := x.scale (-(e : Int))                       -- x / top
  let ext := fun (i : Nat) => if i ≤ 1023 then t i else ((Fl.ofNat 2).mul (t 1023)).sub (t 1022)
  let pos :=
    if u.lt ⟨false, 1, -15⟩ then u.scale 21
    else
      let lg : Int := (u.m.log2 : Int) + u.e           -- floor(log2(x / top))
      let s := (lg + 16).toNat
      ((Fl.ofNat (64 * s)).add (((u.scale (16 - (s : Int))).sub Fl.one).scale 6))
  let i := pos.floor.toNat
  let f := pos.sub (Fl.ofNat i)
  (ext i).add (f.mul ((ext (i + 1)).sub (ext i)))

/-- Entry i of a LUT memory of 16-bit entries, two to a word. -/
def Dev.lutEntry (d : Dev) (word : Nat → Nat) (i : Nat) : Nat := bits (d.get (word (i / 2))).toNat (16 * (i % 2) + 15) (16 * (i % 2))

/-- The degamma stage (R247, R248). -/
def Dev.degamma (d : Dev) (n : Nat) (v : List Fl) : List Fl :=
  if d.flag (R.HD_OC_CTRL_DG_EN n 0) then
    let b := d.fld (R.HD_OC_CTRL_DG_BANK n 0)
    let e := expOf (d.fld (R.HD_OC_CTRL_DG_EXP n 0))
    v.zipIdx.map fun p => lut1d p.1 e (fun i => Fl.ofHalf (d.lutEntry (R.HD_DGb_Cc n b p.2) i))
  else v

/-- The matrix stage (R247, R249). -/
def Dev.ocMatrix (d : Dev) (n : Nat) (v : List Fl) : List Fl :=
  if d.flag (R.HD_OC_CTRL_MAT_EN n 0) then
    let k := fun i => Fl.ofInt (signed 20 (d.fld (R.HD_OC_MAT_rc_COEF n 0 i))) (-16)
    (List.range 3).map fun r =>
      ((((k (4 * r)).mul (v.getD 0 Fl.zero)).add ((k (4 * r + 1)).mul (v.getD 1 Fl.zero))).add
        ((k (4 * r + 2)).mul (v.getD 2 Fl.zero))).add (k (4 * r + 3))
  else v

/-- The tetrahedral 3D LUT (R250); equal fractions rank R before G before B. -/
def lut3d (v : List Fl) (e : Nat) (node : Nat → Nat → Fl) : List Fl :=
  let q := v.map (fun x => (x.clamp Fl.zero ⟨false, 1, e⟩).scale (4 - (e : Int)))
  let idx := q.map (fun x => min x.floor.toNat 15)
  let fr := (q.zip idx).map (fun p => p.1.sub (Fl.ofNat p.2))
  let f := fun a => fr.getD a Fl.zero
  let insert := fun (l : List Nat) (a : Nat) =>
    let keep := l.takeWhile (fun b => !(f b).lt (f a))
    keep ++ a :: l.drop keep.length
  let order := [0, 1, 2].foldl insert []
  let unit := fun a => if a = 0 then 1 else if a = 1 then 17 else 289
  let p0 := idx.getD 0 0 + 17 * idx.getD 1 0 + 289 * idx.getD 2 0
  let a1 := order.getD 0 0
  let a2 := order.getD 1 0
  let a3 := order.getD 2 0
  let p1 := p0 + unit a1
  let p2 := p1 + unit a2
  let p3 := p2 + unit a3
  (List.range 3).map fun c =>
    (((((Fl.one.sub (f a1)).mul (node c p0)).add (((f a1).sub (f a2)).mul (node c p1))).add
      (((f a2).sub (f a3)).mul (node c p2))).add ((f a3).mul (node c p3)))

/-- The 3D LUT stage (R247, R250, R261, R262). -/
def Dev.lut3 (d : Dev) (n : Nat) (v : List Fl) : List Fl :=
  if d.flag (R.HD_OC_CTRL_L3_EN n 0) then
    let bank := d.fld (R.HD_OC_CTRL_L3_BANK n 0)
    lut3d v (expOf (d.fld (R.HD_OC_CTRL_L3_EXP n 0)))
      (fun c i => Fl.ofHalf (d.lutEntry (fun k => (if k = 2456 then R.HD_L3_Cc_LAST n c else R.HD_L3_Cc n c k) + bank * l3Bank) i))
  else v

/-- The regamma stage: U0.16 codes (R247, R248). -/
def Dev.regamma (d : Dev) (n : Nat) (v : List Fl) : List Nat :=
  if d.flag (R.HD_OC_CTRL_RG_EN n 0) then
    let b := d.fld (R.HD_OC_CTRL_RG_BANK n 0)
    let e := expOf (d.fld (R.HD_OC_CTRL_RG_EXP n 0))
    v.zipIdx.map fun p =>
      ((lut1d p.1 e (fun i => Fl.ofNat (d.lutEntry (R.HD_RGb_Cc n b p.2) i))).clamp Fl.zero (Fl.ofNat 65535)).roundHalfUp.toNat
  else v.map fun x => ((x.clamp Fl.zero Fl.one).mul (Fl.ofNat 65535)).roundHalfUp.toNat

/-- The threshold matrix of dither (R251). -/
def ditherT (y x : Nat) : Nat :=
  ([0, 8, 2, 10, 12, 4, 14, 6, 3, 11, 1, 9, 15, 7, 13, 5] : List Nat).getD (4 * (y % 4) + x % 4) 0

/-- Output bits of a head (R251, R259). -/
def Dev.outBits (d : Dev) (n : Nat) : Nat := if d.flag (R.HD_OC_CTRL_OUT_BPC n 0) then 8 else 10

/-- Reduce a U0.16 code to nb bits without dither: ROUND (R251). -/
def roundCode (nb v : Nat) : Nat := min ((2 * v * (2 ^ nb - 1) + 65535) / 131070) (2 ^ nb - 1)

/-- Dither of a code at raster position (x, y) of a frame (R251). -/
def ditherCode (mode nb frame x y v : Nat) : Nat :=
  if mode = 0 then roundCode nb v
  else
    let f := if mode = 2 then frame % 4 else 0
    let th := ditherT (y + f) (x + f)
    min ((v * (2 ^ nb - 1) * 32 + (2 * th + 1) * 65535) / (65535 * 32)) (2 ^ nb - 1)

/-- The stages from the head input to the U0.16 codes (R247). -/
def Dev.colourStages (d : Dev) (n : Nat) (v : List Fl) : List Nat :=
  d.regamma n (d.lut3 n (d.ocMatrix n (d.degamma n v)))

/-- The head input: the ROOT pixel over the base colour, in binary32 (R243). -/
def headInput (base : List Fl) (root : Pixel) : Option (List Fl) :=
  match root with
  | .rgba r g b a =>
    let k := Fl.one.sub (Fl.ofHalf a)
    some ([r, g, b].zipIdx.map fun p => (Fl.ofHalf p.1).add (k.mul (base.getD p.2 Fl.zero)))
  | _ => none

/-- The background output triple as the stages stand (R244): no dither. -/
def Dev.bgOutNow (d : Dev) (n : Nat) : List Nat := (d.colourStages n (d.baseColour n)).map (roundCode (d.outBits n))

/-- Compute HDn_BG_OUT (R244). A parity fault in the head does not recompute it: only the callers named by R244 do. -/
def Dev.updateBgOut (d : Dev) (n : Nat) : Dev :=
  let t := d.bgOutNow n
  d.setFlds [(R.HD_BG_OUT_R n, t.getD 0 0), (R.HD_BG_OUT_G n, t.getD 1 0), (R.HD_BG_OUT_B n, t.getD 2 0)]

/-- The triple in HDn_BG_OUT. -/
def Dev.bgOut (d : Dev) (n : Nat) : Nat × Nat × Nat :=
  (d.fld (R.HD_BG_OUT_R n), d.fld (R.HD_BG_OUT_G n), d.fld (R.HD_BG_OUT_B n))

/-- Does a live write to a register of head n recompute its BG_OUT: BG_COLOR, OC_CTRL, an OC_MAT register, or a LUT
entry of a bank in use (R244)? -/
def Dev.touchesBgOut (d : Dev) (n addr : Nat) : Bool :=
  let rel := addr % 0x10000
  decide (0xC00 ≤ rel ∧ rel ≤ 0xC34) ||
  (decide (0x1000 ≤ rel ∧ rel < 0x4000) && (rel - 0x1000) / 0x1800 == d.fld (R.HD_OC_CTRL_DG_BANK n 0)) ||
  (decide (0x4000 ≤ rel ∧ rel < 0x7000) && (rel - 0x4000) / 0x1800 == d.fld (R.HD_OC_CTRL_RG_BANK n 0)) ||
  (decide (0x8000 ≤ rel) && d.fld (R.HD_L3_PAGE_PAGE n) == d.fld (R.HD_OC_CTRL_L3_BANK n 0))

/-! Protection (R246). -/

/-- The HDCP level that engine l's live planes demand: 0 none, else the strictest HDCP value of its protected
clearings' owners (R58, R246). -/
def Dev.layerMark (d : Dev) (l : Nat) : Nat :=
  let c := d.leCfg l 0
  if !c.enable then 0
  else (c.planes.map fun p => match d.clearingAt (c.baseOf p) with
    | some k => if k.isProtected then (match d.fp.owner k.owner with | some o => o.hdcp | none => 2) else 0
    | none => 0).foldl max 0

/-- The mark of head h's own tree: the strictest over its live-enabled engines (R246). -/
def Dev.treeMark (d : Dev) (h : Nat) : Nat := ((d.fp.tree h).filter (· < 0x40)).foldl (fun m l => max m (d.layerMark l)) 0

/-- The mark of head h's stream; a clone inherits its source's (R246). -/
def Dev.streamMark (d : Dev) (h : Nat) : Nat :=
  let c := d.fp.cap h
  if c.mode = 2 then d.treeMark c.cloneSrc else d.treeMark h

end Sys2Proof.Machine
end

