-- ==== Sys2Proof/Machine/Queues.lean ====
section
/-!
DEFINITION. The class queues of the ring ports (R431, R432): frames and their sizes, the room of an egress buffer, and
frames that wait for it.
-/
namespace Sys2Proof

namespace RingFrame
def poison (f : RingFrame) : Bool := f.flags.getLsbD 0
def retry (f : RingFrame) : Bool := f.flags.getLsbD 1
def isProtected (f : RingFrame) : Bool := f.flags.getLsbD 2
/-- Bytes from the destination address through the frame check sequence (R411). -/
def bytes (f : RingFrame) : Nat := 64 + f.length.toNat
/-- Payload bytes of data: without the tag of a protected frame (R414). -/
def dataLen (f : RingFrame) : Nat := if f.isProtected then f.length.toNat - 16 else f.length.toNat
end RingFrame

/-- Bytes of a time message's frame from the destination address through the frame check sequence. R462 gives the
longest, 102 bytes on the wire, which is an Announce; the others are IEEE 1588-2019's (PRESUMED, log entry 31). -/
def TimeFrame.bytes : TimeFrame → Nat
  | .announce _ => 82
  | .pdelayReq _ => 72
  | .pdelayResp _ => 72
  | .pdelayRespFollowUp _ => 72
  | _ => 64

/-- The group address of a time message (R462). -/
def TimeFrame.address : TimeFrame → Nat
  | .sync _ => 0x011B19000000
  | .followUp _ => 0x011B19000000
  | .announce _ => 0x011B19000000
  | _ => 0x0180C200000E

end Sys2Proof

namespace Sys2Proof.Machine

/-- Bytes of a queued frame. -/
def TxItem.bytes : TxItem → Nat
  | .device f => f.bytes
  | .time m _ _ => m.bytes

/-- The cost of a frame at a shaper (R433). -/
def TxItem.cost (i : TxItem) : Nat := i.bytes + 20

/-- The class by whose queue a frame goes: CLASS of a device frame, TC7 for a time message (R431). -/
def TxItem.queue : TxItem → Nat
  | .device f => f.cls.toNat % 8
  | .time .. => 7

namespace Dev

def rpOf (d : Dev) (n : Nat) : RpSt := at' d.rp n .reset

def updRp (d : Dev) (n : Nat) (f : RpSt → RpSt) : Dev := { d with rp := upd d.rp n f }

def updSh (d : Dev) (f : ShSt → ShSt) : Dev := { d with sh := f d.sh }

def classOf (d : Dev) (n c : Nat) : ClassSt := at' (d.rpOf n).classes c .reset

def updClass (d : Dev) (n c : Nat) (f : ClassSt → ClassSt) : Dev := d.updRp n (fun r => { r with classes := upd r.classes c f })

/-- Is a ring port's link up? -/
def linkUp (d : Dev) (p : Nat) : Bool := d.flag (R.RP_STATUS_LINK p)

/-- Bytes in port n's egress buffer. -/
def egress (d : Dev) (n : Nat) : Nat :=
  ((d.rpOf n).classes.toList.flatMap (·.queue)).foldl (fun a f => a + f.bytes) 0

/-- Is there room for a frame in port n's egress buffer of 256 KiB (R432)? -/
def hasRoom (d : Dev) (n : Nat) (i : TxItem) : Bool := decide (d.egress n + i.bytes ≤ 262144)

/-- Put a frame at the end of its class queue. -/
def pushItem (d : Dev) (n : Nat) (i : TxItem) : Dev := d.updClass n i.queue (fun c => { c with queue := c.queue ++ [i] })

/-- Can a local frame be queued on port n now: nothing of this unit waits before it, and it has room? -/
def canQueue (d : Dev) (n : Nat) (i : TxItem) : Bool := !d.sh.waiting.any (·.1 == n) && d.hasRoom n i

/-- A local frame waits for room in port n's buffer (R432). -/
def awaitRoom (d : Dev) (n : Nat) (i : TxItem) : Dev := d.updSh (fun s => { s with waiting := s.waiting ++ [(n, i)] })

end Dev

end Sys2Proof.Machine
end

