-- ==== Sys2Proof/Machine/TimeKeeping.lean ====
section
/-!
DEFINITION. Calendars and the IEEE 1588 instances (R454 to R468). Calendar x: 0 is A, 1 is B. A calendar's time is a
count of 2⁻¹⁶ ns, modulo 2⁴⁸ seconds.
-/
namespace Sys2Proof.Machine

/-- Nanoseconds in units of 2⁻¹⁶ ns. -/
def nsUnits : Nat := 65536

/-- A second in units of 2⁻¹⁶ ns. -/
def secUnits : Nat := 1000000000 * nsUnits

/-- The range of a calendar (R455). -/
def calWrap : Nat := 2 ^ 48 * secUnits

/-- Raw counts from one to another; TS_RAW wraps at 2⁶⁴ (R454). -/
def rawSince (now then' : Nat) : Nat := (now + 2 ^ 64 - then') % 2 ^ 64

/-- Raw counts (1.25 ns each) as units of 2⁻¹⁶ ns. -/
def rawUnits (k : Nat) : Nat := k * 81920

/-- The time of an anchor pair `past` 2⁻¹⁶ ns of raw time after it, with RATE in units of 2⁻⁴⁰ (R455). -/
def anchored (anchorT : Nat) (rate : Int) (past : Nat) : Nat := (anchorT + past * (2 ^ 40 + rate).toNat / 2 ^ 40) % calWrap

namespace Dev

def cal (d : Dev) (x : Nat) : CalSt := at' d.ts.cals x .reset

def updCal (d : Dev) (x : Nat) (f : CalSt → CalSt) : Dev := { d with ts := { d.ts with cals := upd d.ts.cals x f } }

def tsPort (d : Dev) (p : Nat) : TsPort := at' d.ts.ports p ⟨false, none, 0⟩

def updTsPort (d : Dev) (p : Nat) (f : TsPort → TsPort) : Dev := { d with ts := { d.ts with ports := upd d.ts.ports p f } }

/-- RATE of calendar x as a signed number. -/
def calRate (d : Dev) (x : Nat) : Int := signed 32 (d.fld (R.TS_CAL_RATE_RATE x))

/-- The time of calendar x at k sixteenths of a clk TSC after the present raw count (R455, R462). -/
def calFine (d : Dev) (x k : Nat) : Nat :=
  anchored (d.cal x).anchorT (d.calRate x) (rawUnits (rawSince d.raw (d.cal x).anchorRaw) + k * 5120)

/-- The present time of calendar x (R455). -/
def calNow (d : Dev) (x : Nat) : Nat := d.calFine x 0

/-- The sixteenth of a clk TSC at which a port takes a timestamp (R462): the model's raw counter tells whole clks, so
it is a free value. -/
def phase (d : Dev) : Nat := Config.stampPhase d.freeCount % 16

/-- The present 32-bit timestamp of calendar x (R456). -/
def calStamp (d : Dev) (x : Nat) : Nat := d.calNow x / nsUnits % 2 ^ 32

/-- STATE of calendar x (R466). -/
def calState (d : Dev) (x : Nat) : Nat := d.fld (R.TS_CAL_STATE_STATE x)

/-- Move calendar x's anchor to the present raw count, at time t (R455). -/
def anchorAt (d : Dev) (x t : Nat) : Dev :=
  d.updCal x (fun c => { c with anchorRaw := d.raw, anchorT := t % calWrap })

/-- Change a calendar's rate without moving its time (R455). -/
def setRate (d : Dev) (x : Nat) (rate : Int) : Dev :=
  (d.anchorAt x (d.calNow x)).setFld (R.TS_CAL_RATE_RATE x) (unsigned 32 rate)

end Dev

/-- ±1,000 ppm in units of 2⁻⁴⁰ (R455, R478). -/
def clampRate (r : Int) : Int := max (-1099511627) (min r 1099511627)

/-- The time nearest to `now` whose seconds have the low 32 bits s, with ns nanoseconds (R457). -/
def nearestTime (now s ns : Nat) : Nat :=
  let hi := now / secUnits / 2 ^ 32
  let cand := fun (h : Nat) => (h % 2 ^ 16 * 2 ^ 32 + s) * secUnits + ns * nsUnits
  let dist := fun (t : Nat) => let k := (t + calWrap - now) % calWrap; min k (calWrap - k)
  let c0 := cand (hi + 2 ^ 16 - 1)
  let c1 := cand hi
  let c2 := cand (hi + 1)
  if dist c1 ≤ dist c0 then (if dist c1 ≤ dist c2 then c1 else c2) else (if dist c0 ≤ dist c2 then c0 else c2)

/-- a − b on a calendar, as the nearest signed difference. -/
def calDiff (a b : Nat) : Int :=
  let k := (a + calWrap - b) % calWrap
  if k < calWrap / 2 then (k : Int) else (k : Int) - calWrap

/-- Extend a 32-bit timestamp with a reference time (R468). -/
def extendStamp (ts ref : Nat) : Nat :=
  let r := ref / nsUnits
  let k := (ts + 2 ^ 32 - r % 2 ^ 32) % 2 ^ 32
  let back : Nat := if k < 2 ^ 31 then 0 else 2 ^ 32
  (r + k + calWrap / nsUnits - back) * nsUnits % calWrap

namespace Dev

/-! The active view (R460, R461). -/

/-- The calendar under the active view. -/
def activeNow (d : Dev) : Nat := d.fld R.TS_STATUS_ACTIVE_NOW

/-- The active view's time. -/
def activeTime (d : Dev) : Nat := (((d.calNow d.activeNow : Int) + d.ts.residual) % calWrap).toNat

/-- The time that a pin's CAL selects (R480): 0 A, 1 B, 2 the active view, 3 as 0. -/
def viewTime (d : Dev) (c : Nat) : Nat := if c = 2 then d.activeTime else d.calNow (if c = 1 then 1 else 0)

/-- SLEWING follows Q. -/
def slewing (d : Dev) : Dev := d.setFld R.TS_STATUS_SLEWING (b2n (d.ts.residual != 0))

/-- Switch the active view to calendar x (R460). -/
def switchView (d : Dev) (x : Nat) : Dev :=
  if d.activeNow = x then d.setFld R.TS_CTRL_ACTIVE x
  else
    let q := calDiff d.activeTime (d.calNow x)
    let d := { d with ts := { d.ts with residual := q } }
    ((d.setFlds [(R.TS_CTRL_ACTIVE, x), (R.TS_STATUS_ACTIVE_NOW, x)]).slewing).event R.TS_STATUS [4]

/-- ACTIVE_VIEW_SLEW_STEP: Q moves 1.25 ns towards 0 (R460); the last step is what remains. -/
def slewStep (d : Dev) : Dev :=
  let q := d.ts.residual
  let q' := if 0 ≤ q then max 0 (q - 81920) else min 0 (q + 81920)
  ({ d with ts := { d.ts with residual := q' } }).slewing

/-- ACTIVE_WRITE: TS_CTRL.ACTIVE written while AUTO_ACTIVE is 0 (R461). -/
def activeWrite (d : Dev) (x : Nat) : Dev := if d.flag R.TS_CTRL_AUTO_ACTIVE then d else d.switchView x

end Dev

/-! Data set comparison (IEEE 1588-2019 clause 9.3.4, cited by R461 and R463; log entry 30). -/

/-- The fields of part 1, most significant first. -/
def DataSet.rank (a : DataSet) : List Nat :=
  [a.priority1, a.clockClass, a.accuracy, a.variance, a.priority2, a.gm]

/-- Lexicographic comparison. -/
def lexLt : List Nat → List Nat → Bool
  | a :: t, b :: u => if a < b then true else if b < a then false else lexLt t u
  | _, _ => false

/-- Is a better than b, by the grandmasters alone or, for one grandmaster, by topology? -/
def DataSet.better (a b : DataSet) : Bool :=
  if a.gm ≠ b.gm then lexLt a.rank b.rank
  else if a.steps ≠ b.steps then decide (a.steps < b.steps)
  else lexLt [a.senderClock, a.senderPort, a.receiver] [b.senderClock, b.senderPort, b.receiver]

/-- Are both data sets of one grandmaster (so that "better" is by topology)? -/
def DataSet.sameGm (a b : DataSet) : Bool := a.gm == b.gm

namespace Dev

/-- TS_CLOCK_ID. -/
def clockId (d : Dev) : Nat := d.get64 R.TS_CLOCK_ID_LO R.TS_CLOCK_ID_HI

/-- MODE of calendar x as it acts: 3 acts as 0 (R478). -/
def calMode (d : Dev) (x : Nat) : Nat :=
  let m := d.fld (if x = 0 then R.TS_CALA_CTRL_MODE else R.TS_CALB_CTRL_MODE)
  if m = 3 then 0 else m

/-- The domain of calendar x. -/
def calDomain (d : Dev) (x : Nat) : Nat := d.fld (if x = 0 then R.TS_CALA_CTRL_DOMAIN else R.TS_CALB_CTRL_DOMAIN)

/-- The enabled instances in a message's domain (R462); both calendars' where their DOMAINs are equal. -/
def calsOf (d : Dev) (domain : Nat) : List Nat := [0, 1].filter (fun x => d.calMode x != 0 && d.calDomain x == domain)

/-- The instance's own data set D0: clockClass 255 in SLAVE_ONLY (R463), the PRIO values otherwise. -/
def ownSet (d : Dev) (x : Nat) : DataSet :=
  { gm := d.clockId, priority1 := d.fld (R.TS_CAL_PRIO_PRIORITY1 x),
    clockClass := if d.calMode x = 1 then 255 else d.fld (R.TS_CAL_PRIO_CLOCK_CLASS x),
    accuracy := d.fld (R.TS_CAL_PRIO_ACCURACY x), variance := 0xFFFF,
    priority2 := d.fld (R.TS_CAL_PRIO_PRIORITY2 x), steps := 0, senderClock := d.clockId, senderPort := 0,
    receiver := 0 }

/-- The best qualified foreign master heard on port p of calendar x; a port that carries no time messages has none. -/
def portBest (d : Dev) (x p : Nat) : Option DataSet :=
  if !d.flag (R.TS_RP_CFG_EN p) then none
  else ((at' (d.cal x).ports p ⟨[], none⟩).masters.filter (fun f => decide (2 ≤ f.seen))).foldl
    (fun b f => match b with | none => some f.ds | some c => if f.ds.better c then some f.ds else b) none

/-- The better of two optional data sets. -/
def pick (a b : Option DataSet) : Option DataSet :=
  match a, b with
  | some u, some v => if v.better u then some v else some u
  | none, v => v
  | u, none => u

/-- The recommended port state (clause 9.3.3): 6 MASTER, 9 SLAVE, 7 PASSIVE, 4 LISTENING. -/
def portDecision (d : Dev) (x p : Nat) : Nat :=
  let own := d.ownSet x
  let here := d.portBest x p
  let best := pick (d.portBest x 0) (d.portBest x 1)
  if !d.flag (R.TS_RP_CFG_EN p) then 3
  else match best with
    | none => if d.calMode x = 1 then 4 else 6
    | some e =>
      if own.clockClass < 128 then
        (match here with
         | some h => if own.better h then 6 else 7
         | none => 6)
      else if own.better e && d.calMode x != 1 then 6
      else if here = some e then 9
      else match here with
        | some h => if e.better h && !e.sameGm h then 6 else if e.better h then 7 else 6
        | none => 6

/-- Write a calendar's STATE, with the event that the change raises (R466): LOCK on entering LOCKED, UNLOCK on leaving
it. -/
def setCalState (d : Dev) (x st : Nat) : Dev :=
  let old := d.calState x
  let d := d.setFld (R.TS_CAL_STATE_STATE x) st
  let d := d.updCal x (fun c => { c with good := 0, bad := 0 })
  if old ≠ 2 ∧ st = 2 then d.event R.TS_STATUS [2 * x]
  else if old = 2 ∧ st ≠ 2 then d.event R.TS_STATUS [2 * x + 1]
  else d

/-- AUTO_ACTIVE's choice (R461), at a change of a calendar's state or of its grandmaster's data set. -/
def autoActive (d : Dev) : Dev :=
  if !d.flag R.TS_CTRL_AUTO_ACTIVE then d
  else
    let ok := fun (x : Nat) => d.calState x == 2 || d.calState x == 4
    match (d.cal 0).parent, (d.cal 1).parent with
    | some a, some b =>
      if a.sameGm b then d
      else (match ok 0, ok 1 with
        | false, false => d
        | true, false => d.switchView 0
        | false, true => d.switchView 1
        | true, true => if a.better b then d.switchView 0 else d.switchView 1)
    | _, _ => if ok 0 then (if ok 1 then d else d.switchView 0) else if ok 1 then d.switchView 1 else d

/-- Change calendar x's state, and let AUTO_ACTIVE choose anew (R461, R466). -/
def enterState (d : Dev) (x st : Nat) : Dev := if d.calState x = st then d else (d.setCalState x st).autoActive

/-- Put down the outcome of the BMCA of calendar x: the port states, the grandmaster with GM_CHANGE where it is
another one, and the calendar's state (R461, R463, R466). -/
def settle (d : Dev) (x p0 p1 st : Nat) (parent : Option DataSet) : Dev :=
  let old := (d.cal x).parent
  let was := d.calState x
  let gm := fun (p : Option DataSet) => p.map (·.gm)
  let d := d.setFlds [(R.TS_CAL_STATE_PORT0 x, p0), (R.TS_CAL_STATE_PORT1 x, p1)]
  let d := d.updCal x (fun c => { c with parent := parent })
  let d := d.set64 (R.TS_CAL_GM_ID_LO x) (R.TS_CAL_GM_ID_HI x) ((gm parent).getD 0)
  let d := d.when' (gm old != gm parent) (fun d => d.event R.TS_STATUS [7])
  let d := d.when' (was != st) (fun d => d.setCalState x st)
  d.when' (was != st || old != parent) autoActive

/-- Run the BMCA of calendar x (R463, R466): port states, the grandmaster, and the calendar's state. -/
def bmca (d : Dev) (x : Nat) : Dev :=
  if d.calMode x = 0 then (d.updCal x (fun c => { c with ports := .replicate 2 ⟨[], none⟩ })).settle x 0 0 0 none
  else
    let p0 := d.portDecision x 0
    let p1 := d.portDecision x 1
    let st := d.calState x
    if p0 = 9 ∨ p1 = 9 then
      d.settle x p0 p1 (if st = 0 ∨ st = 4 then 1 else st) (pick (d.portBest x 0) (d.portBest x 1))
    else if p0 = 6 ∨ p1 = 6 then d.settle x p0 p1 4 (some (d.ownSet x))
    else d.settle x p0 p1 0 none

/-- A write of EN of a port's time messages: the masters heard on it are forgotten, and both instances decide anew
(R463, R479). -/
def portEnable (d : Dev) (p : Nat) : Dev :=
  let forget := fun (d : Dev) (x : Nat) =>
    d.updCal x (fun c => { c with ports := upd c.ports p (fun _ => ⟨[], none⟩) })
  (((forget (forget d 0) 1).bmca 0)).bmca 1

/-- The instance of calendar x starts anew in its domain and mode (R462, R463). -/
def instanceStart (d : Dev) (x : Nat) : Dev := (d.updCal x (fun c => { c with ports := .replicate 2 ⟨[], none⟩ })).bmca x

/-! The servo (R464, R465). -/

/-- The port on which calendar x is slave. -/
def slavePort (d : Dev) (x : Nat) : Option Nat :=
  if d.fld (R.TS_CAL_STATE_PORT0 x) = 9 then some 0 else if d.fld (R.TS_CAL_STATE_PORT1 x) = 9 then some 1 else none

/-- A counter of a TS port (R479). -/
def countMsg (d : Dev) (f : Fld) : Dev := let r := d.satAdd f 1; if r.2 then r.1.event R.TS_STATUS [8] else r.1

/-- Calendar x's step count and hint after an accepted SET, STEP or servo step (R459). -/
def stepped (d : Dev) (x : Nat) : Dev :=
  let d := d.updCal x (fun c => { c with hint := none })
  let d := d.setFld (R.TS_CAL_HINT_AGE_VALID x) 0
  d.countMsg (R.TS_CAL_STEP_COUNT_COUNT x)

/-- log₂ of the sync interval of a port: LOG_SYNC, S8. -/
def logSync (d : Dev) (p : Nat) : Int := signed 8 (d.fld (R.TS_RP_CFG_LOG_SYNC p))

/-- KI or KP times θ / τ, in 2⁻¹⁶ ppb: θ in 2⁻¹⁶ ns, gain U0.16, τ = 2^log s. -/
def gainTerm (gain : Nat) (theta log : Int) : Int :=
  if log ≤ 0 then theta * gain * 2 ^ (-log).toNat / 65536 else theta * gain / (65536 * 2 ^ log.toNat)

/-- The servo on a sample θ (R465, R466), θ in 2⁻¹⁶ ns. In the parity safe state of TS it does not act (R149). The
Bool tells that it stepped the calendar. -/
def servo (d : Dev) (x p : Nat) (theta : Int) : Dev × Bool :=
  let d := d.setFld (R.TS_CAL_OFFSET_THETA x) (unsigned 32 (max (-(2 ^ 31)) (min (theta / 65536) (2 ^ 31 - 1))))
  let mag := theta.natAbs
  let lim := fun (f : Fld) => d.fld f * nsUnits
  let st := d.calState x
  if d.isSafe Block.TS.base then (d, false) else
  let stepIt := decide (st = 1 ∧ lim (R.TS_CAL_LOCK_CFG_STEP_NS x) < mag)
  let d' :=
    if stepIt then (d.anchorAt x (((d.calNow x : Int) - theta) % calWrap).toNat).stepped x
    else if st = 1 ∨ st = 2 then
      let log := d.logSync p
      let top : Int := 1000000 * 65536
      let i := max (-top) (min ((d.cal x).integ + gainTerm (d.fld (R.TS_CAL_GAIN_KI x)) theta log) top)
      let rho := max (-top) (min (-(gainTerm (d.fld (R.TS_CAL_GAIN_KP x)) theta log + i)) top)
      let d := d.updCal x (fun c => { c with integ := i })
      let d := d.setFld (R.TS_CAL_INTEG_I x) (unsigned 32 (i / 65536))
      d.setRate x (clampRate (rho * 2 ^ 24 / 1000000000))
    else d
  let low := decide (mag ≤ lim (R.TS_CAL_LOCK_CFG_LOCK_NS x))
  let high := decide (lim (R.TS_CAL_LOCK_CFG_UNLOCK_NS x) < mag)
  let d' := d'.updCal x (fun c => { c with good := if low then c.good + 1 else 0, bad := if high then c.bad + 1 else 0 })
  let d' :=
    if st = 1 ∧ 8 ≤ (d'.cal x).good then d'.enterState x 2
    else if st = 2 ∧ 3 ≤ (d'.cal x).bad then d'.enterState x 1
    else d'
  (d', stepIt)

/-- D_p, U16.16 ns, as a number of 2⁻¹⁶ ns (R479). -/
def linkDelay (d : Dev) (p : Nat) : Int := ((d.fld (R.TS_RP_PDELAY_NS p) : Nat) : Int)

/-- A_p in 2⁻¹⁶ ns, from ps. -/
def asymmetry (d : Dev) (p : Nat) : Int := signed 32 (d.fld (R.TS_RP_ASYM_PS p)) * 65536 / 1000

/-- A timestamp of a message in 2⁻¹⁶ ns. -/
def msgTime (m : TimeMsg) : Nat := m.seconds.toNat * secUnits + m.nanos.toNat * nsUnits

/-- θ of a Sync with its precise origin (R464). -/
def offsetOf (d : Dev) (p t2 t1 : Nat) (c : Int) : Int := calDiff t2 t1 - c - d.linkDelay p - d.asymmetry p

/-- The instances that take a message on port p: those of its domain, if the port carries time messages (R462). The
message is counted as used, or as dropped. -/
def takeMsg (d : Dev) (p : Nat) (domain : BitVec 8) : Dev × List Nat :=
  match if d.flag (R.TS_RP_CFG_EN p) then d.calsOf domain.toNat else [] with
  | [] => (d.countMsg (R.TS_RP_RX_DROP_COUNT p), [])
  | l => (d.countMsg (R.TS_RP_RX_MSGS_COUNT p), l)

/-- A message that the device drops (R462). -/
def dropMsg (d : Dev) (p : Nat) : Dev := d.countMsg (R.TS_RP_RX_DROP_COUNT p)

/-- A Sync reaches a HOLDOVER calendar: to ACQUIRE (R466). -/
def wakeHoldover (d : Dev) (x : Nat) : Dev := if d.calState x = 3 then d.enterState x 1 else d

/-- A Sync on the SLAVE port p of calendar x, its ingress k sixteenths of a clk after the raw count (R464). The list
names the calendar if the servo stepped it. -/
def syncFor (p k : Nat) (m : TimeMsg) (s : Dev × List Nat) (x : Nat) : Dev × List Nat :=
  let d := s.1
  if d.slavePort x ≠ some p then s
  else
    let d := d.wakeHoldover x
    let t2 := d.calFine x k
    if m.twoStep then
      let w : TwoStep := ⟨m.seq.toNat, m.source.clock.toNat, m.source.port.toNat, t2, m.correction.toInt⟩
      (d.updCal x (fun c => { c with ports := upd c.ports p (fun q => { q with sync := some w }) }), s.2)
    else
      let r := d.servo x p (d.offsetOf p t2 (msgTime m) m.correction.toInt)
      (r.1, if r.2 then s.2 ++ [x] else s.2)

/-- SYNC_RX (R464), with the calendars that the servos stepped. -/
def syncRx (d : Dev) (p : Nat) (m : TimeMsg) : Dev × List Nat :=
  let r := d.takeMsg p m.domain
  r.2.foldl (syncFor p r.1.phase m) (r.1.fresh, [])

/-- A Follow_Up of the Sync that waits for it on port p of calendar x (R464). -/
def followUpFor (p : Nat) (m : TimeMsg) (s : Dev × List Nat) (x : Nat) : Dev × List Nat :=
  let d := s.1
  match (at' (d.cal x).ports p ⟨[], none⟩).sync with
  | none => s
  | some w =>
    if d.slavePort x = some p ∧ w.seq = m.seq.toNat ∧ w.clock = m.source.clock.toNat ∧ w.port = m.source.port.toNat then
      let d := d.updCal x (fun c => { c with ports := upd c.ports p (fun q => { q with sync := none }) })
      let r := d.servo x p (d.offsetOf p w.t2 (msgTime m) (w.correction + m.correction.toInt))
      (r.1, if r.2 then s.2 ++ [x] else s.2)
    else s

/-- FOLLOW_UP_RX (R464), with the calendars that the servos stepped. -/
def followUpRx (d : Dev) (p : Nat) (m : TimeMsg) : Dev × List Nat :=
  let r := d.takeMsg p m.domain
  r.2.foldl (followUpFor p m) (r.1, [])

/-- An Announce renews the record of its sender on port p of calendar x, and the BMCA runs (R463). -/
def announceFor (p : Nat) (m : Announce) (d : Dev) (x : Nat) : Dev :=
  let ds : DataSet := ⟨m.gm.toNat, m.priority1.toNat, m.clockClass.toNat, m.accuracy.toNat, m.variance.toNat,
    m.priority2.toNat, m.steps.toNat, m.source.clock.toNat, m.source.port.toNat, p⟩
  let same := fun (f : Foreign) => f.ds.senderClock == ds.senderClock && f.ds.senderPort == ds.senderPort
  let renew := fun (l : List Foreign) =>
    match l.find? same with
    | some f => l.map (fun g => if same g then ⟨ds, min 2 (f.seen + 1)⟩ else g)
    | none => l ++ [⟨ds, 1⟩]
  (d.updCal x (fun c => { c with ports := upd c.ports p (fun q => { q with masters := renew q.masters }) })).bmca x

/-- ANNOUNCE_RX (R463). An Announce of this unit's own clock is used no further. -/
def announceRx (d : Dev) (p : Nat) (m : Announce) : Dev :=
  let r := d.takeMsg p m.domain
  if m.source.clock.toNat = d.clockId then r.1 else r.2.foldl (announceFor p m) r.1

/-- ANNOUNCE_RECEIPT_TIMEOUT on port p of calendar x (R462). -/
def announceTimeout (d : Dev) (x p : Nat) : Dev :=
  if d.calMode x = 0 then d
  else (d.updCal x (fun c => { c with ports := upd c.ports p (fun q => { q with masters := [] }) })).bmca x

/-- SYNC_LOSS_HOLDOVER: no Sync within 3 τ (R466). -/
def syncLoss (d : Dev) (x : Nat) : Dev := if d.calState x = 2 then d.enterState x 3 else d

/-- The raw time of a timestamp in 2⁻¹⁶ ns: peer delays are timed on it (log entry 31). -/
def rawTime (d : Dev) : Nat := rawUnits d.raw + d.phase * 5120

/-- A measured link delay enters the filter (R464); PDELAY holds it within U16.16 (log entry 97). -/
def pdelaySample (d : Dev) (p : Nat) (measured : Int) : Dev :=
  let q := d.tsPort p
  let new := if q.measured then d.linkDelay p + (measured - d.linkDelay p) / 8 else measured
  (d.updTsPort p (fun q => { q with measured := true, exchange := none })).setFld (R.TS_RP_PDELAY_NS p)
    (min new.toNat (2 ^ 32 - 1))

/-- This port's identity in an instance (port numbers 1 and 2). -/
def portId (d : Dev) (p : Nat) : PortId := ⟨BitVec.ofNat 64 d.clockId, BitVec.ofNat 16 (p + 1)⟩

/-- PDELAY_RESP_RX (R464): t4 is now; a one-step response carries the turnaround in its correction. -/
def pdelayRespRx (d : Dev) (p : Nat) (m : TimeMsg) : Dev :=
  let r := d.takeMsg p m.domain
  match (d.tsPort p).exchange with
  | some e =>
    if !r.2.isEmpty ∧ e.seq = m.seq.toNat ∧ m.requester = d.portId p then
      let t4 := r.1.rawTime
      let d := r.1.fresh
      if m.twoStep then d.updTsPort p (fun q => { q with exchange := some { e with
        got := some (t4, m.correction.toInt - (msgTime m : Int)) } })
      else d.pdelaySample p (((t4 : Int) - e.sent - m.correction.toInt) / 2)
    else r.1
  | none => r.1

/-- PDELAY_RESP_FOLLOW_UP_RX (R464): the turnaround of a two-step peer is the response's origin less the request's
receipt, with both corrections. -/
def pdelayFollowUpRx (d : Dev) (p : Nat) (m : TimeMsg) : Dev :=
  let r := d.takeMsg p m.domain
  match (d.tsPort p).exchange with
  | some ⟨seq, sent, some (t4, part)⟩ =>
    if !r.2.isEmpty ∧ seq = m.seq.toNat ∧ m.requester = d.portId p then
      let turnaround := part + (msgTime m : Int) + m.correction.toInt
      r.1.pdelaySample p (((t4 : Int) - sent - turnaround) / 2)
    else r.1
  | _ => r.1

/-! Sending (R431, R462, R467). -/

/-- A time message is queued on port p, or waits for room (R431, R432). -/
def sendTime (d : Dev) (p x arrived : Nat) (m : TimeFrame) : Dev :=
  let i : TxItem := .time m x arrived
  if d.canQueue p i then d.pushItem p i else d.awaitRoom p i

/-- Can port p send time messages? -/
def canSend (d : Dev) (p : Nat) : Bool := d.flag (R.TS_RP_CFG_EN p) && d.linkUp p

/-- PORTp's portState in calendar x. -/
def portState (d : Dev) (x p : Nat) : Nat := d.fld (if p = 0 then R.TS_CAL_STATE_PORT0 x else R.TS_CAL_STATE_PORT1 x)

/-- The hint of calendar x while it is valid (R467). -/
def validHint (d : Dev) (x : Nat) : Option Hint := if d.flag (R.TS_CAL_HINT_AGE_VALID x) then (d.cal x).hint else none

/-- SYNC_TX (R467): a MASTER port sends a one-step Sync, or withholds it while the hint is not valid. -/
def syncTx (d : Dev) (x p : Nat) : Dev :=
  if !(d.canSend p && d.portState x p == 6) then d
  else match d.validHint x with
    | none => d.event R.TS_STATUS [6]
    | some _ =>
      let m : TimeMsg := ⟨BitVec.ofNat 8 (d.calDomain x), d.portId p, BitVec.ofNat 16 (d.cal x).seqSync, false, 0, 0, 0, ⟨0, 0⟩⟩
      (d.updCal x (fun c => { c with seqSync := (c.seqSync + 1) % 2 ^ 16 })).sendTime p x 0 (.sync m)

/-- ANNOUNCE_TX (R462): a MASTER port announces its instance's grandmaster. -/
def announceTx (d : Dev) (x p : Nat) : Dev :=
  if !(d.canSend p && d.portState x p == 6) then d
  else
    let g := ((d.cal x).parent).getD (d.ownSet x)
    let steps := if g.gm = d.clockId then 0 else g.steps + 1
    let m : Announce := ⟨BitVec.ofNat 8 (d.calDomain x), d.portId p, BitVec.ofNat 16 (d.cal x).seqAnnounce,
      BitVec.ofNat 64 g.gm, BitVec.ofNat 8 g.priority1, BitVec.ofNat 8 g.clockClass, BitVec.ofNat 8 g.accuracy,
      BitVec.ofNat 16 g.variance, BitVec.ofNat 8 g.priority2, BitVec.ofNat 16 steps⟩
    (d.updCal x (fun c => { c with seqAnnounce := (c.seqAnnounce + 1) % 2 ^ 16 })).sendTime p x 0 (.announce m)

/-- PDELAY_REQ_TX (R462). -/
def pdelayReqTx (d : Dev) (x p : Nat) : Dev :=
  if !(d.canSend p && d.calMode x != 0) then d
  else
    let q := d.tsPort p
    let m : TimeMsg := ⟨BitVec.ofNat 8 (d.calDomain x), d.portId p, BitVec.ofNat 16 q.seq, false, 0, 0, 0, ⟨0, 0⟩⟩
    (d.updTsPort p (fun q => { q with seq := (q.seq + 1) % 2 ^ 16 })).sendTime p x 0 (.pdelayReq m)

/-- PDELAY_REQ_RX (R462): the answer is a one-step Pdelay_Resp; its correction takes the turnaround as it leaves. -/
def pdelayReqRx (d : Dev) (p : Nat) (m : TimeMsg) : Dev :=
  let r := d.takeMsg p m.domain
  match r.2 with
  | x :: _ =>
    if d.canSend p then
      r.1.fresh.sendTime p x r.1.rawTime (.pdelayResp ⟨m.domain, d.portId p, m.seq, false, m.correction, 0, 0, m.source⟩)
    else r.1
  | [] => r.1

/-- A time message leaves port p with its timestamps (R462, R464, R467): a Sync takes its originTimestamp from the
hint, a Pdelay_Req starts its exchange, a Pdelay_Resp adds the turnaround. None: a Sync whose hint is no longer
valid stays. -/
def stamped (d : Dev) (p x arrived : Nat) (m : TimeFrame) : Dev × Option TimeFrame :=
  match m with
  | .sync m =>
    match d.validHint x with
    | none => (d.event R.TS_STATUS [6], none)
    | some h =>
      let e := d.calFine x d.phase / nsUnits % 2 ^ 32
      let t := h.ns + (e + 2 ^ 32 - h.stamp) % 2 ^ 32
      (d.fresh, some (.sync { m with
        seconds := BitVec.ofNat 48 (h.sec + t / 1000000000), nanos := BitVec.ofNat 32 (t % 1000000000) }))
  | .pdelayReq m =>
    ((d.updTsPort p (fun q => { q with exchange := some ⟨m.seq.toNat, d.rawTime, none⟩ })).fresh, some (.pdelayReq m))
  | .pdelayResp m =>
    (d.fresh, some (.pdelayResp { m with correction := m.correction + BitVec.ofNat 64 (d.rawTime + 2 ^ 90 - arrived) }))
  | m => (d, some m)

/-! Software commands (R458, R459, R467). -/

/-- Seconds and nanoseconds of a time into three words. -/
def storeTime (d : Dev) (lo hi ns t : Nat) : Dev :=
  (d.set64 lo hi (t / secUnits)).set ns (BitVec.ofNat 32 (t / nsUnits % 1000000000))

/-- TS_SNAP (R458). -/
def snap (d : Dev) : Dev :=
  let put := fun (d : Dev) (y t : Nat) => d.storeTime (R.TS_SNAP_y_S_LO y) (R.TS_SNAP_y_S_HI y) (R.TS_SNAP_y_NS y) t
  let d' := d.set64 (R.TS_SNAP_RAW 0) (R.TS_SNAP_RAW 1) d.raw
  put (put (put d' 0 (d.calNow 0)) 1 (d.calNow 1)) 2 d.activeTime

/-- Move calendar x to time t, unless it is LOCKED (R459). The Bool tells that it moved. -/
def moveCal (d : Dev) (x t : Nat) : Dev × Bool :=
  if d.calState x = 2 then (d.event R.TS_STATUS [5], false) else ((d.anchorAt x t).stepped x, true)

/-- CAL_SET (R459). -/
def calSet (d : Dev) (x : Nat) : Dev × Bool :=
  d.moveCal x (d.get64 (R.TS_CAL_SET_S_LO x) (R.TS_CAL_SET_S_HI x) * secUnits +
    d.fld (R.TS_CAL_SET_NS_NS x) * nsUnits)

/-- CAL_STEP (R459): STEP_S × 10⁹ + STEP_NS, both signed. -/
def calStep (d : Dev) (x : Nat) : Dev × Bool :=
  let ns := signed 32 (d.fld (R.TS_CAL_STEP_S_STEP x)) * 1000000000 + signed 32 (d.fld (R.TS_CAL_STEP_NS_STEP x))
  d.moveCal x (((d.calNow x : Int) + ns * nsUnits) % calWrap).toNat

/-- CAL_RATE_WRITE (R459, R478): re-anchored, stored within ±1,000 ppm. -/
def rateWrite (d : Dev) (x w : Nat) : Dev := d.setRate x (clampRate (signed 32 w))

/-- HINT_WRITE: the write of HINT_S_LO latches the hint (R467). -/
def hintWrite (d : Dev) (x w : Nat) : Dev :=
  let d := d.setFld (R.TS_CAL_HINT_S_LO_S x) w
  let t := d.calNow x
  let h : Hint := ⟨w + d.fld (R.TS_CAL_HINT_S_HI_S x) * 2 ^ 32, t / nsUnits % 1000000000, d.calStamp x, d.raw⟩
  (d.updCal x (fun c => { c with hint := some h })).setFlds
    [(R.TS_CAL_HINT_AGE_VALID x, 1), (R.TS_CAL_HINT_AGE_MS x, 0)]

/-- HINT_EXPIRE: the hint is older than 2 s (R467). -/
def hintExpire (d : Dev) (x : Nat) : Dev := d.setFld (R.TS_CAL_HINT_AGE_VALID x) 0

/-- The SRST of TS (R476): servos to FREE, with no instance left, hints cleared; times, rates and the raw counter
kept. Fields are reset by the caller. -/
def tsReset (d : Dev) : Dev :=
  let clear := fun (c : CalSt) =>
    { c with good := 0, bad := 0, hint := none, ports := .replicate 2 ⟨[], none⟩, parent := none }
  let d := { d with ts := { cals := d.ts.cals.map clear, ports := .replicate 2 ⟨false, none, 0⟩, residual := 0 } }
  (List.range 2).foldl (fun d x => (d.setFlds [(R.TS_CAL_STATE_STATE x, 0), (R.TS_CAL_STATE_PORT0 x, 0),
    (R.TS_CAL_STATE_PORT1 x, 0)]).set64 (R.TS_CAL_GM_ID_LO x) (R.TS_CAL_GM_ID_HI x) 0) d

end Dev

end Sys2Proof.Machine
end

