-- ==== Sys2Proof/Machine/Ring.lean ====
section
/-!
DEFINITION. The ring ports and SH (chapter 13), but for what a received frame does: frames, routing, queues, shapers,
transmission, almanacs, requester channels, the mailbox, notices, sources and streams. Receipt is in `RingRx.lean`.
-/
namespace Sys2Proof.Machine

/-! Frames (R411 to R414). -/

/-- The 46 bytes of the device header (R411), with a value of HOPS. -/
def RingFrame.header (f : RingFrame) (hops : Byte) : List Byte :=
  [f.version, f.kind, f.subtype, f.cls, f.dest, f.src, hops, f.flags] ++ toBe 2 f.txn.toNat ++ toBe 2 f.length.toNat ++
  toBe 2 f.tag.toNat ++ toBe 2 f.frame.toNat ++ toBe 4 f.offset.toNat ++ toBe 4 f.arg0.toNat ++ toBe 4 f.arg1.toNat ++
  [f.status, f.owner] ++ toBe 12 f.iv.toNat ++ toBe 4 f.time.toNat

/-- The additional data of a protected frame: header bytes 0 to 29, HOPS taken as 0 (R414). -/
def RingFrame.aad (f : RingFrame) : List Byte := (RingFrame.header f 0).take 30

/-- The Ethernet address of a unit, all ones for DEST 0 (R411). -/
def unitAddress (a : Byte) : List Byte := if a = 0 then List.replicate 6 0xFF else [0x02, 0x4D, 0x56, 0, 0, a]

/-- The bytes of a frame from the destination address through the frame check sequence (R411). The sequence is IEEE
802.3's: the CRC-32 of the bytes before it, least significant byte first (PRESUMED, log entry 98). -/
def RingFrame.wire (f : RingFrame) : List Byte :=
  let b := unitAddress f.dest ++ [0x02, 0x4D, 0x56, 0, 0, f.src, 0x88, 0xB5] ++ RingFrame.header f f.hops ++ f.payload
  b ++ toLe 4 (crc32 b)

/-- The bursts that a byte range touches: burst address, first byte in the burst, bytes. -/
def spans : Nat → Nat → Nat → List (Nat × Nat × Nat)
  | 0, _, _ => []
  | fuel + 1, a, len =>
    if len = 0 then []
    else
      let k := min len (64 - a % 64)
      (a / 64 * 64, a % 64, k) :: spans fuel (a + k) (len - k)

/-- The bursts of a range of len bytes from a. -/
def burstSpans (a len : Nat) : List (Nat × Nat × Nat) := spans (len / 64 + 2) a len

/-- A write of bytes from byte lo of a burst. -/
def spanWrite (lo : Nat) (bytes : List Byte) : BurstWrite :=
  ⟨List.replicate lo 0 ++ bytes ++ List.replicate (64 - lo - bytes.length) 0,
    BitVec.ofNat 64 ((2 ^ bytes.length - 1) <<< lo)⟩

/-- The requests that write bytes from an address. -/
def writeRequests (who : Requester) (a : Nat) (bytes : List Byte) (p : Purpose) : List Request :=
  ((burstSpans a bytes.length).foldl (fun (r : List Request × List Byte) s =>
    (r.1 ++ [⟨who, s.1, some (spanWrite s.2.1 (r.2.take s.2.2)), p⟩], r.2.drop s.2.2)) ([], bytes)).1

/-- The requests that read a range. -/
def readRequests (who : Requester) (a len : Nat) (p : Purpose) : List Request :=
  (burstSpans a len).map (fun s => ⟨who, s.1, none, p⟩)

/-- The bytes of a range from bursts held by address. -/
def gatherRange (data : List (Nat × List Byte)) (a len : Nat) : List Byte :=
  (burstSpans a len).flatMap (fun s => slice (((data.find? (·.1 == s.1)).map (·.2)).getD []) s.2.1 s.2.2)

/-- The requester code's constructor of a ring port. -/
def portRequester (p : Nat) : Requester := .rp (if p = 0 then 0 else 1)

/-- A request of port p to the burst at an address, as the check of R179 sees it. -/
def probe (p a : Nat) (write : Bool) : Request :=
  ⟨portRequester p, a / 64 * 64, if write then some (spanWrite 0 []) else none, .plain⟩

namespace Dev

/-- Issue requests in order: how many were accepted (tagged or waiting), and whether any was refused. -/
def issueAll (d : Dev) (rs : List Request) : Dev × Nat × Bool :=
  rs.foldl (fun (s : Dev × Nat × Bool) r =>
    let q := s.1.fsAccept r
    match q.2 with
    | .tagged => (q.1, s.2.1 + 1, s.2.2)
    | .waits => (q.1, s.2.1 + 1, s.2.2)
    | _ => (q.1, s.2.1, true)) (d, 0, false)

/-- Has a FULL image been applied (R102)? -/
def configured (d : Dev) : Bool := d.flag R.CH_LOAD_STATUS_CONFIGURED

/-- Is SH in its parity safe state? -/
def shSafe (d : Dev) : Bool := d.isSafe Block.SH.base

/-- Does port n transmit (R149: idle only in the safe state of the port or of SH)? -/
def rpSends (d : Dev) (n : Nat) : Bool := d.linkUp n && !d.isSafe (Block.RP.base + n) && !d.shSafe

/-! Routing and queues (R415, R432). -/

/-- The port that a frame of this unit to DEST leaves by (R415); none: both links are down. A broadcast takes RP1. -/
def routeOf (d : Dev) (dest : Nat) : Option Nat :=
  let units := d.fld R.SH_RING_CFG_UNITS
  let d1 := if units = 0 then 0 else (dest + units * 64 - d.unitAddr) % units
  let first := if dest = 0 ∨ units = 0 ∨ d1 ≤ units - d1 then 1 else 0
  if d.linkUp first then some first else if d.linkUp (1 - first) then some (1 - first) else none

/-- HOPS that the origin sets (R415). -/
def hopsOf (d : Dev) (dest : Nat) : Nat :=
  let units := d.fld R.SH_RING_CFG_UNITS
  if dest ≠ 0 ∨ units = 0 then 62 else units - 1

/-- A frame of this unit as it is queued: CLASS, HOPS and TIME are set (R411, R415, R431, R78). -/
def stampFrame (d : Dev) (f : RingFrame) : TxItem := .device { f with
  cls := BitVec.ofNat 8 (d.fp.classOf f.kind.toNat), hops := BitVec.ofNat 8 (d.hopsOf f.dest.toNat),
  time := BitVec.ofNat 32 (d.calStamp 0) }

/-- A frame waiting for room is queued on port n: a device frame takes its CLASS, HOPS and TIME now. -/
def queueItem (d : Dev) (n : Nat) (i : TxItem) : Dev :=
  d.pushItem n (match i with | .device f => d.stampFrame f | .time .. => i)

/-- A local frame leaves for port n; it waits while the buffer has no room (R432). -/
def sendOn (d : Dev) (n : Nat) (f : RingFrame) : Dev :=
  if d.canQueue n (.device f) then d.queueItem n (.device f) else d.awaitRoom n (.device f)

/-- Send a frame by R415. The Bool tells that a port took it. An unconfigured unit sends no device frame (R102): it
finds no port (DESIGN CHOICE, log entry 96). -/
def sendFrame (d : Dev) (f : RingFrame) : Dev × Bool :=
  match if d.configured then d.routeOf f.dest.toNat else none with
  | some n => (d.sendOn n f, true)
  | none => (d, false)

/-- A frame of this unit, with every field that its kind does not name at 0. -/
def newFrame (d : Dev) (kind sub dest : Nat) : RingFrame :=
  { version := 1, kind := BitVec.ofNat 8 kind, subtype := BitVec.ofNat 8 sub, cls := 0, dest := BitVec.ofNat 8 dest,
    src := BitVec.ofNat 8 d.unitAddr, hops := 0, flags := 0, txn := 0, length := 0, tag := 0, frame := 0, offset := 0,
    arg0 := 0, arg1 := 0, status := 0, owner := 0, iv := 0, time := 0, payload := [] }

/-- Count a dropped frame (R410, R446). -/
def rpDrop (d : Dev) (n cause : Nat) (src : Option Nat) : Dev :=
  let d := d.setFld (R.RP_DROP_INFO_CAUSE n) cause
  let d := match src with | some s => d.setFld (R.RP_DROP_INFO_SRC n) s | none => d
  let bit' := fun b => (⟨R.RP_STATUS n, b, b⟩ : Fld)
  d.tally ([(R.RP_DROP_COUNT_COUNT n, 1)] ++ (if cause = 6 then [(R.RP_TAG_FAIL_COUNT_COUNT n, 1)] else [])) [] (bit' 5)
    ([bit' 2] ++ (if cause = 5 then [bit' 3] else []) ++ (if cause = 6 then [bit' 4] else []))

/-- An SH event, with a saturating counter. -/
def shCount (d : Dev) (f : Fld) (evs : List Nat) : Dev := d.count f 1 ⟨R.SH_STATUS, 10, 10⟩ (evs.map (fun b => ⟨R.SH_STATUS, b, b⟩))

/-! Shapers (R433 to R435). -/

/-- Units of a bucket in a byte: 2⁻¹⁶ / 25 byte each, so that a raw count adds a whole number of them. -/
def bucketUnit : Nat := 1638400

/-- Bring port n's buckets up to the present raw count (R433): CIR × 256 units a raw count. -/
def accrue (d : Dev) (n : Nat) : Dev :=
  let k := rawSince d.raw (d.rpOf n).since
  let gain := fun (c : Nat) (s : ClassSt) =>
    { s with
      committed := min (d.fld (R.SH_TC_CBS_BYTES c) * bucketUnit) (s.committed + d.fld (R.SH_TC_CIR_MBPS c) * 256 * k),
      peak := min (d.fld (R.SH_TC_PBS_BYTES c) * bucketUnit) (s.peak + d.fld (R.SH_TC_PIR_MBPS c) * 256 * k) }
  d.updRp n (fun r => { r with classes := r.classes.mapIdx gain, since := d.raw })

/-- The buckets of class c restart after a write to a shaper register (R435). -/
def resetBuckets (d : Dev) (c : Nat) : Dev :=
  let one := fun (d : Dev) (n : Nat) =>
    d.updClass n c (fun s => { s with committed := 0, peak := d.fld (R.SH_TC_PBS_BYTES c) * bucketUnit })
  one (one ((d.accrue 0).accrue 1) 0) 1

/-! Almanacs (R438 to R441). -/

def almanac (d : Dev) (p : Nat) : AlmanacSt := at' d.sh.almanacs p .reset

def updAlmanac (d : Dev) (p : Nat) (f : AlmanacSt → AlmanacSt) : Dev :=
  d.updSh (fun s => { s with almanacs := upd s.almanacs p f })

/-- GATES and INTERVAL (in 2⁻¹⁶ ns) of an entry. -/
def almEntry (d : Dev) (p b e : Nat) : Nat × Nat :=
  (d.fld (R.SH_ALM_Bb_Ee_GATES p b e), d.fld (R.SH_ALM_Bb_Ee_INTERVAL p b e) * nsUnits)

/-- The cycle of a bank's first `count` entries. -/
def almCycle (d : Dev) (p b count : Nat) : Nat :=
  (List.range count).foldl (fun a e => a + (d.almEntry p b e).2) 0

/-- The pending bank: bank 0 until a list is in force, then the bank that is not in force. -/
def pendBank (d : Dev) (p : Nat) : Nat :=
  if d.flag (R.SH_ALM_STATE_RUNNING p) then 1 - d.fld (R.SH_ALM_STATE_OPER_BANK p) else 0

/-- The entry at a position in the cycle, and what remains of it. -/
def almAt (d : Dev) (p b count : Nat) : Nat → Nat → Nat → Nat × Nat
  | 0, e, _ => (e, 0)
  | fuel + 1, e, x =>
    let i := (d.almEntry p b e).2
    if x < i ∨ count ≤ e + 1 then (e, i - x) else almAt d p b count fuel (e + 1) (x - i)

/-- The entry in force by the calendar (R439), and what remains of it. -/
def almNow (d : Dev) (p : Nat) : Nat × Nat :=
  let b := d.fld (R.SH_ALM_STATE_OPER_BANK p)
  let n := d.fld (R.SH_ALM_STATE_OPER_COUNT p)
  let c := d.almCycle p b n
  let a := d.almanac p
  if c = 0 then (0, 0) else d.almAt p b n n 0 (calDiff (d.calNow a.cal) a.start % c).toNat

/-- Does class c stay open for w units from now (R441)? `run` has passed; `here` is the list position: bank, count,
entry and what remains of it (none: no list, every gate open); `next` is the pending switch: units from now, and
its count. -/
def openFor (d : Dev) (p c w : Nat) : Nat → Nat → Option (Nat × Nat × Nat × Nat) → Option (Nat × Nat) → Bool
  | 0, _, _, _ => false
  | fuel + 1, run, here, next =>
    if w ≤ run then true
    else
      let switch := fun (s : Nat × Nat) => openFor d p c w fuel (max run s.1)
        (some (d.pendBank p, s.2, 0, (d.almEntry p (d.pendBank p) 0).2)) none
      match here, next with
      | none, none => true
      | none, some s => switch s
      | some (b, n, e, left), nx =>
        match nx with
        | some s =>
          if s.1 ≤ run then switch s
          else if bit (d.almEntry p b e).1 c then
            (if s.1 ≤ run + left then switch s
             else let e' := if n ≤ e + 1 then 0 else e + 1
               openFor d p c w fuel (run + left) (some (b, n, e', (d.almEntry p b e').2)) nx)
          else false
        | none =>
          if bit (d.almEntry p b e).1 c then
            let e' := if n ≤ e + 1 then 0 else e + 1
            openFor d p c w fuel (run + left) (some (b, n, e', (d.almEntry p b e').2)) none
          else false

/-- Does a frame of class c and a cost fit on port p now (R441)? -/
def gateFits (d : Dev) (p c cost : Nat) : Bool :=
  if !d.flag (R.SH_ALM_CTRL_EN p) then true
  else
    let a := d.almanac p
    let here := if d.flag (R.SH_ALM_STATE_RUNNING p) then
        (let x := d.almNow p
         some (d.fld (R.SH_ALM_STATE_OPER_BANK p), d.fld (R.SH_ALM_STATE_OPER_COUNT p), x.1, x.2)) else none
    let next := a.pending.map (fun q => ((calDiff q.1 (d.calNow q.2.1)).toNat, q.2.2))
    d.openFor p c (cost * 8 * nsUnits / 100) 1024 0 here next

/-- The first failure of a pending bank (R438); 0 if none. -/
def almCheck (d : Dev) (p b count : Nat) : Nat :=
  let es := (List.range count).map (d.almEntry p b)
  let cycle := d.almCycle p b count
  let runs := fun (c : Nat) =>
    ((es ++ es).foldl (fun (r : Nat × Nat) e => if bit e.1 c then (r.1 + e.2, max r.2 (r.1 + e.2)) else (0, r.2)) (0, 0)).2
  if count = 0 ∨ 256 < count then 1
  else if es.any (fun e => decide (e.2 < 64 * nsUnits)) then 2
  else if cycle < 1000 * nsUnits ∨ secUnits < cycle then 3
  else if (List.range 8).any (fun c => es.any (fun e => bit e.1 c) && !es.all (fun e => bit e.1 c) &&
      decide (runs c < 740 * nsUnits)) then 4
  else 0

/-- ALMANAC_CHANGE (R440). -/
def almChange (d : Dev) (p : Nat) : Dev :=
  let count := d.fld (R.SH_ALM_CTRL_PEND_COUNT p)
  let b := d.pendBank p
  let e := d.almCheck p b count
  let d := d.setFld (R.SH_ALM_STATE_ERR p) e
  if e ≠ 0 then d.event R.SH_STATUS [5]
  else
    let cal := d.fld (R.SH_ALM_CTRL_CAL p)
    let now := d.calNow cal
    let base := nearestTime now (d.fld (R.SH_ALM_BASE_S_S p)) (d.fld (R.SH_ALM_BASE_NS_NS p))
    let cycle := d.almCycle p b count
    let lag := calDiff ((now + 1000 * nsUnits) % calWrap) base
    let late := decide (0 < lag)
    let s := if late then (base + ceilDiv lag.toNat cycle * cycle) % calWrap else base
    let d := (d.updAlmanac p (fun a => { a with pending := some (s, cal, count) })).setFld (R.SH_ALM_STATE_PENDING p) 1
    if late then d.event R.SH_STATUS [4] else d

/-- ALMANAC_CANCEL (R440). -/
def almCancel (d : Dev) (p : Nat) : Dev :=
  (d.updAlmanac p (fun a => { a with pending := none })).setFld (R.SH_ALM_STATE_PENDING p) 0

/-- ALMANAC_START: S of the pending change has come (R440). -/
def almStart (d : Dev) (p : Nat) : Dev :=
  match (d.almanac p).pending with
  | none => d
  | some (s, cal, count) =>
    let b := d.pendBank p
    let d := d.updAlmanac p (fun _ => ⟨s, cal, none⟩)
    d.setFlds [(R.SH_ALM_STATE_PENDING p, 0), (R.SH_ALM_STATE_RUNNING p, 1), (R.SH_ALM_STATE_OPER_BANK p, b),
      (R.SH_ALM_STATE_OPER_COUNT p, count), (R.SH_ALM_STATE_ENTRY p, 0),
      (R.SH_ALM_START_S_S p, s / secUnits), (R.SH_ALM_START_NS_NS p, s / nsUnits % 1000000000)]

/-- ALMANAC_ENTRY_BOUNDARY: ENTRY follows the calendar (R439). -/
def almBoundary (d : Dev) (p : Nat) : Dev :=
  if d.flag (R.SH_ALM_STATE_RUNNING p) then d.setFld (R.SH_ALM_STATE_ENTRY p) (d.almNow p).1 else d

/-! Request frames (R421). -/

/-- Send a request frame with a new TXN_ID; answers it, or none with both links down. -/
def sendRequest (d : Dev) (o : Origin) (f : RingFrame) : Dev × Bool :=
  let f := { f with txn := BitVec.ofNat 16 d.sh.nextTxn }
  let r := d.sendFrame f
  if r.2 then
    (r.1.updSh (fun s => { s with nextTxn := (s.nextTxn + 1) % 2 ^ 16, outstanding := s.outstanding ++ [⟨o, f, 0⟩] }), true)
  else (d, false)

/-- The outstanding request with a TXN_ID. -/
def requestOf (d : Dev) (txn : BitVec 16) : Option Outstanding := d.sh.outstanding.find? (·.frame.txn == txn)

/-- A request is no longer outstanding. -/
def endRequest (d : Dev) (txn : BitVec 16) : Dev :=
  d.updSh (fun s => { s with outstanding := s.outstanding.filter (fun o => o.frame.txn != txn) })

/-! Requester channels (R420). -/

def channel (d : Dev) (k : Nat) : ChannelSt := at' d.sh.channels k .reset

def updChannel (d : Dev) (k : Nat) (f : ChannelSt → ChannelSt) : Dev :=
  d.updSh (fun s => { s with channels := upd s.channels k f })

/-- Change the piece with a number. -/
def updPiece (d : Dev) (k id : Nat) (f : Piece → Piece) : Dev :=
  d.updChannel k (fun c => { c with pieces := c.pieces.map (fun p => if p.id == id then f p else p) })

/-- End channel k's command with a code: pieces already sent go on, the others are dropped (R420). -/
def endChannel (d : Dev) (k code : Nat) : Dev :=
  let d := d.updChannel k (fun c => { c with pieces := c.pieces.filter (·.phase != .reading), abort := false })
  let d := d.setFlds [(R.SH_RQ_STATE_STATE k, if code = 0 then 2 else 3), (R.SH_RQ_STATE_CODE k, code)]
  if code ≠ 0 then d.event R.SH_STATUS [8] else if d.flag (R.SH_RQ_CTRL_IRQ k) then d.event R.SH_STATUS [7] else d

/-- Is channel k busy? -/
def rqBusy (d : Dev) (k : Nat) : Bool := d.fld (R.SH_RQ_STATE_STATE k) == 1

/-- The local clearing's address of an offset in channel k's range. -/
def rqLocal (d : Dev) (k off : Nat) : Nat :=
  (match d.clearings.find? (·.number == d.fld (R.SH_RQ_TAGS_LOCAL_CLR k)) with | some c => c.base | none => 0) +
    d.fld (R.SH_RQ_LOCAL_OFF_OFF k) + off

/-- A command of channel k fails (R420): at once, but one that an ABORT has ended waits for its pieces. -/
def failChannel (d : Dev) (k code : Nat) : Dev := if (d.channel k).abort || !d.rqBusy k then d else d.endChannel k code

/-- The WRITE frames of channel k that stand at the front of its pieces, their reads complete, go out in order. -/
def sendPieces (d : Dev) (k : Nat) : List Piece → Dev
  | [] => d
  | p :: t =>
    if p.phase = .reading then
      if p.due ≠ 0 then d
      else
        let c := d.channel k
        let data := if p.poison then List.replicate p.len 0 else gatherRange p.data p.addr p.len
        let f := d.newFrame 4 0 (d.fld (R.SH_RQ_CTRL_DEST k))
        let f := { f with
          tag := BitVec.ofNat 16 (d.fld (R.SH_RQ_TAGS_REMOTE_TAG k)),
          offset := BitVec.ofNat 32 (d.fld (R.SH_RQ_REMOTE_OFF_OFF k) + p.off),
          flags := BitVec.ofNat 8 (b2n p.poison + 4 * b2n c.guarded), owner := BitVec.ofNat 8 c.owner,
          length := BitVec.ofNat 16 (p.len + 16 * b2n c.guarded), payload := data }
        let r := d.sendRequest (.piece k p.id) f
        if r.2 then sendPieces (r.1.updPiece k p.id (fun q => { q with phase := .sent, data := [] })) k t
        else d.failChannel k 9
    else sendPieces d k t

/-- Issue channel k's next pieces while fewer than 32 are outstanding (R420). -/
def issuePieces (d : Dev) (k : Nat) : Nat → Dev
  | 0 => d
  | fuel + 1 =>
    let c := d.channel k
    let total := d.fld (R.SH_RQ_LENGTH_BYTES k)
    if c.abort || !d.rqBusy k || decide (total ≤ c.next) || decide (32 ≤ c.pieces.length) then d
    else
      let len := min (if c.guarded then 9136 else 9152) (total - c.next)
      let off := c.next
      let id := d.sh.nextKey
      let p : Piece := ⟨id, c.cmd, off, d.rqLocal k off, len, .sent, c.port, 0, [], false⟩
      let d := d.updSh (fun s => { s with nextKey := id + 1 })
      if d.flag (R.SH_RQ_CTRL_OP k) then
        let f := d.newFrame 4 1 (d.fld (R.SH_RQ_CTRL_DEST k))
        let f := { f with
          tag := BitVec.ofNat 16 (d.fld (R.SH_RQ_TAGS_REMOTE_TAG k)),
          offset := BitVec.ofNat 32 (d.fld (R.SH_RQ_REMOTE_OFF_OFF k) + off), arg0 := BitVec.ofNat 32 len }
        let r := d.sendRequest (.piece k id) f
        if r.2 then issuePieces (r.1.updChannel k (fun c => { c with next := off + len, pieces := c.pieces ++ [p] })) k fuel
        else d.failChannel k 9
      else
        let r := d.issueAll (readRequests (portRequester c.port) p.addr len (.channelRead k id))
        let d := r.1.updChannel k (fun c => { c with
          next := off + len, pieces := c.pieces ++ [{ p with phase := .reading, due := r.2.1 }] })
        if r.2.2 then d.failChannel k 11 else issuePieces d k fuel

/-- Move channel k on (R420): send and issue pieces; the command ends with its last piece, an aborted one with CODE
10. -/
def pumpChannel (d : Dev) (k : Nat) : Dev :=
  if !d.rqBusy k then d
  else
    let d := if (d.channel k).abort then d else (d.sendPieces k (d.channel k).pieces).issuePieces k 33
    let c := d.channel k
    if !d.rqBusy k || c.pieces.any (·.cmd == c.cmd) then d
    else if c.abort then d.endChannel k 10
    else if d.fld (R.SH_RQ_LENGTH_BYTES k) ≤ c.next then d.endChannel k 0 else d

/-- RQ_GO (R420). -/
def rqGo (d : Dev) (k : Nat) : Dev :=
  if d.rqBusy k then d
  else
    let dest := d.fld (R.SH_RQ_CTRL_DEST k)
    if d.shSafe then d.endChannel k 12
    else if dest = 0 ∨ dest = d.unitAddr then d.endChannel k 13
    else
      let len := d.fld (R.SH_RQ_LENGTH_BYTES k)
      let off := d.fld (R.SH_RQ_LOCAL_OFF_OFF k)
      match d.clearings.find? (·.number == d.fld (R.SH_RQ_TAGS_LOCAL_CLR k)) with
      | none => d.endChannel k 11
      | some c =>
        if len = 0 ∨ c.size < off + len then d.endChannel k 11
        else
          let op := d.flag (R.SH_RQ_CTRL_OP k)
          let port := (d.routeOf dest).getD 1
          let q := probe port (c.base + off) op
          match d.refusal q with
          | some why => (d.logRefusal q why).endChannel k 11
          | none =>
            if (d.routeOf dest).isNone then d.endChannel k 9
            else
              let d := d.setFlds [(R.SH_RQ_STATE_STATE k, 1), (R.SH_RQ_STATE_CODE k, 0), (R.SH_RQ_DONE_BYTES_BYTES k, 0)]
              (d.updChannel k (fun x => { x with
                cmd := x.cmd + 1, next := 0, abort := false, guarded := c.isProtected, owner := c.owner,
                port := port })).pumpChannel k

/-- RQ_ABORT (R420): pieces not yet sent are dropped. -/
def rqAbort (d : Dev) (k : Nat) : Dev :=
  if d.rqBusy k then
    (d.updChannel k (fun c => { c with abort := true, pieces := c.pieces.filter (·.phase != .reading) })).pumpChannel k
  else d

/-- A piece of channel k has ended with a code (0: it completed). The first code of a command that is not 0 ends it; a
piece of a command that has ended counts no bytes (R420). -/
def pieceEnd (d : Dev) (k id code : Nat) : Dev :=
  match (d.channel k).pieces.find? (·.id == id) with
  | none => d
  | some p =>
    let here := p.cmd == (d.channel k).cmd
    let d := d.updChannel k (fun c => { c with pieces := c.pieces.filter (·.id != id) })
    let d := if !here then d
      else if code = 0 then d.wrapAdd (R.SH_RQ_DONE_BYTES_BYTES k) p.len
      else d.failChannel k code
    d.pumpChannel k

/-- A local read of channel k's piece is delivered. -/
def channelReadDone (d : Dev) (k id a : Nat) (poison : Bool) (bytes : List Byte) : Dev :=
  (d.updPiece k id (fun p => { p with due := p.due - 1, poison := p.poison || poison, data := p.data ++ [(a, bytes)] })).pumpChannel k

/-- A local write of channel k's piece is taken, or a local access of it refused (R420, R540). -/
def channelStep (d : Dev) (k id : Nat) (denied : Bool) : Dev :=
  let d := d.updPiece k id (fun p => { p with due := p.due - 1, poison := p.poison || denied })
  match (d.channel k).pieces.find? (·.id == id) with
  | some p =>
    let d := if denied && p.cmd == (d.channel k).cmd then d.failChannel k 11 else d
    if p.phase = .writing ∧ p.due = 0 then d.pieceEnd k id (if p.poison then 11 else 0) else d.pumpChannel k
  | none => d

/-! The mailbox and notices (R422, R423). -/

/-- End the mailbox's request. -/
def rmtEnd (d : Dev) (result : Nat) : Dev :=
  (d.setFlds [(R.SH_RMT_STATUS_BUSY, 0), (R.SH_RMT_STATUS_RESULT, result)]).event R.SH_STATUS [9]

/-- RMT_GO (R422). -/
def rmtGo (d : Dev) : Dev :=
  if d.flag R.SH_RMT_STATUS_BUSY then d
  else
    let dest := d.fld R.SH_RMT_CTRL_DEST
    if dest = 0 ∨ dest = d.unitAddr then d.rmtEnd 10
    else
      let wr := d.flag R.SH_RMT_CTRL_WRITE
      let f := d.newFrame 5 (if wr then 0 else 1) dest
      let f := { f with offset := BitVec.ofNat 32 (d.fld R.SH_RMT_ADDR_OFFSET * 4),
                        arg0 := if wr then d.get R.SH_RMT_DATA else 0 }
      let r := d.sendRequest .mailbox f
      if r.2 then r.1.setFld R.SH_RMT_STATUS_BUSY 1 else d.rmtEnd 9

/-- Send a NOTICE; answers the number that the model gives the frame, by which the pin that sent it is found. -/
def sendNotice (d : Dev) (dest number stamp : Nat) : Dev × Nat :=
  let f := d.newFrame 7 0 dest
  let t := d.sh.nextTxn
  let f := { f with arg0 := BitVec.ofNat 32 number, arg1 := BitVec.ofNat 32 stamp, txn := BitVec.ofNat 16 t }
  (((d.sendFrame f).1).updSh (fun s => { s with nextTxn := (s.nextTxn + 1) % 2 ^ 16 }), t)

/-- Is the notice with that number still unsent? -/
def noticeUnsent (d : Dev) (t : Nat) : Bool :=
  ((d.sh.waiting.map (·.2)) ++ (d.rp.toList.flatMap (fun r => r.classes.toList.flatMap (·.queue)))).any
    (fun i => match i with
      | .device f => f.kind == 7 && f.src.toNat == d.unitAddr && f.txn.toNat == t
      | .time .. => false)

/-- NOTICE_TX (R423), stamped on Calendar A. -/
def noticeTx (d : Dev) : Dev := (d.sendNotice (d.fld R.SH_NOTICE_TX_DEST) (d.fld R.SH_NOTICE_TX_NUMBER) (d.calStamp 0)).1

/-- RING_REQUEST_TIMEOUT (R421). -/
def requestTimeout (d : Dev) (txn : BitVec 16) : Dev :=
  match d.requestOf txn with
  | none => d
  | some o =>
    let fin := fun (d : Dev) (code : Nat) => match o.origin with
      | .mailbox => (d.endRequest txn).rmtEnd code
      | .piece k id => (d.endRequest txn).pieceEnd k id code
    if d.fld R.SH_RING_CFG_RETRIES ≤ o.resends then fin d 8
    else
      let f := { o.frame with flags := o.frame.flags ||| 2 }
      let r := d.sendFrame f
      if r.2 then
        (r.1.updSh (fun s => { s with outstanding := s.outstanding.map (fun q =>
          if q.frame.txn == txn then { q with resends := q.resends + 1 } else q) })).shCount R.SH_RETRY_COUNT_COUNT []
      else fin d 9

/-! Sources (R424, R425). -/

def source (d : Dev) (s : Nat) : SourceSt := at' d.sh.sources s .reset

def updSource (d : Dev) (s : Nat) (f : SourceSt → SourceSt) : Dev := d.updSh (fun x => { x with sources := upd x.sources s f })

/-- The tiles of one frame, in ascending order (R425). -/
def tilePlan (rows rowBytes bandRows p : Nat) : List TilePlan :=
  let bands := (List.range (ceilDiv rows bandRows)).map (fun b => (b * bandRows, min bandRows (rows - b * bandRows)))
  bands.flatMap fun b =>
    if rowBytes = 0 then []
    else if rowBytes ≤ p then
      let k := p / rowBytes
      (List.range (ceilDiv b.2 k)).map (fun i => ⟨b.1 + i * k, 0, min k (b.2 - i * k), rowBytes⟩)
    else (List.range b.2).flatMap fun r =>
      (List.range (ceilDiv rowBytes p)).map (fun i => ⟨b.1 + r, i * p, 1, min p (rowBytes - i * p)⟩)

/-- The clearing that source s reads. -/
def sourceClearing (d : Dev) (s : Nat) : Option Clearing := d.clearings.find? (·.number == d.fld (R.SH_SRC_CLR_CLEARING s))

/-- The byte ranges of a tile in the source's clearing. -/
def tileRows (d : Dev) (s : Nat) (c : Clearing) (t : TilePlan) : List (Nat × Nat) :=
  (List.range t.rows).map fun r =>
    (c.base + d.fld (R.SH_SRC_OFF_OFF s) + (t.row + r) * d.fld (R.SH_SRC_PITCH_PITCH s) + t.byte, t.bytes)

/-- Source s records an error (R424). -/
def sourceErr (d : Dev) (s e : Nat) : Dev := (d.setFld (R.SH_SRC_STATE_ERR s) e).event R.SH_STATUS [6]

/-- Source s gives up its trigger with an error. -/
def sourceFail (d : Dev) (s e : Nat) : Dev := ((d.updSource s (fun _ => .reset)).setFld (R.SH_SRC_STATE_BUSY s) 0).sourceErr s e

/-- Read source s's first remaining tile; with none left, FRAME counts and the source is no longer busy. A refused
read ends the trigger with ERR 1 (R540). -/
def sourceRead (d : Dev) (s : Nat) : Dev :=
  match (d.source s).tiles, d.sourceClearing s with
  | [], _ => (d.wrapAdd (R.SH_SRC_STATE_FRAME s) 1).setFld (R.SH_SRC_STATE_BUSY s) 0
  | _ :: _, none => d.sourceFail s 1
  | t :: _, some c =>
    let rs := (d.tileRows s c t).flatMap (fun r => readRequests (portRequester (d.source s).port) r.1 r.2 (.sourceRead s))
    let r := d.issueAll rs
    if r.2.2 then r.1.sourceFail s 1
    else r.1.updSource s (fun x => { x with due := r.2.1, data := [], poison := false })

/-- Queue source s's tile once its reads are complete and the port has room, and go on to the next. A poisoned one is
sent with POISON = 1, and ERR records 5 (R424). -/
def sourceQueue (d : Dev) (s : Nat) : Dev :=
  let x := d.source s
  match x.tiles, d.sourceClearing s with
  | t :: rest, some c =>
    if x.due ≠ 0 then d
    else
      let dest := d.fld (R.SH_SRC_CTRL_DEST s)
      let f := d.newFrame 3 0 dest
      let data := (d.tileRows s c t).flatMap (fun r => if x.poison then List.replicate r.2 0 else gatherRange x.data r.1 r.2)
      let f := { f with
        tag := BitVec.ofNat 16 (d.fld (R.SH_SRC_CTRL_STREAM s)), frame := BitVec.ofNat 16 (d.fld (R.SH_SRC_STATE_FRAME s)),
        offset := BitVec.ofNat 32 (t.row * 65536 + t.byte), arg0 := BitVec.ofNat 32 (t.rows * 65536 + t.bytes),
        flags := BitVec.ofNat 8 (b2n x.poison + 4 * b2n c.isProtected), owner := BitVec.ofNat 8 c.owner,
        length := BitVec.ofNat 16 (data.length + 16 * b2n c.isProtected), payload := data }
      match d.routeOf dest with
      | none => d.sourceFail s 3
      | some p =>
        if !d.canQueue p (.device f) then d
        else
          let d := if x.poison then d.setFld (R.SH_SRC_STATE_ERR s) 5 else d
          let d := (d.queueItem p (.device f)).updSource s (fun x => { x with tiles := rest, data := [], poison := false })
          d.sourceRead s
  | _, _ => d

/-- SOURCE_SEND, and the harvest point of an AUTO source's head (R424): DEST, then the clearing by R417, then the
span. -/
def sourceTrigger (d : Dev) (s : Nat) : Dev :=
  if !d.flag (R.SH_SRC_CTRL_EN s) then d
  else
    let dest := d.fld (R.SH_SRC_CTRL_DEST s)
    let rows := d.fld (R.SH_SRC_SIZE_ROWS s)
    let rb := d.fld (R.SH_SRC_SIZE_ROW_BYTES s)
    let off := d.fld (R.SH_SRC_OFF_OFF s)
    if d.flag (R.SH_SRC_STATE_BUSY s) then d.sourceErr s 4
    else if dest = 0 ∨ dest = d.unitAddr then d.sourceErr s 6
    else match d.sourceClearing s with
      | none => d.sourceErr s 1
      | some c =>
        let port := (d.routeOf dest).getD 1
        let q := probe port c.base false
        match d.refusal q with
        | some why => (d.logRefusal q why).sourceErr s 1
        | none =>
          if c.size < off + (rows - 1) * d.fld (R.SH_SRC_PITCH_PITCH s) + rb then d.sourceErr s 2
          else if (d.routeOf dest).isNone then d.sourceErr s 3
          else
            let plan := tilePlan rows rb (d.fld (R.SH_SRC_CTRL_BAND_ROWS_M1 s) + 1) (if c.isProtected then 9136 else 9152)
            let d := d.updSource s (fun _ => ⟨plan, 0, [], false, port⟩)
            (d.setFlds [(R.SH_SRC_STATE_BUSY s, 1), (R.SH_SRC_STATE_ERR s, 0)]).sourceRead s

/-- A read of source s is delivered, or refused. -/
def sourceDone (d : Dev) (s a : Nat) (denied poison : Bool) (bytes : List Byte) : Dev :=
  if denied then d.sourceFail s 1
  else (d.updSource s (fun x => { x with
    due := x.due - 1, poison := x.poison || poison, data := x.data ++ [(a, bytes)] })).sourceQueue s

/-- The harvest point of head h triggers its AUTO sources (R424). -/
def sourceHarvest (d : Dev) (h : Nat) : Dev :=
  (List.range 8).foldl (fun d s =>
    if d.flag (R.SH_SRC_CTRL_AUTO s) && d.fld (R.SH_SRC_CTRL_HEAD s) == h then d.sourceTrigger s else d) d

/-! Receiving streams (R426 to R429). -/

def stream (d : Dev) (m : Nat) : StreamSt := at' d.sh.streams m .reset

def updStream (d : Dev) (m : Nat) (f : StreamSt → StreamSt) : Dev := d.updSh (fun x => { x with streams := upd x.streams m f })

def strRows (d : Dev) (m : Nat) : Nat := d.fld (R.SH_STR_SIZE_ROWS m)
def strRowBytes (d : Dev) (m : Nat) : Nat := d.fld (R.SH_STR_SIZE_ROW_BYTES m)
def strBandRows (d : Dev) (m : Nat) : Nat := d.fld (R.SH_STR_CTRL_BAND_ROWS_M1 m) + 1
def strFrame (d : Dev) (m : Nat) : Nat := d.fld (R.SH_STR_STATE_SFRAME m)

/-- The clearing of stream m. -/
def strClearing (d : Dev) (m : Nat) : Option Clearing := d.clearings.find? (·.number == d.fld (R.SH_STR_CTRL_CLEARING m))

/-- B0 of stream m (R426). -/
def strBase (d : Dev) (m : Nat) : Nat :=
  (match d.strClearing m with | some c => c.base | none => 0) + d.fld (R.SH_STR_BUF_OFF_OFF m)

/-- The first failed check of a stream's EN (R426); 0 if none. A stream of no rows has no band, which R445 does not
admit. -/
def strCheck (d : Dev) (m : Nat) : Nat :=
  let off := d.fld (R.SH_STR_BUF_OFF_OFF m)
  let stride := d.fld (R.SH_STR_BUF_STRIDE_STRIDE m)
  let pitch := d.fld (R.SH_STR_PITCH_PITCH m)
  match d.strClearing m with
  | none => 1
  | some c =>
    if !c.ringVisible then 1
    else if (match d.fp.leRec (d.fld (R.SH_STR_CTRL_LE m)) with
      | some r => r.head != d.fld (R.SH_STR_CTRL_HEAD m) | none => true) then 2
    else if off % 64 ≠ 0 ∨ stride % 64 ≠ 0 ∨ pitch < d.strRowBytes m ∨ d.strRows m = 0 ∨
      64 < ceilDiv (d.strRows m) (d.strBandRows m) then 3
    else if stride < (d.strRows m - 1) * pitch + d.strRowBytes m ∨ c.size < off + 2 * stride then 4
    else 0

/-- STREAM_ENABLE: a write of EN (R426). -/
def strEnable (d : Dev) (m : Nat) (en : Bool) : Dev :=
  if !en then d.setFld (R.SH_STR_CTRL_EN m) 0
  else
    let e := d.strCheck m
    let d := d.setFlds [(R.SH_STR_STATE_ERR m, e), (R.SH_STR_CTRL_EN m, b2n (e == 0))]
    if e ≠ 0 then d.event R.SH_STATUS [6]
    else (d.updStream m (fun _ => .reset)).setFlds [(R.SH_STR_STATE_SFRAME m, 0),
      (R.SH_STR_STATE_BANDS m, ceilDiv (d.strRows m) (d.strBandRows m))]

/-- The enabled stream bound to an engine. -/
def streamOf (d : Dev) (le : Nat) : Option Nat :=
  (List.range 16).find? (fun m => d.flag (R.SH_STR_CTRL_EN m) && d.fld (R.SH_STR_CTRL_LE m) == le)

/-- Band b of the frame in progress is complete (R428). -/
def bandDone (d : Dev) (m b : Nat) : Bool :=
  let rows := min (d.strBandRows m) (d.strRows m - b * d.strBandRows m)
  match (d.stream m).now[b]? with
  | some s => decide (rows * d.strRowBytes m ≤ s.bytes)
  | none => false

/-- SFRAME advances at the preload of a new frame (R427, R428). -/
def strAdvance (d : Dev) (m : Nat) : Dev :=
  (d.updStream m (fun s => ⟨s.next, .replicate 64 .reset⟩)).wrapAdd (R.SH_STR_STATE_SFRAME m) 1

/-- Where a plane-0 request of an engine with stream m goes (R427), or the band that is not complete (R429). A request
outside the buffer, or of a row past ROWS, is not checked. -/
def strTranslate (d : Dev) (m a : Nat) : Nat × Option Nat :=
  let b0 := d.strBase m
  let stride := d.fld (R.SH_STR_BUF_STRIDE_STRIDE m)
  if b0 ≤ a ∧ a < b0 + stride then
    let r := (a - b0) / max 1 (d.fld (R.SH_STR_PITCH_PITCH m))
    let a' := a + d.strFrame m % 2 * stride
    if d.strRows m ≤ r then (a', none)
    else
      let b := r / d.strBandRows m
      (a', if d.bandDone m b then none else some b)
  else (a, none)

/-- A band is closed late (R429). -/
def closeBand (d : Dev) (m b : Nat) : Dev :=
  match (d.stream m).now[b]? with
  | some s =>
    if s.closed then d
    else
      let d := d.updStream m (fun x => { x with now := x.now.set b { s with closed := true } })
      (d.setFlds [(R.SH_STR_LATE_FRAME m, d.strFrame m), (R.SH_STR_LATE_BAND m, b)]).shCount R.SH_LATE_COUNT_COUNT [0]
  | none => d

/-- Change band b of the frame with number `frame` of stream m, if it is still kept. -/
def updBand (d : Dev) (m frame b : Nat) (f : BandSt → BandSt) : Dev :=
  let k := (frame + 65536 - d.strFrame m) % 65536
  let app := fun (l : List BandSt) => match l[b]? with | some s => l.set b (f s) | none => l
  if k = 0 then d.updStream m (fun x => { x with now := app x.now })
  else if k = 1 then d.updStream m (fun x => { x with next := app x.next }) else d

/-! Transmission (R436). -/

/-- The frame at the head of class c of port n. -/
def headFrame (d : Dev) (n c : Nat) : Option TxItem := (d.classOf n c).queue.head?

/-- Is class c ready on port n and allowed by its peak bucket (R434, R441)? -/
def peakOk (d : Dev) (n c : Nat) : Bool :=
  match d.headFrame n c with
  | none => false
  | some f => d.flag (R.SH_TC_PIR_MBPS c) && decide (((f.cost * bucketUnit : Nat) : Int) ≤ (d.classOf n c).peak) &&
      d.gateFits n c f.cost

/-- Is class c committed-eligible (R434)? -/
def committedOk (d : Dev) (n c : Nat) : Bool :=
  d.peakOk n c && d.flag (R.SH_TC_CIR_MBPS c) && decide (0 ≤ (d.classOf n c).committed)

/-- The deficit round robin of R436 over a set of classes: the class that sends. `fuel` bounds the visits (R437). -/
def drr (d : Dev) (n : Nat) (set : List Nat) : Nat → Dev × Option Nat
  | 0 => (d, none)
  | fuel + 1 =>
    let c := (d.rpOf n).ptr
    let on := fun (d : Dev) => d.updRp n (fun r => { r with ptr := (c + 1) % 6 })
    if set.contains c then
      let d := if (d.classOf n c).fresh then
          d.updClass n c (fun s => { s with deficit := s.deficit + d.fld (R.SH_TC_QUANTUM_BYTES c), fresh := false }) else d
      let l := match d.headFrame n c with | some f => f.cost | none => 0
      if l ≤ (d.classOf n c).deficit then
        let d := d.updClass n c (fun s => { s with deficit := s.deficit - l })
        (if (d.classOf n c).queue.length ≤ 1 then on (d.updClass n c (fun s => { s with deficit := 0, fresh := true })) else d,
          some c)
      else drr (on (d.updClass n c (fun s => { s with fresh := true }))) n set fuel
    else
      let d := if (d.classOf n c).queue.isEmpty then d.updClass n c (fun s => { s with deficit := 0 }) else d
      drr (on (d.updClass n c (fun s => { s with fresh := true }))) n set fuel

/-- Choose the next class of port n, and whether its transmission is committed (R436). -/
def txChoose (d : Dev) (n : Nat) : Dev × Option (Nat × Bool) :=
  if d.peakOk n 7 then (d, some (7, false))
  else if d.peakOk n 6 then (d, some (6, false))
  else
    let committed := (List.range 6).filter (d.committedOk n)
    let excess := (List.range 6).filter (d.peakOk n)
    if !committed.isEmpty then (let r := d.drr n committed 900; (r.1, r.2.map (fun c => (c, true))))
    else if !excess.isEmpty then (let r := d.drr n excess 900; (r.1, r.2.map (fun c => (c, false))))
    else (d, none)

/-- The content key of an owner of the key policy in force (R58, R414). -/
def ownerKey (d : Dev) (owner : Nat) : Option (List Byte) :=
  match d.fp.owner owner with
  | some o => (d.shadow.pages.find? (·.1 == 8 + o.keySlot)).map (·.2)
  | none => none

/-- Seal a protected frame of this unit as it is transmitted (R414); a forwarded frame holds its tag already. -/
def sealFrame (d : Dev) (f : RingFrame) : Dev × RingFrame :=
  if f.isProtected && decide (f.payload.length < f.length.toNat) then
    let iv := (Config.ringIv d.sh.ivPrefix).toNat * 2 ^ 64 + d.sh.ivCount
    let key := (d.ownerKey f.owner.toNat).getD []
    (d.updSh (fun s => { s with ivCount := (s.ivCount + 1) % 2 ^ 64 }),
      { f with iv := BitVec.ofNat 96 iv, payload := gcmSeal key iv (RingFrame.aad f) f.payload })
  else (d, f)

/-- The sources that wait for room go on (R432). -/
def resumeSources (d : Dev) : Dev := (List.range 8).foldl (fun d s => d.sourceQueue s) d

/-- Waiting local frames take the room of port n's buffer, then the sources go on (R432). -/
def drainWaiting (d : Dev) (n : Nat) : Nat → Dev
  | 0 => d
  | fuel + 1 =>
    match d.sh.waiting.find? (·.1 == n) with
    | some w =>
      if d.hasRoom n w.2 then
        drainWaiting ((d.updSh (fun s => { s with waiting := s.waiting.erase w })).queueItem n w.2) n fuel
      else d
    | none => d.resumeSources

/-- A frame as it leaves port n: a device frame of this unit is sealed (R414), a time message takes its timestamps.
None: it does not leave. -/
def departing (d : Dev) (n : Nat) (i : TxItem) : Dev × Option OutMsg :=
  match i with
  | .device f => let q := d.sealFrame f; (q.1, some (.ringFrame n q.2 (RingFrame.wire q.2)))
  | .time m x arrived =>
    let q := d.stamped n x arrived m
    match q.2 with
    | some m => (q.1.countMsg (R.TS_RP_TX_MSGS_COUNT n), some (.timeFrame n m.address m))
    | none => (q.1, none)

/-- RP_TX_SELECT: port n, free, picks and sends its next frame (R436). -/
def txSelect (d : Dev) (n : Nat) : Dev :=
  if !d.rpSends n then d
  else
    let r := (d.accrue n).txChoose n
    match r.2 with
    | none => r.1
    | some (c, committed) =>
      match r.1.headFrame n c with
      | none => r.1
      | some i =>
        let debit : Int := ((i.cost * bucketUnit : Nat) : Int)
        let d := r.1.updClass n c (fun s => { s with queue := s.queue.drop 1 })
        let q := d.departing n i
        let d := match q.2 with
          | none => q.1
          | some o => ((q.1.updClass n c (fun s => { s with
              peak := s.peak - debit, committed := if committed then s.committed - debit else s.committed })).count64
                (R.RP_TX_FRAMES n 0) (R.RP_TX_FRAMES n 1) 1 ⟨R.RP_STATUS n, 5, 5⟩).emit o
        d.drainWaiting n (d.sh.waiting.length + 1)

/-! Links (R409). -/

/-- Is port n held in reset (R87, R409)? -/
def rpHeld (d : Dev) : Bool := d.unitAddr == 0

/-- RP_LINK_UP (R409). -/
def rpLinkUp (d : Dev) (n : Nat) : Dev :=
  if d.rpHeld || !d.flag (R.RP_CTRL_EN n) || d.linkUp n then d
  else
    let d := d.updTsPort n (fun q => { q with measured := false, exchange := none })
    (d.setFlds [(R.RP_STATUS_LINK n, 1), (R.RP_STATUS_FEC_LOCK n, 1)]).event (R.RP_STATUS n) [0]

/-- Discard every frame queued on port n, and those that wait for room there. -/
def flushPort (d : Dev) (n : Nat) : Dev :=
  (d.updRp n (fun r => { r with classes := r.classes.map (fun c => { c with queue := [] }) })).updSh
    (fun s => { s with waiting := s.waiting.filter (·.1 != n) })

/-- The link of port n goes down (R409). -/
def rpLinkDown (d : Dev) (n : Nat) : Dev :=
  if !d.linkUp n then d
  else
    let d := (d.flushPort n).updTsPort n (fun q => { q with measured := false, exchange := none })
    ((d.setFlds [(R.RP_STATUS_LINK n, 0), (R.RP_STATUS_FEC_LOCK n, 0)]).event (R.RP_STATUS n) [1]).resumeSources

end Dev

end Sys2Proof.Machine
end

