-- ==== Sys2Proof/Machine/EventPins.lean ====
section
/-!
DEFINITION. The event pins (R469 to R474, R480, R481). Times of a schedule are in units of 2⁻³² ns.
-/
namespace Sys2Proof.Machine

/-- Nanoseconds in units of 2⁻³² ns, and the range of a calendar in them. -/
def fineNs : Nat := 2 ^ 32
def fineWrap : Nat := calWrap * 65536

/-- a − b on a calendar in fine units, as the nearest signed difference. -/
def fineDiff (a b : Nat) : Int :=
  let k := (a + fineWrap - b % fineWrap) % fineWrap
  if k < fineWrap / 2 then (k : Int) else (k : Int) - (fineWrap : Nat)

/-- The time of pulse k of a schedule (R470). -/
def Schedule.time (s : Schedule) (k : Nat) : Nat := (s.start + k * s.period) % fineWrap

/-- Has a schedule a pulse k? -/
def Schedule.has (s : Schedule) (k : Nat) : Bool := match s.count with | none => true | some n => decide (k < n)

namespace Dev

def pin (d : Dev) (n : Nat) : EvPin := at' d.ev n .reset

def updPin (d : Dev) (n : Nat) (f : EvPin → EvPin) : Dev := { d with ev := upd d.ev n f }

/-- MODE of a pin; codes 5 to 7 act as OFF (R469). -/
def pinMode (d : Dev) (n : Nat) : Nat := let m := d.fld (R.EV_CTRL_MODE n); if 4 < m then 0 else m

/-- The time of a calendar choice in fine units (R480). -/
def fineNow (d : Dev) (cal : Nat) : Nat := d.viewTime cal * 65536

/-- An event of pin n with a saturating counter. -/
def pinCount (d : Dev) (n : Nat) (f : Fld) (evs : List Nat) : Dev :=
  d.count f 1 ⟨R.EV_STATUS n, 5, 5⟩ (evs.map (fun b => ⟨R.EV_STATUS n, b, b⟩))

/-- Put an output at its active or inactive level (R469); in the parity safe state every output is inactive (R149). -/
def drivePin (d : Dev) (n : Nat) (active : Bool) : Dev :=
  let a := active && !d.isSafe Block.EV.base
  (d.updPin n (fun p => { p with high := active })).setFld (R.EV_STATUS_PIN n) (b2n (a != d.flag (R.EV_CTRL_POL n)))

/-- The pin as its mode and level stand: LEVEL mode drives LEVEL, the pulse modes their present level. -/
def settlePin (d : Dev) (n : Nat) : Dev :=
  match d.pinMode n with
  | 2 => d.drivePin n (d.pin n).high
  | 4 => d.drivePin n (d.pin n).high
  | 3 =>
    if d.isSafe Block.EV.base then d.drivePin n false
    else d.setFld (R.EV_STATUS_PIN n) (d.fld (R.EV_CTRL_LEVEL n))
  | _ => d

/-- The schedule of pin n has ended (R470): DONE, ARMED clear. A notice's pulse was never ARMED. -/
def pinDone (d : Dev) (n : Nat) : Dev :=
  match (d.pin n).schedule with
  | none => d
  | some s =>
    let d := d.updPin n (fun p => { p with schedule := none })
    if s.notice then d else (d.setFld (R.EV_STATUS_ARMED n) 0).event (R.EV_STATUS n) [1]

/-- The pulse in progress ends; so does the schedule after its last pulse. -/
def pulseOff (d : Dev) (n : Nat) (s : Schedule) : Dev :=
  let d := (d.updPin n (fun p => { p with schedule := some { s with off := none } })).drivePin n false
  if s.has s.k then d else d.pinDone n

/-- A pulse of pin n begins; its inactive edge is due at `off`; `k` is the next pulse. -/
def pulseOn (d : Dev) (n : Nat) (s : Schedule) (k off : Nat) : Dev :=
  ((d.updPin n (fun p => { p with schedule := some { s with k := k, off := some off } })).drivePin n true).pinCount n
    (R.EV_EDGES_COUNT n) []

/-- The first pulse from k on at or after a time (R472). -/
def resumeAt (s : Schedule) (t : Nat) : Nat :=
  let lag := fineDiff t (s.time s.k)
  if lag ≤ 0 then s.k else if s.period = 0 then s.k + 1 else s.k + ceilDiv lag.toNat s.period

/-- Record a late edge's time in LATE_S and LATE_NS, with its events (R472). -/
def recordLate (d : Dev) (n t : Nat) (evs : List Nat) : Dev :=
  let ns := t / fineNs
  (d.setFlds [(R.EV_LATE_S_S n, ns / 1000000000), (R.EV_LATE_NS_NS n, ns % 1000000000)]).event (R.EV_STATUS n) evs

/-- If pin n's next active edge is late at t_a, act on it (R472). -/
def judgeLate (d : Dev) (n : Nat) : Dev :=
  match (d.pin n).schedule with
  | none => d
  | some s =>
    let ta := d.fineNow s.cal
    if !s.has s.k || decide (((200 * fineNs : Nat) : Int) ≤ fineDiff (s.time s.k) ta) then d
    else if d.flag (R.EV_CTRL_SKIP_LATE n) then
      let k := resumeAt s ((ta + 200 * fineNs) % fineWrap)
      let d := (d.updPin n (fun p => { p with schedule := some { s with k := k } })).recordLate n ta [2, 4]
      if s.has k || s.off.isSome then d else d.pinDone n
    else
      let e := (ta + Config.lateLead d.freeCount % 201 * fineNs) % fineWrap
      let off := (e + s.width) % fineWrap
      let k := resumeAt s ((off + 20 * fineNs) % fineWrap)
      (d.fresh.recordLate n e [2]).pulseOn n s k off

/-- EV_ARM (R470, R474): only in SCHEDULE mode. -/
def evArm (d : Dev) (n : Nat) : Dev :=
  if d.pinMode n ≠ 2 then d
  else
    let pns := d.fld (R.EV_PERIOD_NS_NS n)
    let period := if pns = 0 then 0 else pns * fineNs + d.fld (R.EV_PERIOD_FRAC_FRAC n)
    let width := d.fld (R.EV_WIDTH_NS n) * fineNs
    let count := d.fld (R.EV_COUNT_COUNT n)
    let one := decide (period = 0 ∨ count = 1)
    if width < 10 * fineNs ∨ (period ≠ 0 ∧ period < 40 * fineNs) ∨ (one = false ∧ period < width + 20 * fineNs) then
      d.setFld (R.EV_CAP_INFO_ERR n) 1
    else
      let cal := d.fld (R.EV_CTRL_CAL n)
      let start := nearestTime (d.viewTime cal) (d.fld (R.EV_START_S_S n)) (d.fld (R.EV_START_NS_NS n)) * 65536
      let s : Schedule := ⟨start, period, width, if period = 0 then some 1 else if count = 0 then none else some count, 0,
        cal, none, false⟩
      let d := (d.updPin n (fun p => { p with schedule := some s })).drivePin n false
      (d.setFlds [(R.EV_CAP_INFO_ERR n, 0), (R.EV_STATUS_ARMED n, 1)]).judgeLate n

/-- EV_DISARM (R470): a pulse in progress ends at once. -/
def evDisarm (d : Dev) (n : Nat) : Dev :=
  match (d.pin n).schedule with
  | none => d
  | some _ => (d.drivePin n false).pinDone n

/-- EV_MODE_WRITE (R469): the mode changes at once, and any schedule is disarmed. On an unconfigured unit 2, 3 and 4
are stored as 0. -/
def evMode (d : Dev) (n m : Nat) : Dev :=
  let d := d.evDisarm n
  let m := m % 8
  let d := d.setFld (R.EV_CTRL_MODE n) (if !d.configured ∧ 2 ≤ m ∧ m ≤ 4 then 0 else m)
  (d.updPin n (fun p => { p with high := false })).settlePin n

/-- Show the head of pin n's FIFO (R473, R481). -/
def showFifo (d : Dev) (n : Nat) : Dev :=
  let q := (d.pin n).fifo
  let d := d.setFlds [(R.EV_STATUS_FIFO_LEVEL n, q.length), (R.EV_CAP_INFO_VALID n, b2n (!q.isEmpty))]
  match q with
  | e :: _ => d.setFlds [(R.EV_CAP_INFO_LEVEL n, b2n e.2), (R.EV_CAP_TS_TS n, e.1)]
  | [] => d

/-- EV_POP (R473). -/
def evPop (d : Dev) (n : Nat) : Dev := (d.updPin n (fun p => { p with fifo := p.fifo.drop 1 })).showFifo n

/-- EV_SCHEDULED_EDGE: the next edge of pin n's schedule has come (R470, R471). -/
def evEdge (d : Dev) (n : Nat) : Dev :=
  match (d.pin n).schedule with
  | none => d
  | some s =>
    match s.off with
    | some _ => d.pulseOff n s
    | none => if s.has s.k then d.pulseOn n s (s.k + 1) ((s.time s.k + s.width) % fineWrap) else d.pinDone n

/-- A queued edge broadcasts its notice (R473). -/
def pinNotice (d : Dev) (n : Nat) : Dev :=
  if !d.flag (R.EV_CTRL_NOTICE_EN n) then d
  else if (match (d.pin n).notice with | some t => d.noticeUnsent t | none => false) then d.pinCount n (R.EV_MISS_COUNT n) []
  else
    let r := d.sendNotice 0 (d.fld (R.EV_CTRL_NUMBER n)) (d.calStamp 0)
    r.1.updPin n (fun p => { p with notice := some r.2 })

/-- A filtered edge at a capture pin (R473); the HPD path is `Links.lean`'s. -/
def evCapture (d : Dev) (n : Nat) (level : Bool) : Dev :=
  if d.pinMode n ≠ 1 then (if d.pinMode n = 0 then d.setFld (R.EV_STATUS_PIN n) (b2n level) else d)
  else
    let d := d.setFld (R.EV_STATUS_PIN n) (b2n level)
    if !bit (d.fld (R.EV_CTRL_EDGE n)) (if level then 0 else 1) then d
    else if 16 ≤ (d.pin n).fifo.length then d.pinCount n (R.EV_MISS_COUNT n) [3]
    else
      let stamp := d.viewTime (d.fld (R.EV_CTRL_CAL n)) / nsUnits % 2 ^ 32
      let d := (d.updPin n (fun p => { p with fifo := p.fifo ++ [(stamp, level)] })).showFifo n
      (d.pinCount n (R.EV_EDGES_COUNT n) [0]).pinNotice n

/-- A notice reaches the pins in NOTICE mode (R473): one pulse at its time plus DELAY, on Calendar A. -/
def evNotice (d : Dev) (number stamp : Nat) : Dev :=
  (List.range 48).foldl (fun d n =>
    if d.pinMode n ≠ 4 ∨ d.fld (R.EV_CTRL_NUMBER n) ≠ number then d
    else if (d.pin n).schedule.isSome then d.pinCount n (R.EV_MISS_COUNT n) []
    else
      let t := extendStamp stamp (d.calNow 0) * 65536
      let delay := signed 32 (d.fld (R.EV_DELAY_NS n)) * ((fineNs : Nat) : Int)
      let start := (((t : Int) + delay) % ((fineWrap : Nat) : Int)).toNat
      let s : Schedule := ⟨start, 0, d.fld (R.EV_WIDTH_NS n) * fineNs, some 1, 0, 0, none, true⟩
      (d.updPin n (fun p => { p with schedule := some s })).judgeLate n) d

/-- After an accepted step of calendar x by `by'` (2⁻¹⁶ ns): a forward step ends the pulses whose inactive edge it
crosses and makes edges late; a backward step delays later edges with the calendar (R472, R476). -/
def pinsStepped (d : Dev) (x : Nat) (by' : Int) : Dev :=
  if by' ≤ 0 then d
  else (List.range 48).foldl (fun d n =>
    match (d.pin n).schedule with
    | none => d
    | some s =>
      if (if s.cal = 2 then d.activeNow else if s.cal = 1 then 1 else 0) ≠ x then d
      else
        let d := match s.off with
          | some off => if fineDiff off (d.fineNow s.cal) ≤ 0 then d.pulseOff n s else d
          | none => d
        d.judgeLate n) d

/-- Do f, which may step calendar x; pins follow the step (R459, R465). -/
def steppingCal (d : Dev) (x : Nat) (f : Dev → Dev × Bool) : Dev :=
  let old := d.calNow x
  let r := f d
  if r.2 then r.1.pinsStepped x (calDiff (r.1.calNow x) old) else r.1

/-- Do f, in which servos may step calendars. -/
def steppingServo (d : Dev) (f : Dev → Dev × List Nat) : Dev :=
  let r := f d
  r.2.foldl (fun e x => e.pinsStepped x (calDiff (r.1.calNow x) (d.calNow x))) r.1

/-- Every pin as at the SRST of EV: schedules end, FIFOs empty, outputs release (R476). -/
def evClear (d : Dev) : Dev := { d with ev := .replicate 48 .reset }

end Dev

end Sys2Proof.Machine
end

