-- ==== Sys2Proof/Machine/Links.lean ====
section
/-!
DEFINITION. The DisplayPort links (chapter 10): capacity and the LINK check, hot-plug detect, AUX, training, the
stream, HDCP and the System Renewability Message.
-/
namespace Sys2Proof.Machine

/-- The slots of an OTP image that are programmed, as KY_SLOT_PROG numbers them (R406): PK 0 to 7, CK 8 to 23,
HDCP_PUB 24 (once its seven pages are), HDCP_LC 25. Pages of HDCP_PUB are held under 0x100 and up. -/
def Otp.programmed (o : Otp) : Nat :=
  let has := fun k => o.pages.any (·.1 == k)
  ((List.range 26).filter (fun k => if k = 24 then (List.range 7).all (fun p => has (0x100 + p)) else has k)).foldl
    (fun a k => a + 2 ^ k) 0

/-- The bytes of an OTP page. -/
def Otp.page (o : Otp) (k : Nat) : List Byte := ((o.pages.find? (·.1 == k)).map (·.2)).getD []

namespace Dev

def link (d : Dev) (n : Nat) : DpSt := at' d.dp n .reset

def updLink (d : Dev) (n : Nat) (f : DpSt → DpSt) : Dev := { d with dp := upd d.dp n f }

def trained (d : Dev) (n : Nat) : Bool := bit (d.get (R.DP_LINK_STATUS n)).toNat 16
def hpdLevel (d : Dev) (n : Nat) : Bool := bit (d.get (R.DP_LINK_STATUS n)).toNat 17
def encrypting (d : Dev) (n : Nat) : Bool := bit (d.get (R.DP_LINK_STATUS n)).toNat 18

/-- An event of DPn (R349). -/
def dpEvent (d : Dev) (n b : Nat) : Dev := d.event (R.DP_LINK_STATUS n) [b]

/-! Capacity and the LINK check (R331 to R333). -/

/-- Lanes that LANES names; 3 acts as 2 (R348). -/
def lanes (d : Dev) (n : Nat) : Nat := match d.fld (R.DP_LINK_CTRL_LANES n) with | 0 => 1 | 1 => 2 | _ => 4

/-- C in Mbit/s, rounded down (R331). -/
def linkCap (d : Dev) (n : Nat) : Nat :=
  if !d.trained n then 0
  else match d.fld (R.DP_LINK_CTRL_RATE n) with
    | 0 => d.lanes n * 8100 * 8 * 63 / (10 * 64)
    | 1 => d.lanes n * 10000 * 128 * 63 / (132 * 64)
    | 2 => d.lanes n * 13500 * 128 * 63 / (132 * 64)
    | _ => d.lanes n * 20000 * 128 * 63 / (132 * 64)

/-- Slices per line (R351). -/
def slices (d : Dev) (n : Nat) : Nat := 2 ^ d.fld (R.DP_DSC_CTRL_SLICES n)

/-- Bits of one line on link n (R332). -/
def lineBits (d : Dev) (n hact bpc : Nat) : Nat :=
  if d.flag (R.DP_DSC_CTRL_EN n) then
    d.slices n * 8 * ceilDiv (hact / d.slices n * d.fld (R.DP_DSC_CTRL_BPP_X16 n)) 128
  else hact * 3 * bpc

/-- D in Mbit/s, rounded up (R332); the line period is HTOTAL / (4,000 × KHZ) s (R291). -/
def linkDemand (d : Dev) (n hact htotal khz bpc : Nat) : Nat := ceilDiv (d.lineBits n hact bpc * khz * 4) (htotal * 1000)

/-- The LINK check of head n for a timing (R333): CAUSE, D and C (0 but for cause 2). -/
def linkCheck (d : Dev) (n hact htotal vact khz bpc : Nat) : Nat × Nat × Nat :=
  let dem := d.linkDemand n hact htotal khz bpc
  let cap := d.linkCap n
  let dsc := d.flag (R.DP_DSC_CTRL_EN n)
  let s := d.slices n
  let w := hact / s
  let h := d.fld (R.DP_DSC_SLICE_SLICE_H n)
  let bpp := d.fld (R.DP_DSC_CTRL_BPP_X16 n)
  if !d.trained n || !d.hpdLevel n then (1, 0, 0)
  else if cap < dem then (2, dem, cap)
  else if dsc && (hact % s != 0 || decide (w < 64) || decide (5120 < w) || decide (h < 8) || decide (vact < h) || vact % h != 0)
    then (3, 0, 0)
  else if dsc && (decide (bpp < 128) || decide ((if bpc = 8 then 256 else 320) < bpp)) then (4, 0, 0)
  else (0, 0, 0)

/-! HDCP (R344 to R347). -/

/-- Does link n meet a mark (R345)? A mark is 0 for none, 1 for Type 0, 2 for Type 1. -/
def meets (d : Dev) (n mark : Nat) : Bool :=
  let flags := d.fld (R.DP_HDCP_STATUS_FLAGS n)
  mark == 0 || (d.encrypting n && (mark == 1 || !bit flags 0 ||
    (!bit flags 1 && !bit flags 2 && (d.link n).confirmed == some 1)))

/-- TYPE_OK follows what the link meets (R351). -/
def typeOk (d : Dev) (n : Nat) : Dev :=
  d.setFld (R.DP_HDCP_STATUS_TYPE_OK n) (if d.meets n 2 && d.encrypting n then 2 else if d.meets n 1 then 1 else 0)

/-- The HDCP engine of link n stops: no session, no encryption. -/
def hdcpIdle (d : Dev) (n state : Nat) (reauth : Bool) : Dev :=
  let d := d.updLink n (fun l => { l with
    auth := .idle, revoked := [], ske := none, confirmed := none, requested := none, reauth := reauth })
  (d.setFlds [(R.DP_HDCP_STATUS_STATE n, state), (R.DP_LINK_STATUS_ENCRYPTING n, 0)]).typeOk n

/-- Authentication or the session fails (R344). -/
def hdcpFail (d : Dev) (n code : Nat) : Dev :=
  ((d.hdcpIdle n 6 true).setFld (R.DP_HDCP_STATUS_FAIL n) code).dpEvent n 9

/-- An authentication or session of link n fails, if there is one. -/
def hdcpLost (d : Dev) (n code : Nat) : Dev := if (d.link n).auth = .idle then d else d.hdcpFail n code

/-- HDCP_AUTH_START (R344): AKE begins, with the System Renewability Message in force (R347). -/
def hdcpStart (d : Dev) (n : Nat) : Dev :=
  if !d.trained n || !d.hpdLevel n then d.hdcpFail n 9
  else if !bit d.shadow.programmed 24 || !bit d.shadow.programmed 25 then d.hdcpFail n 1
  else
    let d := d.hdcpIdle n 1 false
    (d.updLink n (fun l => { l with auth := .running, revoked := d.srm })).setFld (R.DP_HDCP_STATUS_FAIL n) 0

/-- HDCP_STOP_AUTH (R344). -/
def hdcpStop (d : Dev) (n : Nat) : Dev := d.hdcpIdle n 0 false

/-- The content stream type that link n asks for: max(TYPE, mark) (R345). -/
def streamType (d : Dev) (n mark : Nat) : Nat := max (d.fld (R.DP_HDCP_CTRL_TYPE n)) (mark - 1)

/-- A Stream_Manage asks for a content stream type (R345). -/
def askType (d : Dev) (n t : Nat) : Dev := (d.updLink n (fun l => { l with requested := some t })).emit (.streamManage n t)

/-- A running authentication goes on to its next stage (R344, R351): locality check, SKE, which notes when
SKE_Send_Eks is sent, and RepeaterAuth, which sends the first Stream_Manage (R345). -/
def hdcpStage (d : Dev) (n : Nat) : Dev :=
  let st := d.fld (R.DP_HDCP_STATUS_STATE n) + 1
  let d := d.setFld (R.DP_HDCP_STATUS_STATE n) st
  if st = 3 then d.updLink n (fun l => { l with ske := some d.raw })
  else if st = 4 then d.askType n (d.streamType n (d.streamMark n)) else d

/-- HDCP_AUTH_END (R344). A repeater has confirmed the first Stream_Manage by then (R345). -/
def hdcpEnd (d : Dev) (n : Nat) (r : HdcpResult) : Dev :=
  if (d.link n).auth ≠ .running then d
  else match r with
    | .failed code => d.hdcpFail n code.val
    | .passed rxid repeater h1 h20 many depth count ids =>
      let d := (d.set (R.DP_HDCP_RXID_LO n) (BitVec.ofNat 32 rxid.toNat)).setFlds
        [(R.DP_HDCP_RXID_HI_RXID n, rxid.toNat / 2 ^ 32), (R.DP_HDCP_STATUS_DEVICE_COUNT n, count.val),
         (R.DP_HDCP_STATUS_DEPTH n, depth.val),
         (R.DP_HDCP_STATUS_FLAGS n, b2n repeater + 2 * b2n h1 + 4 * b2n h20 + 8 * b2n many)]
      if (rxid :: ids).any (fun i => (d.link n).revoked.contains i.toNat) then d.hdcpFail n 3
      else if many then d.hdcpFail n 7
      else
        let d := if repeater && (d.link n).requested.isNone then d.askType n (d.streamType n (d.streamMark n)) else d
        let d := d.updLink n (fun l => { l with
          auth := .session, ske := some (l.ske.getD d.raw), confirmed := if repeater then l.requested else none,
          requested := none })
        ((d.setFld (R.DP_HDCP_STATUS_STATE n) 5).typeOk n).dpEvent n 8

/-- HDCP_REAUTH_TIMER (R344). -/
def hdcpReauth (d : Dev) (n : Nat) : Dev :=
  if d.flag (R.DP_HDCP_CTRL_AUTO_REAUTH n) && (d.link n).reauth then d.hdcpStart n else d

/-- A new Stream_Manage where the mark's type rises above the type last confirmed (R345). -/
def streamManage (d : Dev) (n mark : Nat) : Dev :=
  let l := d.link n
  let t := d.streamType n mark
  match l.confirmed with
  | some c =>
    if c < mark - 1 ∧ l.requested ≠ some t then
      d.askType n t
    else d
  | none => d

/-- STREAM_MANAGE_CONFIRMED (R345). -/
def manageConfirmed (d : Dev) (n : Nat) : Dev :=
  match (d.link n).requested with
  | some t => (d.updLink n (fun l => { l with confirmed := some t, requested := none })).typeOk n
  | none => d

/-- ENCRYPTION_ENABLE (R345): a session's stream that is marked, or ENC_EN. -/
def encryptStart (d : Dev) (n : Nat) : Dev :=
  if (d.link n).auth = .session ∧ (d.streamMark n ≠ 0 ∨ d.flag (R.DP_HDCP_CTRL_ENC_EN n)) then
    (d.setFld (R.DP_LINK_STATUS_ENCRYPTING n) 1).typeOk n
  else d

/-- The link's part of a frame start with a mark (R345): encryption 200 ms after SKE, and Stream_Manage. -/
def linkFrameStart (d : Dev) (n mark : Nat) : Dev :=
  let d := match (d.link n).ske with
    | some t => if 160000000 ≤ rawSince d.raw t then d.encryptStart n else d
    | none => d
  d.streamManage n mark

/-- The bytes of DP0_SRM_BUF. -/
def srmBytes (d : Dev) : List Byte := (List.range 8192).flatMap (fun k => toLe 4 (d.get (R.DP0_SRM_BUF k)).toNat)

/-- SRM_LOAD (R347). -/
def srmLoad (d : Dev) : Dev :=
  let m := d.srmBytes
  let key := (List.range 7).flatMap (fun p => d.shadow.page (0x100 + p))
  if bit d.shadow.programmed 24 && Config.srmOk key m && decide (d.fld (R.DP0_SRM_CTRL_VERSION) ≤ (Config.srmVersion m).toNat)
  then ({ d with srm := Config.srmIds m }).setFld (R.DP0_SRM_CTRL_VERSION) (Config.srmVersion m).toNat
  else d.dpEvent 0 11

/-! Training (R338 to R340). -/

/-- STREAM: the link carries video while it is trained and the head's timing runs (R341, R349). -/
def showStream (d : Dev) (n : Nat) : Dev :=
  d.setFld (R.DP_LINK_STATUS_STREAM n) (b2n (d.trained n && (at' d.hd n .reset).ticking))

/-- The link of head n is no longer trained: any HDCP authentication or session fails (R344). -/
def untrain (d : Dev) (n : Nat) : Dev := ((d.setFld (R.DP_LINK_STATUS_TRAINED n) 0).hdcpLost n 9).showStream n

/-- A training ends at once or in time with a code: TRAIN_DONE for 0, TRAIN_FAIL otherwise (R339). -/
def trainEnd (d : Dev) (n code : Nat) : Dev :=
  let d := (d.updLink n (fun l => { l with auto := false })).setFld (R.DP_TRAIN_RESULT_CODE n) code
  if code = 0 then ((d.setFld (R.DP_LINK_STATUS_TRAINED n) 1).showStream n).dpEvent n 0 else d.dpEvent n 1

/-- An AUTO training in progress is aborted (R340). -/
def trainAbort (d : Dev) (n : Nat) : Dev := if (d.link n).auto then d.trainEnd n 8 else d

/-- LINK_ENABLE_WRITE (R338). A refused ENABLE = 1 leaves the link as ENABLE = 0 does, with CODE 1. -/
def linkEnable (d : Dev) (n : Nat) (en : Bool) : Dev :=
  if !en then (((d.setFld (R.DP_LINK_CTRL_ENABLE n) 0).untrain n).trainAbort n)
  else if (d.fp.cap n).linkMax < d.fld (R.DP_LINK_CTRL_RATE n) then
    (((d.setFld (R.DP_LINK_CTRL_ENABLE n) 0).untrain n).trainAbort n).setFld (R.DP_TRAIN_RESULT_CODE n) 1
  else d.setFld (R.DP_LINK_CTRL_ENABLE n) 1

/-- A write of 1 to TRAIN, MODE and PATTERN as they hold after the write (R339). -/
def train (d : Dev) (n : Nat) : Dev :=
  if (d.link n).auto then d
  else if !d.flag (R.DP_LINK_CTRL_ENABLE n) then d.trainEnd n 9
  else if !d.hpdLevel n then d.trainEnd n 2
  else if d.fld (R.DP_TRAIN_CTRL_MODE n) = 0 then
    ((d.untrain n).updLink n (fun l => { l with auto := true }))
  else
    let p := d.fld (R.DP_TRAIN_CTRL_PATTERN n)
    if p = 0 then (d.hdcpLost n 9).trainEnd n 0
    else (d.untrain n).emit (.trainPattern n p (d.fld (R.DP_TRAIN_DRIVE_DRIVE n)))

/-- AUTO_TRAINING_END (R339): the final drive settings are written. -/
def autoEnd (d : Dev) (n code drive : Nat) : Dev :=
  if !(d.link n).auto then d else (d.setFld (R.DP_TRAIN_DRIVE_DRIVE n) drive).trainEnd n code

/-! AUX (R336, R337). -/

/-- A software AUX transaction ends. -/
def auxEnd (d : Dev) (n reply count : Nat) : Dev :=
  ((d.updLink n (fun l => { l with aux := none })).setFlds
    [(R.DP_AUX_STATUS_BUSY n, 0), (R.DP_AUX_STATUS_REPLY n, reply), (R.DP_AUX_STATUS_BYTES n, count)]).dpEvent n 6

/-- Send the software transaction that waits behind a transaction of DPn's own, once none runs (R337). In an AUTO
training or an authentication, whether one runs is a free value. -/
def auxSend (d : Dev) (n : Nat) : Dev :=
  match (d.link n).aux with
  | none => d
  | some q =>
    if q.sent then d
    else
      let send := fun (d : Dev) =>
        (d.updLink n (fun l => { l with aux := some { q with sent := true } })).emit (.auxRequest n q.cmd q.addr q.len q.data)
      if (d.link n).auto || (d.link n).auth == .running then
        (if Config.ownAux d.freeCount then d.fresh else send d.fresh)
      else send d

/-- AUX_GO (R335, R336, R337). CMD 8 is the native write of DisplayPort 2.1. -/
def auxGo (d : Dev) (n : Nat) : Dev :=
  let cmd := d.fld (R.DP_AUX_CTRL_CMD n)
  let a := d.fld (R.DP_AUX_ADDR_ADDR n)
  let len := d.fld (R.DP_AUX_CTRL_LEN n) + 1
  if d.flag (R.DP_AUX_STATUS_BUSY n) then d.dpEvent n 7
  else if !d.hpdLevel n then d.auxEnd n 5 0
  else if cmd = 8 ∧ 0x68000 < a + len ∧ a < 0x6A000 then d.auxEnd n 4 0
  else
    let q : AuxRequest := ⟨cmd, a, len, (List.range 4).map (fun k => d.get (R.DP_AUX_DATAk n k)), false⟩
    ((d.setFld (R.DP_AUX_STATUS_BUSY n) 1).updLink n (fun l => { l with aux := some q })).auxSend n

/-- Put bytes into the AUX data words, from byte 0. -/
def auxBytes (d : Dev) (n : Nat) (l : List Byte) : Dev :=
  l.zipIdx.foldl (fun d p => d.setFld ⟨R.DP_AUX_DATAk n (p.2 / 4), 8 * (p.2 % 4) + 7, 8 * (p.2 % 4)⟩ p.1.toNat) d

/-- The command of the software transaction that has been sent. -/
def auxSent (d : Dev) (n : Nat) : Option Nat := ((d.link n).aux.filter (·.sent)).map (·.cmd)

/-- AUX_DONE: the reply arrives (R336). A read command (bits [1:0] = 1) takes the data bytes. -/
def auxDone (d : Dev) (n reply count : Nat) (data : List Byte) : Dev :=
  match d.auxSent n with
  | none => d
  | some cmd => (d.when' (cmd % 4 == 1) (fun d => d.auxBytes n (data.take (min count 16)))).auxEnd n reply count

/-- AUX_REPLY_TIMEOUT (R337). -/
def auxTimeout (d : Dev) (n : Nat) : Dev := if (d.auxSent n).isSome then d.auxEnd n 3 0 else d

/-- What time brings to link n at a tick: the software transaction that waits goes out (R337), and an authentication
goes on, when a free value says so (R344). -/
def linkTick (d : Dev) (n : Nat) : Dev :=
  let d := d.auxSend n
  if (d.link n).auth = .running ∧ d.fld (R.DP_HDCP_STATUS_STATE n) < 4 then
    (if Config.hdcpStep d.freeCount then d.fresh.hdcpStage n else d.fresh)
  else d

/-! Hot-plug detect (R334, R335). -/

/-- HPD_UNPLUG: the pin has been low for 2 ms. -/
def hpdUnplug (d : Dev) (n : Nat) : Dev :=
  if d.flag (R.DP_HPD_CTRL_EN n) && (d.link n).hpdLow then
    let d := d.updLink n (fun l => { l with hpdLow := false, hpdFrom := none, hpdRose := false })
    (((d.setFld (R.DP_LINK_STATUS_HPD_LEVEL n) 0).untrain n).trainAbort n).dpEvent n 4
  else d

/-- HPD_PLUG: the pin has been high for 2 ms after an unplug. -/
def hpdPlug (d : Dev) (n : Nat) : Dev :=
  if d.flag (R.DP_HPD_CTRL_EN n) && (d.link n).hpdRose then
    ((d.updLink n (fun l => { l with hpdRose := false })).setFld (R.DP_LINK_STATUS_HPD_LEVEL n) 1).dpEvent n 3
  else d

/-- HPD_IRQ (R335, R344): in AUTO mode the lane status is read, and RxStatus while a session is open. -/
def hpdIrq (d : Dev) (n : Nat) (s : SinkStatus) : Dev :=
  let d := d.dpEvent n 5
  let d := if s.lockLost && d.fld (R.DP_TRAIN_CTRL_MODE n) == 0 && d.trained n then (d.untrain n).dpEvent n 2 else d
  if s.reauthReq ∧ (d.link n).auth = .session then d.hdcpFail n 11 else d

/-- How long the pin of link n has been low, in µs: as it was measured, but from EN on where EN found it low (R334). -/
def lowUs (d : Dev) (n heldUs : Nat) : Nat :=
  match (d.link n).hpdFrom with
  | some t => min heldUs (rawSince d.raw t / 800)
  | none => heldUs

/-- HPD_EDGE: a captured edge; `heldUs` is how long the pin held its level before, in µs (R334). -/
def hpdEdge (d : Dev) (n : Nat) (level : Bool) (heldUs : Nat) (s : SinkStatus) : Dev :=
  if !d.flag (R.DP_HPD_CTRL_EN n) then d
  else if !level then d.updLink n (fun l => { l with hpdLow := true, hpdFrom := none, hpdRose := false })
  else
    let low := d.lowUs n heldUs
    let d := if 2000 ≤ low then d.hpdUnplug n else d
    if (d.link n).hpdLow then
      let d := d.updLink n (fun l => { l with hpdLow := false, hpdFrom := none, hpdRose := !d.hpdLevel n })
      if 250 ≤ low then d.hpdIrq n s else d
    else d.updLink n (fun l => { l with hpdRose := true })

/-- HPD_EN_WRITE (R334): EN set samples the pin that SRC names. -/
def hpdEnable (d : Dev) (n : Nat) (en : Bool) : Dev :=
  let was := d.flag (R.DP_HPD_CTRL_EN n)
  let d := d.setFld (R.DP_HPD_CTRL_EN n) (b2n en)
  if !en then d.updLink n (fun l => { l with hpdLow := false, hpdFrom := none, hpdRose := false })
  else if was then d
  else if d.flag (R.EV_STATUS_PIN (d.fld (R.DP_HPD_CTRL_SRC n))) then
    (d.setFld (R.DP_LINK_STATUS_HPD_LEVEL n) 1).dpEvent n 3
  else d.updLink n (fun l => { l with hpdLow := true, hpdFrom := some d.raw, hpdRose := false })

/-- An accepted edge of a capture pin reaches the links that name the pin (R473). -/
def pinToLinks (d : Dev) (pin : Nat) (level : Bool) (heldUs : Nat) (s : SinkStatus) : Dev :=
  if d.pinMode pin ≠ 1 then d
  else (List.range 8).foldl (fun d n => if d.fld (R.DP_HPD_CTRL_SRC n) = pin then d.hpdEdge n level heldUs s else d) d

/-- EV_PIN_EDGE (R473). -/
def pinEdge (d : Dev) (pin : Nat) (level : Bool) (heldUs : Nat) (s : SinkStatus) : Dev :=
  (d.evCapture pin level).pinToLinks pin level heldUs s

/-- The software SDP is sampled at the start of line VACT (R341). -/
def sampleSdp (d : Dev) (n : Nat) : Dev :=
  let words := BitVec.ofNat 32 (d.fld (R.DP_SDP_CTRL_HEADER n)) :: (List.range 8).map (fun k => d.get (R.DP_SDP_DATAk n k))
  d.updLink n (fun l => { l with sdp := if d.flag (R.DP_SDP_CTRL_SW_EN n) then words else [] })

/-- The HRST of head n resets DPn (R100); an open HDCP session ends. Fields are reset by the caller. -/
def dpReset (d : Dev) (n : Nat) : Dev := d.updLink n (fun _ => .reset)

end Dev

end Sys2Proof.Machine
end

