-- ==== Sys2Proof/Machine/HeadTiming.lean ====
section
/-!
DEFINITION. The raster timing of a head and the head check (R291 to R294, R305).
-/
namespace Sys2Proof.Machine

/-- A head's timing as one bank holds it, with the live PIXCLK (R294, R324). -/
structure Timing where
  hact : Nat
  htotal : Nat
  hfp : Nat
  hsw : Nat
  vact : Nat
  vtotal : Nat
  vfp : Nat
  vsw : Nat
  eve : Nat
  vrr : Bool
  vtotalMax : Nat
  khz : Nat
  deriving DecidableEq, Repr

namespace Dev

def head (d : Dev) (n : Nat) : HeadSt := at' d.hd n .reset

def updHead (d : Dev) (n : Nat) (f : HeadSt → HeadSt) : Dev := { d with hd := upd d.hd n f }

/-- RUN of head n (R326): 0 stopped, 1 starting, 2 running, 3 stopping. -/
def run (d : Dev) (n : Nat) : Nat := d.fld (R.HD_STATUS_RUN n)

/-- The timing in bank b (0 live, 1 staged) of head n. -/
def timing (d : Dev) (n b : Nat) : Timing :=
  { hact := d.fld (R.HD_TIMING_HACT_HACT n b), htotal := d.fld (R.HD_TIMING_HTOTAL_HTOTAL n b)
    hfp := d.fld (R.HD_TIMING_HSYNC_HFP n b), hsw := d.fld (R.HD_TIMING_HSYNC_HSW n b)
    vact := d.fld (R.HD_TIMING_VACT_VACT n b), vtotal := d.fld (R.HD_TIMING_VTOTAL_VTOTAL n b)
    vfp := d.fld (R.HD_TIMING_VSYNC_VFP n b), vsw := d.fld (R.HD_TIMING_VSYNC_VSW n b)
    eve := d.fld (R.HD_TIMING_EVE_EVE n b), vrr := d.flag (R.HD_TIMING_VRR_VRR_EN n b)
    vtotalMax := d.fld (R.HD_TIMING_VRR_VTOTAL_MAX n b), khz := d.fld (R.HD_PIXCLK_KHZ n) }

/-- The timing words of bank b and PIXCLK, as the PAIR check and the mode change compare them. EVE is the word at
offset 0x18. -/
def timingWords (d : Dev) (n b : Nat) : List Word :=
  [R.HD_TIMING_HACT n b, R.HD_TIMING_HTOTAL n b, R.HD_TIMING_HSYNC n b, R.HD_TIMING_VACT n b, R.HD_TIMING_VTOTAL n b,
    R.HD_TIMING_VSYNC n b, R.HD_TIMING_VRR n b].map d.get

/-- The split partner that HEAD_CAPS names (R54, R312). -/
def partner (d : Dev) (n : Nat) : Option Nat := if (d.fp.cap n).partner < 8 then some (d.fp.cap n).partner else none

/-- The source of a clone (R54, R316). -/
def cloneSource (d : Dev) (n : Nat) : Option Nat :=
  if (d.fp.cap n).mode = 2 ∧ (d.fp.cap n).cloneSrc < 8 then some (d.fp.cap n).cloneSrc else none

end Dev

namespace Timing

/-- The first bound broken, as the value and the bound (R294). -/
def firstBound : List (Bool × Nat × Nat) → Option (Nat × Nat)
  | [] => none
  | (true, p) :: _ => some p
  | (false, _) :: t => firstBound t

def hbp (t : Timing) : Int := (t.htotal : Int) - t.hact - t.hfp - t.hsw
def vbp (t : Timing) : Int := (t.vtotal : Int) - t.vact - t.vfp - t.vsw

/-- H_GEOM of R293, in the order of R294. -/
def hGeom (t : Timing) (hmax : Nat) : Option (Nat × Nat) :=
  firstBound [
    (decide (t.hact < 64), t.hact, 64), (decide (hmax < t.hact), t.hact, hmax),
    (decide (t.hfp < 8), t.hfp, 8), (decide (t.hsw < 8), t.hsw, 8), (decide (t.hbp < 8), t.hbp.toNat, 8),
    (decide (t.htotal < t.hact + 24), t.htotal, t.hact + 24), (decide (16380 < t.htotal), t.htotal, 16380),
    (t.hact % 4 != 0, t.hact, 4), (t.hfp % 4 != 0, t.hfp, 4), (t.hsw % 4 != 0, t.hsw, 4), (t.htotal % 4 != 0, t.htotal, 4)]

/-- V_GEOM of R293, in the order of R294. -/
def vGeom (t : Timing) (vmax : Nat) : Option (Nat × Nat) :=
  firstBound [
    (decide (t.vact < 64), t.vact, 64), (decide (vmax < t.vact), t.vact, vmax),
    (decide (t.vfp < 1), t.vfp, 1), (decide (t.vsw < 1), t.vsw, 1), (decide (t.vbp < 1), t.vbp.toNat, 1),
    (decide (t.vtotal < t.vact + 3), t.vtotal, t.vact + 3), (decide (16383 < t.vtotal), t.vtotal, 16383)]

/-- The active pixel rate of R293 against 2.0 Gpixel/s, in Mpixel/s. -/
def rateCheck (t : Timing) : Option (Nat × Nat) :=
  let num := 4 * t.khz * t.hact * t.vact
  let den := t.htotal * t.vtotal
  if 2000000 * den < num then some (ceilDiv num (1000 * den), 2000) else none

/-- Nanoseconds of k line periods, times KHZ (R291). -/
def lineNs (t : Timing) (k : Nat) : Nat := k * t.htotal * 250000

/-- The eve-line distance of R293 against 3 × T_h + 16 µs, in ns: rounded down, and the limit up. -/
def eveCheck (t : Timing) : Option (Nat × Nat) :=
  let k := t.eve + t.vtotal - t.vact
  if t.lineNs k < t.lineNs 3 + 16000 * t.khz then
    some (t.lineNs k / t.khz, ceilDiv (t.lineNs 3 + 16000 * t.khz) t.khz) else none

end Timing

/-- What a head check answers: HDn_CHECK.CODE, DPn_LINK_CHECK.CAUSE where the LINK check ran, DEMAND and CAP. -/
structure HeadCheck where
  code : Nat
  cause : Option Nat
  demand : Nat
  cap : Nat
  deriving DecidableEq, Repr

namespace Dev

/-- The timing that the LINK check of head n examines (R332): its staged timing; a split follower's is its leader's; a
clone's is its source's, which runs already (log entry 33). -/
def linkTiming (d : Dev) (n : Nat) : Timing :=
  match d.cloneSource n with
  | some s => d.timing s 0
  | none => match (d.head n).follows with
    | some l => d.timing l 1
    | none => d.timing n 1

/-- Bits per component of the staged state (R332, R259). -/
def stagedBpc (d : Dev) (n : Nat) : Nat := if d.flag (R.HD_OC_CTRL_OUT_BPC n 1) then 8 else 10

/-- The head check of R294 on the staged timing and the live PIXCLK. -/
def headCheck (d : Dev) (n : Nat) : HeadCheck :=
  let c := d.fp.cap n
  let t := d.timing n 1
  let fail := fun code (p : Nat × Nat) => (⟨code, none, p.1, p.2⟩ : HeadCheck)
  if c.mode = 0 then fail 7 (0, 0)
  else match t.hGeom c.hactMax, t.vGeom c.vactMax with
    | some p, _ => fail 1 p
    | none, some p => fail 2 p
    | none, none =>
      match t.rateCheck with
      | some p => fail 3 p
      | none =>
        let ceiling := d.fp.hz n / 1000
        if t.khz < 25000 then fail 4 (t.khz, 25000)
        else if ceiling < t.khz then fail 4 (t.khz, ceiling)
        else match t.eveCheck with
          | some p => fail 5 p
          | none =>
            let l := d.linkTiming n
            let k := d.linkCheck n l.hact l.htotal l.vact l.khz (d.stagedBpc n)
            if k.1 ≠ 0 then ⟨6, some k.1, k.2.1, k.2.2⟩
            else
              let differs := match d.partner n with
                | some p => d.timingWords n 1 != d.timingWords p 1 || d.get (R.HD_TIMING_EVE n 1) != d.get (R.HD_TIMING_EVE p 1) ||
                    t.khz != d.fld (R.HD_PIXCLK_KHZ p)
                | none => false
              if differs then ⟨8, some 0, 0, 0⟩
              else if t.vrr && (!bit c.flags 1 || decide (t.vtotalMax < t.vtotal) || d.flag (R.HD_TLOCK_CTRL_EN n)) then
                ⟨9, some 0, 0, 0⟩
              else ⟨0, some 0, 0, 0⟩

/-- Record a head check (R294, R333). -/
def recordCheck (d : Dev) (n : Nat) (k : HeadCheck) : Dev :=
  let d := d.setFld (R.HD_CHECK_CODE n) k.code
  match k.cause with
  | some c => d.setFld (R.DP_LINK_CHECK_CAUSE n) c
  | none => d

/-! The live timing as the timing generator uses it (R305). -/

/-- A live HTOTAL below 4 acts as 4, a live VTOTAL of 0 as 1. -/
def liveTiming (d : Dev) (n : Nat) : Timing :=
  let t := d.timing n 0
  { t with htotal := max 4 t.htotal, vtotal := max 1 t.vtotal }

/-- Byte k of the DSC picture parameter set of link n (R343). The places of the parameters that R343 gives, and of the
picture and slice sizes, are VESA DSC 1.2a's (PRESUMED, log entry 102); the other bytes, the rate control's among
them, are free. -/
def ppsByte (d : Dev) (n k : Nat) : Byte :=
  let t := d.liveTiming n
  let bpc := d.outBits n
  let bpp := d.fld (R.DP_DSC_CTRL_BPP_X16 n)
  let h := d.fld (R.DP_DSC_SLICE_SLICE_H n)
  let w := t.hact / d.slices n
  let chunk := ceilDiv (w * bpp) 128
  let free := (Config.dscPps bpc bpp (d.slices n) h t.hact t.vact (k / 4)).toNat / 256 ^ (k % 4)
  BitVec.ofNat 8 (match k with
    | 0 => 0x12
    | 3 => bpc * 16 + bpc + 1
    | 4 => 0x30 + bpp / 256
    | 5 => bpp
    | 6 => t.vact / 256
    | 7 => t.vact
    | 8 => t.hact / 256
    | 9 => t.hact
    | 10 => h / 256
    | 11 => h
    | 12 => w / 256
    | 13 => w
    | 14 => chunk / 256
    | 15 => chunk
    | 88 => 0
    | _ => free)

end Dev

end Sys2Proof.Machine
end

