-- ==== Sys2Proof/Machine/Governor.lean ====
section
/-!
DEFINITION. The governor: demand arithmetic, admission, reservations and the latency model (R263 to R276). Rates are
exact fractions per second.
-/
namespace Sys2Proof.Machine

/-! Demand (R265). -/

/-- One plane's demand: bytes per line, and per line in each stack. -/
structure PlaneDemand where
  bytes : Nat
  half : Nat
  share : Nat

namespace LeCfg

/-- The demand of plane p (R265). -/
def planeDemand (c : LeCfg) (p : Nat) : PlaneDemand :=
  let sv := if 0 < p ∧ (chromaFactor c.fmt).2 = 2 then 2 else 1
  let m := c.margin p
  let crop := c.planeCrop p
  let b := c.bytesOf p
  let r := max (ceilDiv c.stepV (1048576 * sv)) (ceilDiv c.vTaps 2)
  let aligned := c.baseOf p % 64 = 0 ∧ c.pitchOf p % 64 = 0 ∧ ((crop.1 - m.1) * b) % 64 = 0
  let k := ceilDiv ((crop.2.2.1 + m.1 + m.2.1) * b) 64 + (if aligned then 0 else 1)
  let rows := r * c.dV
  ⟨rows * 64 * k, bits (c.baseOf p) 29 29, rows * 64 * min k (ceilDiv k 2 + 8)⟩

/-- The demand of engine le with this configuration in a raster of width hact (R265). -/
def demand (c : LeCfg) (le hact : Nat) : EngDemand :=
  let ps := c.planes.map c.planeDemand
  let v := c.visible hact
  let px := v.2 - v.1
  let across := fun from' => if halfOfEngine le = from' then 0 else ((ps.filter (·.half == from')).map (·.bytes)).foldl (· + ·) 0
  { le := le, bytes := (ps.map (·.bytes)).foldl (· + ·) 0, linePx := px
    perStack := (List.range 4).map (fun s => ((ps.filter (·.half == s / 2)).map (·.share)).foldl (· + ·) 0)
    e2w := across 0, w2e := across 1 }

end LeCfg

/-- The layer engines of a head's tree, in ascending order. -/
def Floorplan.treeEngines (fp : Floorplan) (h : Nat) : List Nat := (List.range 64).filter (fp.tree h).contains

/-- The demand of head n in the state of bank b (R265). -/
def Dev.headDemand (d : Dev) (n b : Nat) : Demand :=
  let t := d.timing n b
  { khz := t.khz, htotal := t.htotal, vtotal := t.vtotal, forced := false
    engines := ((d.fp.treeEngines n).filter (fun l => (d.leCfg l b).enable)).map
      (fun l => (d.leCfg l b).demand l t.hact) }

namespace Demand

/-- Lines per second. -/
def lines (x : Demand) : Q := ⟨4000 * x.khz, x.htotal⟩

/-- A per-line quantity per second. -/
def rate (x : Demand) (f : EngDemand → Nat) : Q := (Q.ofNat ((x.engines.map f).foldl (· + ·) 0)).mul x.lines

/-- An engine's visible output pixels per second (R266). -/
def pxRate (x : Demand) (e : EngDemand) : Q := (Q.ofNat e.linePx).mul x.lines

/-- Bytes per second from a stack. -/
def stack (x : Demand) (s : Nat) : Q := x.rate (·.perStack.getD s 0)

/-- Bytes per second across the halves: 0 East to West, 1 West to East. -/
def link (x : Demand) (dir : Nat) : Q := x.rate (fun e => if dir = 0 then e.e2w else e.w2e)

/-- Bridge pixels per second in a direction. -/
def bridge (x : Demand) (fp : Floorplan) (dir : Nat) : Q :=
  Q.sum ((x.engines.filter (fun e => fp.bridged e.le && halfOfEngine e.le == dir)).map x.pxRate)

end Demand

/-- The demands of a head's states: live, sealed, armed (R264, R301). -/
def HeadRes.states (r : HeadRes) : List Demand := r.live.toList ++ r.sealed.toList ++ r.armed.toList

/-- A head's reservation on one resource: the largest of its states' demands (R264). -/
def largest (l : List Demand) (f : Demand → Q) : Q := (l.map f).foldl Q.max Q.zero

namespace Dev

def headRes (d : Dev) (n : Nat) : HeadRes := at' d.gv.res n ⟨none, none, none⟩

def updRes (d : Dev) (n : Nat) (f : HeadRes → HeadRes) : Dev := { d with gv := { d.gv with res := upd d.gv.res n f } }

/-! The latency model (R272 to R276). -/

/-- The table latency at a reservation of so many bytes per second (R272). -/
def tableNs (f : Nat) (rate : Q) : Nat :=
  if rate.le (.ofNat (128 * f)) then 800
  else if rate.le (.ofNat (256 * f)) then 1000
  else if rate.le (.ofNat (384 * f)) then 1400
  else 1800

/-- ceil(M_s × GUARD) + MARGIN_NS. -/
def guarded (d : Dev) (s : Nat) : Nat :=
  ceilDiv (d.fld (R.GV_MODEL_FSs_MODEL_NS s) * d.fld R.GV_MODEL_CFG_GUARD) 16 + d.fld R.GV_MODEL_CFG_MARGIN_NS

/-- Is the model of stack s in force? -/
def learned (d : Dev) (s : Nat) : Bool := d.fld (R.GV_LEARN_FSs_FRAMES s) == 64

/-- λ_s at a reservation (R274). -/
def lambda (d : Dev) (s : Nat) (rate : Q) : Nat :=
  let t := tableNs (d.fscHz s) rate
  if d.learned s then min t (d.guarded s) else t

/-- The unit's reservation on a resource, by the states of each head. -/
def total (states : List (List Demand)) (f : Demand → Q) : Q := Q.sum (states.map (fun l => largest l f))

/-- The states in force of every head. -/
def allStates (d : Dev) : List (List Demand) := (List.range 8).map (fun h => (d.headRes h).states)

/-- Scan-out tags reserved (check 0x17). -/
def tagDemand (d : Dev) (st : List (List Demand)) : Nat :=
  ((List.range 4).map (fun s =>
    let r := total st (·.stack s)
    ((r.mul ⟨1, 64⟩).mul ⟨d.lambda s r, 1000000000⟩).ceil)).foldl (· + ·) 0

/-- A reservation as its register shows it. -/
def shown (w v : Nat) : Nat := if v < 2 ^ w then v else Config.reserveAbove v

/-- GV_RES_, ADMIT_NS, TABLE and FORCED_ACTIVE follow the reservations and models (R271, R276, R285, R287). -/
def gvRefresh (d : Dev) : Dev :=
  let st := d.allStates
  let stack := fun (d : Dev) (s : Nat) =>
    let r := total st (·.stack s)
    d.setFlds [(R.GV_RES_FSs_BPC s, shown 16 (r.mul ⟨64, d.fscHz s⟩).ceil), (R.GV_MODEL_FSs_ADMIT_NS s, d.lambda s r)]
  let d := (List.range 4).foldl stack d
  let link := fun dir => shown 16 ((total st (·.link dir)).mul ⟨64, 1000000000⟩).ceil
  d.setFlds [(R.GV_RES_LINK_E2W, link 0), (R.GV_RES_LINK_W2E, link 1), (R.GV_RES_TAGS_TAGS, shown 14 (d.tagDemand st)),
    (R.GV_STATUS_TABLE, ((List.range 4).filter (fun s => !d.learned s)).foldl (fun a s => a + 2 ^ s) 0),
    (R.GV_STATUS_FORCED_ACTIVE, b2n ((st.flatMap id).any (·.forced)))]

/-- Head n stops: it reserves nothing (R264). -/
def releaseRes (d : Dev) (n : Nat) : Dev := (d.updRes n (fun _ => ⟨none, none, none⟩)).gvRefresh

/-- A head that runs reserves the demand of its live state, which a live write has changed (R264). -/
def reviveRes (d : Dev) (n : Nat) : Dev :=
  match (d.headRes n).live with
  | some x => (d.updRes n (fun r => { r with live := some { d.headDemand n 0 with forced := x.forced } })).gvRefresh
  | none => d

/-- The model of stack s restarts at M_s = 0 and learn_s = 0, and the model frame in progress, whichever head's it is,
is not learned (R275). -/
def restartModel (d : Dev) (s : Nat) : Dev :=
  let d := d.setFlds [(R.GV_MODEL_FSs_MODEL_NS s, 0), (R.GV_LEARN_FSs_FRAMES s, 0), (R.GV_LEARN_FSs_EXCURSIONS s, 0)]
  ({ d with gv := { d.gv with skips := d.gv.skips.map (fun (l : List Nat) => if l.contains s then l else l ++ [s]) } }).gvRefresh

/-- RELEARN: one stack's bit (R275). -/
def relearn (d : Dev) (s : Nat) : Dev := d.restartModel s

/-- A scan-out latency sample of stack s, in clk FSCs (R168, R273, R275). -/
def gvSample (d : Dev) (s clk : Nat) : Dev :=
  let ns := min (ceilDiv (clk * 1000000000) (d.fscHz s)) 0xFFFF
  let d := { d with gv := { d.gv with peaks := d.gv.peaks.map (fun (l : List Nat) => l.set s (max ns (l.getD s 0))) } }
  if d.learned s && decide (d.guarded s < ns) then
    let k := d.fld (R.GV_LEARN_FSs_EXCURSIONS s)
    if k < 2 then d.setFld (R.GV_LEARN_FSs_EXCURSIONS s) (k + 1)
    else
      let d := d.restartModel s
      let d := d.setFld ⟨R.GV_STATUS, 20 + s, 20 + s⟩ 1
      d.count R.GV_STALE_COUNT_COUNT 1 R.GV_STATUS_STAT_SAT [R.GV_STATUS_MODEL_STALE]
  else d

/-- The end of a model frame of head n for one stack (R273, R275). -/
def learnStack (n : Nat) (d : Dev) (s : Nat) : Dev :=
  let d := d.setFld (R.GV_LEARN_FSs_EXCURSIONS s) 0
  if (at' d.gv.skips n []).contains s then d
  else
    let p := (at' d.gv.peaks n []).getD s 0
    let m := d.fld (R.GV_MODEL_FSs_MODEL_NS s)
    let k := d.fld (R.GV_LEARN_FSs_FRAMES s)
    if k < 64 then
      let d := d.setFlds [(R.GV_MODEL_FSs_MODEL_NS s, max m p), (R.GV_LEARN_FSs_FRAMES s, k + 1)]
      if k + 1 = 64 then d.setFld ⟨R.GV_STATUS, 20 + s, 20 + s⟩ 0 else d
    else d.setFld (R.GV_MODEL_FSs_MODEL_NS s) (if m < p then p else m - (m - p) / 256)

/-- A frame of head n ends (R273): it is a model frame if n is the lowest-numbered running head. -/
def modelFrameEnd (d : Dev) (n : Nat) : Dev :=
  if (List.range n).all (fun h => decide (d.run h < 2)) then ((List.range 4).foldl (learnStack n) d).gvRefresh else d

/-- A frame of head n starts: its samples begin anew, and with them the excursions of a model frame (R273, R275). -/
def modelFrameStart (d : Dev) (n : Nat) : Dev :=
  let d := { d with gv := { d.gv with
    peaks := upd d.gv.peaks n (fun _ => [0, 0, 0, 0]), skips := upd d.gv.skips n (fun _ => []) } }
  if (List.range n).all (fun h => decide (d.run h < 2)) then
    (List.range 4).foldl (fun d s => d.setFld (R.GV_LEARN_FSs_EXCURSIONS s) 0) d
  else d

/-! Admission (R266 to R269). -/

/-- What a failed check reports: REASON, RES, DEMAND, CAP. -/
abbrev Failure := Nat × Nat × Nat × Nat

/-- The slower CNC. -/
def slowCnc (d : Dev) : Nat := min (d.fp.hz 0x18) (d.fp.hz 0x19)

/-- The bridge slot of an engine: bridged engines in ascending order (R52, R240). -/
def bridgeSlot (d : Dev) (le : Nat) : Nat := ((List.range le).filter d.fp.bridged).length

def lecHz (d : Dev) (le : Nat) : Nat := d.fp.hz (0x1A + halfOfEngine le)

/-- A failed comparison of a demand with a capacity: rounded up, and down. -/
def excess (reason res : Nat) (dem cap : Q) : List Failure := if dem.le cap then [] else [(reason, res, dem.ceil, cap.floor)]

/-- The checks of R266 in code order: `req` the requested demand of each requesting head, `st` every head's states
after the request. The first failure, if any. -/
def capacityCheck (d : Dev) (req : List (Nat × Demand)) (st : List (List Demand)) : Option Failure :=
  let es := req.flatMap (fun r => r.2.engines.map (fun e => (r.2, e)))
  let lineCap := fun k (x : Demand) (e : EngDemand) => (Q.mk (k * d.lecHz e.le * x.htotal) (4000 * x.khz))
  let mega := fun (q : Q) => q.mul ⟨1, 1000000⟩
  let c10 := es.flatMap (fun p => excess 0x10 p.2.le (.ofNat p.2.bytes) (lineCap 64 p.1 p.2))
  let c11 := es.flatMap (fun p => excess 0x11 p.2.le (.ofNat p.2.linePx) (lineCap 4 p.1 p.2))
  let c12 := req.flatMap (fun r =>
    if (d.fp.cap r.1).mode = 1 then
      let t := d.timing r.1 1
      excess 0x12 r.1 (mega ⟨4000 * t.khz * t.hact * t.vact, t.htotal * t.vtotal⟩)
        (mega (.ofNat (4 * d.fp.hz (0x18 + halfOfHead r.1))))
    else [])
  let c13 := (List.range 8).flatMap (fun slot => (es.filter (fun p => d.fp.bridged p.2.le && d.bridgeSlot p.2.le == slot)).flatMap
    (fun p => excess 0x13 slot (mega (p.1.pxRate p.2)) (mega (.ofNat (4 * d.slowCnc)))))
  let c14 := [0, 1].flatMap (fun dir => excess 0x14 dir (mega (total st (·.bridge d.fp dir))) (mega (.ofNat (16 * d.slowCnc))))
  let c15 := (List.range 4).flatMap (fun s => excess 0x15 s ((total st (·.stack s)).mul ⟨64, d.fscHz s⟩) (.ofNat (448 * 64)))
  let c16 := [0, 1].flatMap (fun dir => excess 0x16 dir (mega (total st (·.link dir))) (.ofNat 224000))
  let c17 := excess 0x17 0 (.ofNat (d.tagDemand st)) (.ofNat 12288)
  let late := fun (x : Demand) (e : EngDemand) =>
    let lam := ((List.range 4).filter (fun s => e.perStack.getD s 0 != 0)).map (fun s => d.lambda s (total st (·.stack s)))
    excess 0x18 e.le ((Q.ofNat (lam.foldl max 0)).add ⟨e.bytes * 1000000000, 64 * d.lecHz e.le⟩) ⟨x.htotal * 250000, x.khz⟩
  let every := (st.flatMap id).flatMap (fun x => x.engines.map (fun e => (x, e)))
  let c18 := (List.range 64).flatMap (fun l => (every.filter (fun p => p.2.le == l)).flatMap (fun p => late p.1 p.2))
  (c10 ++ c11 ++ c12 ++ c13 ++ c14 ++ c15 ++ c16 ++ c17 ++ c18).head?

/-- The head checks of a request, each recorded; the first failure (R267, R313). -/
def headChecks (d : Dev) (hs : List Nat) : Dev × Option Failure :=
  hs.foldl (fun p n =>
    let k := d.headCheck n
    (p.1.recordCheck n k, p.2.or (if k.code = 0 then none else some (1, 0, k.demand, k.cap)))) (d, none)

/-- The layer check of engine l on its staged state, recorded (R219). -/
def layerCheck (d : Dev) (l : Nat) : Dev × Bool :=
  let c := d.leCfg l 1
  let kib := match d.fp.leRec l with | some r => r.cacheKib | none => 0
  let e := c.check kib d.clearings
  (d.setFlds [(R.LE_STATUS_CFG_ERR l, e),
    (R.LE_CACHE_INFO_NEED_KIB l, if 1 ≤ e ∧ e ≤ 7 then 0 else ceilDiv c.need 1024)], e == 0)

/-- The layer checks of engines, in order: each is recorded, the first failure is the request's (R219, R267). -/
def layerChecks (d : Dev) : List Nat → Dev × Option Failure
  | [] => (d, none)
  | l :: t =>
    let r := d.layerCheck l
    let q := r.1.layerChecks t
    (q.1, if r.2 then q.2 else some (2, l, 0, 0))

/-- Evaluate a request on the staged state and the reservations as they stand (R267, R268, R271). -/
def evaluate (d : Dev) (q : GvRequest) : Dev × Verdict :=
  let refuse := fun (f : Failure) => (⟨2, f.1, f.2.1, f.2.2.1, f.2.2.2, []⟩ : Verdict)
  let h := d.headChecks q.heads
  let les := (List.range 64).filter (fun l => q.heads.any (fun n => (d.fp.tree n).contains l) && (d.leCfg l 1).enable)
  let r := h.1.layerChecks les
  match h.2.or r.2 with
  | some f => (r.1, refuse f)
  | none =>
      if d.isSafe (Block.GV.base) then (r.1, refuse (3, 0, 0, 0))
      else
        let req := q.heads.map (fun n => (n, d.headDemand n 1))
        let st := (List.range 8).map (fun h =>
          match req.find? (·.1 == h) with
          | some x => (d.headRes h).live.toList ++ (d.headRes h).sealed.toList ++ [x.2]
          | none => (d.headRes h).states)
        match d.capacityCheck req st with
        | none => (r.1, ⟨if d.flag R.GV_CTRL_FORCE then 3 else 1, 0, 0, 0, 0,
            req.map (fun x => (x.1, { x.2 with forced := d.flag R.GV_CTRL_FORCE }))⟩)
        | some f =>
          if d.flag R.GV_CTRL_FORCE then
            (r.1, ⟨3, f.1, f.2.1, f.2.2.1, f.2.2.2, req.map (fun x => (x.1, { x.2 with forced := true }))⟩)
          else (r.1, refuse f)

/-- GV, when idle, starts on its oldest waiting request (R268). -/
def gvNext (d : Dev) : Dev :=
  match d.gv.busy, d.gv.waiting with
  | none, q :: t =>
    let r := ({ d with gv := { d.gv with waiting := t } }).evaluate q
    { r.1 with gv := { r.1.gv with busy := some (q, r.2) } }
  | _, _ => d

/-- Two requests for one head become one, in the first one's place; the TRIGGER of an arm stays (R268). -/
def GvRequest.merge (a b : GvRequest) : GvRequest :=
  { heads := ((List.range 8).filter (fun h => a.heads.contains h || b.heads.contains h))
    trigger := if a.trigger = 0 then 0 else b.trigger
    engines := a.engines ++ b.engines.filter (fun l => !a.engines.contains l), withdrawn := b.withdrawn }

/-- A request reaches GV (R268). -/
def gvRequest (d : Dev) (q : GvRequest) : Dev :=
  let meets := fun (p : GvRequest) => p.heads.any q.heads.contains
  let w := match d.gv.waiting.find? meets with
    | none => d.gv.waiting ++ [q]
    | some p =>
      let all := (d.gv.waiting.filter meets).drop 1 |>.foldl GvRequest.merge p
      let m := GvRequest.merge all q
      (d.gv.waiting.map (fun x => if x == p then m else x)).filter (fun x => x == m || !meets x)
  ({ d with gv := { d.gv with waiting := w } }).gvNext

/-- A verdict is recorded for the heads of its request (R267, R271, R286). `result` is RESULT as it is to read. -/
def recordVerdict (d : Dev) (q : GvRequest) (v : Verdict) (result : Nat) : Dev :=
  let one := fun (d : Dev) (n : Nat) =>
    let d := d.setFlds [(R.GV_VERDICT_HDn_RESULT n, result), (R.GV_VERDICT_HDn_TRIGGER n, q.trigger),
      (R.GV_VERDICT_HDn_RES n, v.res), (R.GV_VERDICT_HDn_REASON n, v.reason)]
    if v.result = 2 then d.setFlds [(R.GV_SHORT_DEMAND_HDn_DEMAND n, v.demand), (R.GV_SHORT_CAP_HDn_CAP n, v.cap)] else d
  let d := q.heads.foldl one d
  if v.result = 2 then d.count R.GV_REFUSE_COUNT_COUNT 1 R.GV_STATUS_STAT_SAT [R.GV_STATUS_REFUSED]
  else d.tally ([(R.GV_ADMIT_COUNT_COUNT, 1)] ++ (if v.result = 3 then [(R.GV_FORCE_COUNT_COUNT, 1)] else [])) []
    R.GV_STATUS_STAT_SAT []

end Dev

end Sys2Proof.Machine
end

