-- ==== Sys2Proof/Machine/Flattening.lean ====
section
/-!
DEFINITION. Self-flattening (R277 to R282): which subtree qualifies, where its surface lies, capture, verify,
feeding and dissolution.
-/
namespace Sys2Proof.Machine
namespace Dev

def surf (d : Dev) (k : Nat) : SurfaceSt := at' d.gv.surfaces k .reset

def updSurf (d : Dev) (k : Nat) (f : SurfaceSt → SurfaceSt) : Dev :=
  { d with gv := { d.gv with surfaces := upd d.gv.surfaces k f } }

def surfNode (d : Dev) (k : Nat) : Nat := (d.surf k).node

/-- The member engines of surface k. -/
def surfMembers (d : Dev) (k : Nat) : List Nat := d.fp.leaves (0x40 + d.surfNode k)

/-- The surface of head h that is not idle. -/
def headSurface (d : Dev) (h : Nat) : Option Nat :=
  (List.range 8).find? (fun k => (d.surf k).phase != .idle && (d.surf k).head == h)

/-- Is engine l a member of a fed surface (R226)? -/
def flattened (d : Dev) (l : Nat) : Bool := d.flag (R.LE_STATUS_FLATTENED l)

/-! Qualification (R277, R278). -/

/-- The raster rectangle of nodes' members: x, y, x past, y past; none when empty (R278). -/
def rectOf (d : Dev) (ls : List Nat) (hact vact : Nat) : Option (Nat × Nat × Nat × Nat) :=
  let rs := ls.filterMap (fun l =>
    let c := d.leCfg l 0
    let x0 := c.dstX.toNat
    let y0 := c.dstY.toNat
    let x1 := min hact (c.dstX + c.dstW).toNat
    let y1 := min vact (c.dstY + c.dstH).toNat
    if x0 < x1 ∧ y0 < y1 then some (x0, y0, x1, y1) else none)
  match rs with
  | [] => none
  | r :: t => some (t.foldl (fun a b => (min a.1 b.1, min a.2.1 b.2.1, max a.2.2.1 b.2.2.1, max a.2.2.2 b.2.2.2)) r)

/-- The owners of the members' protected planes. -/
def memberOwners (d : Dev) (ls : List Nat) : List Nat :=
  (ls.flatMap (fun l => let c := d.leCfg l 0
    if c.enable then c.planes.filterMap (fun p => match d.clearingAt (c.baseOf p) with
      | some k => if k.isProtected then some k.owner else none
      | none => none) else [])).eraseDups

/-- What a choice fixes: node, surface, clearing, rectangle, protection. -/
structure FlatPlan where
  node : Nat
  surface : Nat
  clearing : Clearing
  rect : Nat × Nat × Nat × Nat
  guarded : Bool

/-- The scratch clearing for a surface of this size and owner (R278). -/
def scratchFor (d : Dev) (bytes : Nat) (owner : Option Nat) : Option Clearing :=
  (List.range 256).findSome? (fun n => match d.clearings.find? (·.number == n) with
    | some c =>
      let fits := match owner with
        | some o => c.isProtected && c.owner == o && (match d.fp.owner o with | some r => bit r.perms 4 | none => false)
        | none => !c.isProtected
      let taken := (List.range 8).any (fun k => (d.surf k).phase != .idle && (d.surf k).clearing == c.number)
      if c.scratch && fits && !taken && decide (bytes ≤ c.size) then some c else none
    | none => none)

/-- The bursts of a row of a surface w pixels wide (R278). -/
def surfBursts (w : Nat) : Nat := ceilDiv (8 * w) 64

/-- The demand of a reader of a surface w pixels wide in a clearing, as an engine's (R265, R277): 8 bytes a pixel,
NEAREST, one row a line, aligned. -/
def readerDemand (h : Nat) (c : Clearing) (w : Nat) : EngDemand :=
  let k := surfBursts w
  let half := bits c.base 29 29
  let across := fun from' => if half = from' ∧ halfOfHead h ≠ from' then 64 * k else 0
  { le := 0, bytes := 64 * k, linePx := w
    perStack := (List.range 4).map (fun s => if s / 2 = half then 64 * min k (ceilDiv k 2 + 8) else 0)
    e2w := across 0, w2e := across 1 }

/-- Does the reader demand no more of any resource of R266 than the members' share of the head's reservation (R277)?
The share of a resource is the largest of the members' sums in the states that the head reserves. Of the
resources, the bridge carries no surface, and tags and latency are compared as bursts under way and as the issue
time after the slowest stack (DESIGN CHOICE, log entry 91). -/
def readerFits (d : Dev) (h : Nat) (ls : List Nat) (c : Clearing) (w : Nat) : Bool :=
  let x := readerDemand h c w
  let st := d.allStates
  let lam := fun s => d.lambda s (total st (·.stack s))
  let share := fun (f : EngDemand → Nat) => ((d.headRes h).states.map (fun y =>
    ((y.engines.filter (fun e => ls.contains e.le)).map f).foldl (· + ·) 0)).foldl max 0
  let tags := fun (e : EngDemand) => ((List.range 4).map (fun s => e.perStack.getD s 0 * lam s)).foldl (· + ·) 0
  let slow := fun (e : EngDemand) => ((List.range 4).filter (fun s => e.perStack.getD s 0 != 0)).foldl (fun a s => max a (lam s)) 0
  let slowest := ((d.headRes h).states.flatMap (fun y => (y.engines.filter (fun e => ls.contains e.le)).map slow)).foldl max 0
  let fits := fun (f : EngDemand → Nat) => decide (f x ≤ share f)
  fits (·.bytes) && fits (·.linePx) && (List.range 4).all (fun s => fits (·.perStack.getD s 0)) && fits (·.e2w) &&
    fits (·.w2e) && fits tags && decide (slow x * 64 * d.lecHz (32 * halfOfHead h) + 1000000000 * x.bytes ≤
      slowest * 64 * d.lecHz (32 * halfOfHead h) + 1000000000 * share (·.bytes))

/-- Have all members of a subtree been calm for STABLE_N frames (R277)? -/
def calm (d : Dev) (node : Nat) : Bool :=
  let n := d.fld R.GV_FLAT_CFG_STABLE_N
  (d.fp.subtree 66 (0x40 + node)).all (fun v =>
    decide (n ≤ if v < 0x40 then at' d.gv.leCalm v 0 else at' d.gv.nodeCalm (v - 0x40) 0))

/-- A node as a candidate of head h: its plan, and how many engines it has. -/
def candidate (d : Dev) (h node : Nat) : Option (FlatPlan × Nat) :=
  let ls := d.fp.leaves (0x40 + node)
  let t := d.liveTiming h
  let owners := d.memberOwners ls
  if (ls.filter (fun l => (d.leCfg l 0).enable)).length < 2 || !d.calm node || decide (1 < owners.length) then none
  else match d.rectOf ls t.hact t.vact, (List.range 4).find? (fun k => (d.surf (4 * halfOfHead h + k)).phase == .idle) with
    | some r, some k =>
      let w := r.2.2.1 - r.1
      match d.scratchFor (64 * surfBursts w * (r.2.2.2 - r.2.1)) owners.head? with
      | some c =>
        if d.readerFits h ls c w then some (⟨node, 4 * halfOfHead h + k, c, r, !owners.isEmpty⟩, ls.length) else none
      | none => none
    | _, _ => none

/-- The governor's choice for head h: most member engines, then the lower node (R277). -/
def choose (d : Dev) (h : Nat) : Option FlatPlan :=
  if !d.flag R.GV_CTRL_FLAT_EN || d.flag R.GV_STATUS_FORCED_ACTIVE || d.isSafe Block.GV.base || (d.headSurface h).isSome ||
      d.run h != 2 then none
  else
    let cs := ((d.fp.tree h).filter (fun v => decide (0x40 ≤ v ∧ v < 0x80))).mergeSort.filterMap (fun v => d.candidate h (v - 0x40))
    (cs.foldl (fun (b : Option (FlatPlan × Nat)) c => match b with
      | some x => if x.2 < c.2 then some c else b
      | none => some c) none).map (·.1)

/-! States (R279, R280). -/

/-- Members' calm counts restart. -/
def uncalm (d : Dev) (ls : List Nat) : Dev :=
  { d with gv := { d.gv with leCalm := ls.foldl (fun v l => upd v l (fun _ => 0)) d.gv.leCalm } }

/-- The record of a fed surface's end (R280). -/
def feedEnded (d : Dev) (k code : Nat) : Dev :=
  (d.setFlds [(R.GV_FLAT_STATE_STATE k, 0), (R.GV_FLAT_STATE_LAST k, code)]).count R.GV_DISSOLVE_COUNT_COUNT 1
    R.GV_STATUS_STAT_SAT [R.GV_STATUS_FLAT_DISSOLVE]

/-- The members of a surface that was fed fetch again, line 0 of the frame that starts among their rows (R226, R280). -/
def unfeed (d : Dev) (h : Nat) (ls : List Nat) : Dev :=
  let d := ls.foldl (fun d l => d.setFld (R.LE_STATUS_FLATTENED l) 0) d
  { d with hd := upd d.hd h (fun s => { s with refill := s.ticking }) }

/-- Surface k returns to idle with a trigger code (R280). -/
def dissolve (d : Dev) (k code : Nat) : Dev :=
  let s := d.surf k
  let ls := d.surfMembers k
  let d := (d.updSurf k (fun s => { SurfaceSt.reset with gen := s.gen + 1 })).uncalm ls
  match s.phase with
  | .idle => d
  | .chosen => d
  | .fed => (d.unfeed s.head ls).feedEnded k code
  | .ending => d.unfeed s.head ls
  | _ =>
    (d.setFlds [(R.GV_FLAT_STATE_STATE k, 0), (R.GV_FLAT_STATE_LAST k, code)]).eventF [R.GV_STATUS_CAPTURE_ABORT]

/-- Surface k dissolves with STOP (R280). While its head goes on, a surface that is fed supplies the rest of the frame
(DESIGN CHOICE, log entry 34: its members fetch again only from the next frame, R226). -/
def stopSurface (d : Dev) (k : Nat) : Dev :=
  let s := d.surf k
  if (at' d.hd s.head HeadSt.reset).ticking then
    match s.phase with
    | .fed => (d.updSurf k (fun s => { s with phase := .ending })).feedEnded k 9
    | .ending => d
    | _ => d.dissolve k 9
  else d.dissolve k 9

/-- Every surface of a head, or of the unit, dissolves at once with STOP (R280). -/
def stopSurfaces (d : Dev) (of : Nat → Bool) : Dev :=
  (List.range 8).foldl (fun d k =>
    if (d.surf k).phase != .idle && of (d.surf k).head then d.stopSurface k else d) d

/-- GV_FLAT_DISABLE (R283). -/
def flatDisable (d : Dev) : Dev := (d.setFld R.GV_CTRL_FLAT_EN 0).stopSurfaces (fun _ => true)

/-- A trigger that takes effect at the next harvest point (R280, R281). -/
def flatTrigger (d : Dev) (k code : Nat) : Dev :=
  d.updSurf k (fun s => { s with
    trigger := s.trigger.or (some code), notJudged := s.notJudged || s.phase == .fed || s.phase == .ending })

/-- A live write to a member engine's register or a member node's CTRL (source code v): LIVE, and the calm count
restarts at the end of the frame (R277, R280). -/
def liveChange (d : Dev) (v : Nat) : Dev :=
  let d := { d with gv := { d.gv with changed := if d.gv.changed.contains v then d.gv.changed else d.gv.changed ++ [v] } }
  (List.range 8).foldl (fun d k =>
    if (d.surf k).phase != .idle && (d.fp.subtree 66 (0x40 + d.surfNode k)).contains v then d.flatTrigger k 3 else d) d

/-- Writes since the last look that reached a member plane's span: WATCH (R280). -/
def watch (d : Dev) : Dev :=
  let hit := fun (k : Nat) => (d.surfMembers k).any (fun l =>
    let c := d.leCfg l 0
    c.enable && c.planes.any (fun p =>
      let first := c.baseOf p
      let past := first + c.pitchOf p * (c.planeH p - 1) + c.planeW p * c.bytesOf p
      d.fs.written.any (fun a => decide (a < past ∧ first < a + 64))))
  let d' := (List.range 8).foldl (fun d k => if (d.surf k).phase != .idle && hit k then d.flatTrigger k 4 else d) d
  { d' with fs := { d'.fs with written := [] } }

/-- A new frame's calm counts for engine or node v of head h's tree (R277), after its signature has been moved;
`dirty` the live DIRTY of the frame just ended. -/
def calmFrame (d : Dev) (dirty : Nat → Bool) (v : Nat) : Dev :=
  let changed := d.gv.changed.contains v
  if v < 0x40 then
    let sig := d.fld (R.LE_SIG_SIG v)
    let still := d.flag (R.LE_SIG_INFO_SIG_VALID v) && sig == at' d.gv.lastSig v 0 && !dirty v && !d.flattened v
    { d with gv := { d.gv with
        leCalm := upd d.gv.leCalm v (fun n => if still && !changed then min (n + 1) 255 else 0)
        lastSig := upd d.gv.lastSig v (fun _ => sig), changed := d.gv.changed.filter (· != v) } }
  else { d with gv := { d.gv with
        nodeCalm := upd d.gv.nodeCalm (v - 0x40) (fun n => if changed then 0 else min (n + 1) 255)
        changed := d.gv.changed.filter (· != v) } }

/-- A harvest changed the register of engine or node v: its calm count restarts (R277). -/
def harvestChange (d : Dev) (v : Nat) : Dev :=
  if v < 0x40 then { d with gv := { d.gv with leCalm := upd d.gv.leCalm v (fun _ => 0) } }
  else { d with gv := { d.gv with nodeCalm := upd d.gv.nodeCalm (v - 0x40) (fun _ => 0) } }

/-- A member's signature changed or is invalid in the frame just ended, against the frame before (SIGNATURE, R280). -/
def signatureBroken (d : Dev) (k : Nat) (before : Nat → Nat) : Bool :=
  (d.surfMembers k).any (fun l => !d.flag (R.LE_SIG_INFO_SIG_VALID l) || d.fld (R.LE_SIG_SIG l) != before l)

/-! The surface in the frame store (R278, R279). -/

/-- Address of a row of surface k. -/
def surfRow (d : Dev) (k row : Nat) : Nat := (d.surf k).base + 64 * surfBursts (d.surf k).w * row

/-- Does raster line y cross surface k's rectangle? -/
def surfLine (d : Dev) (k y : Nat) : Bool :=
  decide ((d.surf k).y ≤ y ∧ y < (d.surf k).y + (d.surf k).h)

/-- The eight bytes of a pixel in format 0x40; a pixel that is lacking is written as transparent black. -/
def pixelBytes : Pixel → List Byte
  | .rgba r g b a => toLe 2 r ++ toLe 2 g ++ toLe 2 b ++ toLe 2 a
  | _ => toLe 8 0

/-- A captured line is complete: it is written, and its CRC kept (R279). A refused burst ends the capture as a
poisoned completion does (R540). -/
def captureLine (d : Dev) (k y : Nat) : Dev :=
  let s := d.surf k
  if s.phase ≠ .capture ∨ !d.surfLine k y then d
  else
    let row := d.surfRow k (y - s.y)
    let r := (List.range (surfBursts s.w)).foldl (fun (p : Dev × Bool) i =>
      let l := slice s.tap (64 * i) 64
      let w : BurstWrite := ⟨l ++ List.replicate (64 - l.length) 0, BitVec.ofNat 64 (2 ^ l.length - 1)⟩
      let q := p.1.fsAccept ⟨.gv, row + 64 * i, some w, .flatWrite k s.gen⟩
      (q.1, p.2 || q.2 == .refused || q.2 == .stackSafe)) (d, false)
    if r.2 then r.1.dissolve k 6 else r.1.updSurf k (fun z => { z with lineCrcs := z.lineCrcs ++ [crc32 s.tap], tap := [] })

/-- A capture write that waited for a tag was refused (R540). -/
def flatRefused (d : Dev) (k gen : Nat) : Dev :=
  if (d.surf k).phase = .capture ∧ (d.surf k).gen = gen then d.dissolve k 6 else d

/-- How one of surface k's bursts now stands. -/
def setSurfBurst (d : Dev) (k row i : Nat) (st : BurstState) : Dev :=
  d.updSurf k (fun s => { s with reads := s.reads.map (fun b => if b.row == row && b.i == i then { b with st := st } else b) })

/-- A burst that surface k's verify or reader needs does not come: POISON, at once for a verify (R173, R279, R280,
R540). -/
def surfLost (d : Dev) (k : Nat) : Dev :=
  if (d.surf k).phase = .verify then d.dissolve k 6 else d.flatTrigger k 6

/-- Ask for burst i of a row of surface k, in the scan-out class for the reader (`scan`, R278), as bulk for the
verify. -/
def surfRead (d : Dev) (k : Nat) (scan : Bool) (row i : Nat) : Dev :=
  let s := d.surf k
  let purpose : Purpose := if scan then .flatRead k s.gen row i else .flatVerify k s.gen row i
  let r := (d.updSurf k (fun s => { s with reads := s.reads ++ [⟨row, i, .asked⟩] })).fsAccept
    ⟨.gv, d.surfRow k row + 64 * i, none, purpose⟩
  if r.2 = .refused ∨ r.2 = .stackSafe then (r.1.setSurfBurst k row i .refused).surfLost k else r.1

/-- The verify of surface k asks for its next bursts in row order, as far as GV's tags go (R163, R279). -/
def verifyIssue (k : Nat) : Nat → Dev → Dev
  | 0, d => d
  | fuel + 1, d =>
    let s := d.surf k
    let n := surfBursts s.w
    if s.phase = .verify ∧ (s.reads.filter (·.st == .asked)).length < 1024 ∧ s.next < n * s.h then
      verifyIssue k fuel ((d.updSurf k (fun s => { s with next := s.next + 1 })).surfRead k false (s.next / n) (s.next % n))
    else d

/-- A row of surface k's verify is complete: its CRC is compared (R279). -/
def verifyRow (d : Dev) (k row : Nat) : Dev :=
  let s := d.surf k
  let mine := s.reads.filter (·.row == row)
  let got := fun (i : Nat) => (mine.find? (·.i == i)).bind (fun b => match b.st with | .held l => some l | _ => none)
  if (List.range (surfBursts s.w)).all (fun i => (got i).isSome) then
    let bytes := (((List.range (surfBursts s.w)).flatMap (fun i => (got i).getD [])).take (8 * s.w))
    if s.lineCrcs[row]? = some (crc32 bytes) then
      d.updSurf k (fun s => { s with reads := s.reads.filter (·.row != row), checked := s.checked + 1 })
    else d.dissolve k 5
  else d

/-- A burst of the verify is delivered. -/
def verifyArrived (d : Dev) (k gen row i : Nat) (poisoned : Bool) (bytes : List Byte) : Dev :=
  if (d.surf k).phase ≠ .verify ∨ (d.surf k).gen ≠ gen then d
  else if poisoned then d.surfLost k
  else verifyIssue k 1024 ((d.setSurfBurst k row i (.held bytes)).verifyRow k row)

/-- A burst of the reader is delivered (R278); a poisoned one gives POISON as the surface's trigger (R280). -/
def readerArrived (d : Dev) (k gen row i : Nat) (poisoned : Bool) (bytes : List Byte) : Dev :=
  if (d.surf k).gen ≠ gen then d
  else if poisoned then (d.setSurfBurst k row i .poisoned).surfLost k
  else d.setSurfBurst k row i (.held bytes)

/-- A read of surface k that waited for a tag was refused (R540). -/
def surfReadRefused (d : Dev) (k gen row i : Nat) : Dev :=
  if (d.surf k).gen ≠ gen then d else (d.setSurfBurst k row i .refused).surfLost k

/-- Is surface k on screen? -/
def onScreen (d : Dev) (k : Nat) : Bool := (d.surf k).phase == .fed || (d.surf k).phase == .ending

/-- The reader of head h's fed surface asks for raster line y (R278). The spec gives the reader no moment of its own;
it asks for a line as the line before it starts (DESIGN CHOICE, log entry 34). -/
def feedFetch (d : Dev) (h y : Nat) : Dev :=
  match d.headSurface h with
  | none => d
  | some k =>
    let row := y - (d.surf k).y
    if d.onScreen k && d.surfLine k y && !(d.surf k).reads.any (·.row == row) then
      (List.range (surfBursts (d.surf k).w)).foldl (fun d i => d.surfRead k true row i) d
    else d

/-- The reader asks for line 0 of the next frame, unless the surface is to end with this one. -/
def feedAgain (d : Dev) (h : Nat) : Dev :=
  match d.headSurface h with
  | none => d
  | some k => if (d.surf k).phase = .fed ∧ (d.surf k).trigger = none then d.feedFetch h 0 else d

/-- Raster line y of head h has been shown: the reader's bursts of it go. -/
def feedForget (d : Dev) (h y : Nat) : Dev :=
  match d.headSurface h with
  | none => d
  | some k => if d.onScreen k && d.surfLine k y then
      d.updSurf k (fun s => { s with reads := s.reads.filter (·.row != y - s.y) }) else d

/-- What stands in for node N of head h's fed surface at (x, y) (R278, R279): the surface's pixel; transparent black
outside its rectangle. -/
def fedPixel (d : Dev) (h x y node : Nat) : Option Pixel :=
  match d.headSurface h with
  | none => none
  | some k =>
    let s := d.surf k
    if !d.onScreen k || s.node != node then none
    else if !d.surfLine k y || decide (x < s.x) || decide (s.x + s.w ≤ x) then some clearPixel
    else
      let i := x - s.x
      match (s.reads.find? (fun (b : SurfBurst) => b.row == y - s.y && b.i == i / 8)).map SurfBurst.st with
      | some (.held l) =>
        let c := fun j => field l (8 * (i % 8) + 2 * j) 2
        some (.rgba (c 0) (c 1) (c 2) (c 3))
      | some .asked => some .missing
      | none => some .missing
      | _ => some .poison

/-- A surface's capture starts, unless it no longer qualifies (R279). -/
def startCapture (d : Dev) (k : Nat) : Dev :=
  if d.calm (d.surfNode k) && !d.flag R.GV_STATUS_FORCED_ACTIVE then
    (d.updSurf k (fun s => { s with phase := .capture, lineCrcs := [], frames := 0, tap := [] })).setFld (R.GV_FLAT_STATE_STATE k) 1
  else d.dissolve k 2

/-- A surface enters the fed state (R226, R279). -/
def startFeed (d : Dev) (k : Nat) : Dev :=
  let d := (d.updSurf k (fun s => { s with phase := .fed, reads := [] })).setFld (R.GV_FLAT_STATE_STATE k) 3
  let d := (d.surfMembers k).foldl (fun d l =>
    d.setFlds [(R.LE_STATUS_FLATTENED l, 1), (R.LE_SIG_INFO_SIG_HELD l, 1)]) d
  d.count R.GV_FLAT_COUNT_COUNT 1 R.GV_STATUS_STAT_SAT

/-- Surface k at a harvest point of its head: a trigger takes effect (`code` one of the harvest itself, R280), or the
surface moves on (R279). -/
def surfaceHarvest (d : Dev) (k : Nat) (code : Option Nat) (before : Nat → Nat) : Dev :=
  match if (d.surf k).phase = .ending then some 9 else code.or (d.surf k).trigger with
  | some c => d.dissolve k c
  | none =>
    match (d.surf k).phase with
    | .chosen => d.startCapture k
    | .capture =>
      if d.signatureBroken k before || (d.surf k).lineCrcs.length != (d.surf k).h then d.dissolve k 5
      else
        let sig := crc32 ((d.surf k).lineCrcs.flatMap (toLe 4))
        verifyIssue k 1024 (((d.updSurf k (fun s => { s with
          phase := .verify, frames := 0, reads := [], next := 0, checked := 0 })).setFld (R.GV_FLAT_STATE_STATE k) 2).setFld
          (R.GV_FLAT_SIG_SIG k) sig)
    | .verify =>
      if d.signatureBroken k before then d.dissolve k 5
      else if 3 ≤ (d.surf k).frames then d.dissolve k 8
      else d.updSurf k (fun s => { s with frames := s.frames + 1 })
    | .passed => if d.signatureBroken k before then d.dissolve k 5 else d.startFeed k
    | _ => d

/-- A candidate of head h, if any, is taken (R277). -/
def takeCandidate (d : Dev) (h : Nat) : Dev :=
  match d.choose h with
  | some p =>
    let r := p.rect
    let d := d.setFlds [(R.GV_FLAT_STATE_HEAD p.surface, h), (R.GV_FLAT_STATE_CLEARING p.surface, p.clearing.number),
      (R.GV_FLAT_STATE_NODE p.surface, p.node), (R.GV_FLAT_POS_X p.surface, r.1), (R.GV_FLAT_POS_Y p.surface, r.2.1),
      (R.GV_FLAT_SIZE_W p.surface, r.2.2.1 - r.1), (R.GV_FLAT_SIZE_H p.surface, r.2.2.2 - r.2.1)]
    d.updSurf p.surface (fun s => { SurfaceSt.reset with
      gen := s.gen, phase := .chosen, head := h, node := p.node, clearing := p.clearing.number, base := p.clearing.base, x := r.1
      y := r.2.1, w := r.2.2.1 - r.1, h := r.2.2.2 - r.2.1, guarded := p.guarded })
  | none => d

/-- FLAT_CAPTURE_OVERFLOW (R279). -/
def captureOverflow (d : Dev) (k : Nat) : Dev := if (d.surf k).phase = .capture then d.dissolve k 7 else d

/-- FLAT_VERIFY_TIMEOUT (R279). -/
def verifyTimeout (d : Dev) (k : Nat) : Dev := if (d.surf k).phase = .verify then d.dissolve k 8 else d

/-- FLAT_VERIFY_DONE (R279): the read-back passes once every line has been compared. A mismatch, or a poisoned
completion of one of the verify's reads, has ended the verify before; `poisoned` reports the end that a poisoned
completion gives it. -/
def verifyDone (d : Dev) (k : Nat) (poisoned : Bool) : Dev :=
  if (d.surf k).phase ≠ .verify then d
  else if poisoned then d.surfLost k
  else if (d.surf k).h ≤ (d.surf k).checked then d.updSurf k (fun s => { s with phase := .passed }) else d

end Dev

end Sys2Proof.Machine
end

