-- ==== Sys2Proof/Machine/Scanout.lean ====
section
/-!
DEFINITION. Scan-out: the engines' row requests (R217, R223, R427, R429), and the pixels of an active line from the
tree to the output codes, each computed when it leaves the head, underrun (R309), and the end of a line with its
share of the freeze CRC (R310).
-/
namespace Sys2Proof.Machine
namespace Dev

/-- The head whose counters head h's timing generator runs from (R312, R316). -/
def clockHead (d : Dev) : Nat → Nat → Nat
  | 0, h => h
  | fuel + 1, h =>
    if (d.head h).sync = .locked then
      match d.cloneSource h, (d.head h).follows with
      | some s, _ => d.clockHead fuel s
      | none, some l => d.clockHead fuel l
      | none, none => h
    else h

def clock (d : Dev) (h : Nat) : Nat := d.clockHead 3 h

/-- The timing that head h's raster has now. -/
def raster (d : Dev) (h : Nat) : Timing := d.liveTiming (d.clock h)

/-- The heads that run from head n's counters: n, its follower, then the clones of either. -/
def members (d : Dev) (n : Nat) : List Nat :=
  let l := (List.range 8).filter (fun h => (d.head h).ticking && h != n && d.clock h == n)
  n :: (l.filter (fun h => (d.cloneSource h).isNone) ++ l.filter (fun h => (d.cloneSource h).isSome))

/-- The line at head h's output. -/
def lineNow (d : Dev) (h : Nat) : Nat := d.fld (R.HD_POS_LINE h)

/-- The pixel at head h's output, rounded down to a multiple of 4 (R291, R327): 4 px per clk PXC of the head whose
counters it runs from, since its line started. -/
def pixelNow (d : Dev) (h : Nat) : Nat :=
  let c := d.clock h
  let t := d.liveTiming c
  if (d.head c).harvestDue then 0 else min (4 * (rawSince d.raw (d.head c).lineRaw * t.khz / 800000)) ((t.htotal - 1) / 4 * 4)

/-! Split pairs and clones: whose counters a head takes next (R314 to R316). -/

/-- The leader of head n's pair by the two LEADER fields (R314); nothing where both are 0 or there is no partner. -/
def pairLeader (d : Dev) (n : Nat) : Option Nat :=
  match d.partner n with
  | none => none
  | some p =>
    let lo := min n p
    let hi := max n p
    if d.flag (R.HD_SPLIT_CTRL_LEADER lo) then some lo else if d.flag (R.HD_SPLIT_CTRL_LEADER hi) then some hi else none

/-- The source or leader whose harvest point head n's start waits for (R315, R316). -/
def joins (d : Dev) (n : Nat) : Option Nat :=
  match d.cloneSource n with
  | some s => if d.run s = 2 then some s else none
  | none => match d.pairLeader n with
    | some l => if l ≠ n ∧ d.run l = 2 then some l else none
    | none => none

/-- Whose harvest point head h aligns with or joins: its source or leader, unless it runs from its counters already. -/
def alignsWith (d : Dev) (h : Nat) : Option Nat :=
  if (d.head h).sync = .locked then none else (d.cloneSource h).or (d.head h).follows

/-- The head at whose frame end head h's next frame starts, if one is to start: its own counters' head, or the one
that it aligns with or waits to join. -/
def nextFrameFrom (d : Dev) (h : Nat) : Option Nat :=
  let s := d.head h
  if s.ticking then
    if s.sync = .aligning then (d.alignsWith h).map d.clock else some (d.clock h)
  else if d.run h = 1 then (d.joins h).map d.clock
  else none

/-! Row requests (R217). -/

def engine (d : Dev) (l : Nat) : LeSt := at' d.le l .reset

def updEngine (d : Dev) (l : Nat) (f : LeSt → LeSt) : Dev := { d with le := upd d.le l f }

/-- Engine l holds nothing any more; numbers of bursts that are still under way are not used again. -/
def emptyEngine (d : Dev) (l : Nat) : Dev := d.updEngine l (fun e => { LeSt.reset with nextId := e.nextId })

/-- The unit with head h's sealed image in its live registers, as a preload of the next frame reads it (R297). -/
def withImage (d : Dev) (h : Nat) : Dev :=
  match (d.head h).image with
  | some l => l.foldl (fun d p => d.set p.1 p.2) d
  | none => d

/-- Does head h's sealed image change its timing, EVE apart (R306)? -/
def imageChangesTiming (d : Dev) (h : Nat) : Bool := d.timingWords h 0 != (d.withImage h).timingWords h 0

/-- Request one burst of engine l for its cache: plane, row, offset from the row's start, address (R180, R223, R427,
R429, R540). -/
def fetchBurst (d : Dev) (l : Nat) (ahead : Bool) (b : Nat × Nat × Int × Nat) : Dev :=
  let id := (d.engine l).nextId
  let put := fun (d : Dev) (st : BurstState) => d.updEngine l (fun e => { e with
    cache := e.cache ++ [⟨id, b.1, b.2.1, b.2.2.1, st, ahead⟩], nextId := id + 1 })
  let at_ := match d.streamOf l with
    | some m => if b.1 = 0 then (d.strTranslate m b.2.2.2, some m) else ((b.2.2.2, none), none)
    | none => ((b.2.2.2, none), none)
  match at_ with
  | ((_, some band), some m) => put (d.closeBand m band) .late
  | ((a, _), _) =>
    let r := d.fsAccept ⟨.le (Fin.ofNat 64 l), a % 2 ^ 30, none, .leFetch l id⟩
    match r.2 with
    | .refused => (put r.1 .refused).count (R.LE_REFUSED_COUNT_COUNT l) 1 (R.LE_STATUS_STAT_SAT l) [R.LE_STATUS_FETCH_REFUSED l]
    | .stackSafe => put r.1 .refused
    | _ => put r.1 .asked

/-- Request the rows that raster line y needs of engine l with configuration c and that have not been requested yet
(R217, R221), in the frame in progress or the next. The preload of the first visible line of a frame advances the
engine's stream (R427). -/
def fetchLine (d : Dev) (l : Nat) (c : LeCfg) (w : Nat) (y : Nat) (ahead : Bool) : Dev :=
  match c.lineOf y with
  | none => d
  | some k =>
    let held := (d.engine l).cache.filter (·.ahead == ahead)
    let rows := (c.lineRows k).filter (fun r => !held.any (fun b => b.plane == r.1 && b.row == r.2))
    let bs := rows.flatMap (fun r => (c.rowBursts w r.1 r.2).map (fun b => (r.1, r.2, b.1, b.2)))
    let first := y == c.dstY.toNat && held.isEmpty && !bs.isEmpty
    let d := match d.streamOf l with
      | some m => if first then d.strAdvance m else d
      | none => d
    bs.foldl (fun d b => d.fetchBurst l ahead b) d

/-- Head h's engine l requests what line y of the frame in progress needs; `lead`: only if it is the layer's first
visible line (R217). -/
def fetchNow (d : Dev) (h l y : Nat) (lead : Bool) : Dev :=
  let c := d.leCfg l 0
  let t := d.raster h
  if !c.enable || decide (t.vact ≤ y) || (lead && y != c.dstY.toNat) || (d.head h).background then d
  else d.fetchLine l c t.hact y false

/-- The same for line y of the next frame, on head k's counters, from the sealed image (R297, R306). -/
def fetchAhead (d : Dev) (h k l y : Nat) (lead : Bool) : Dev :=
  let e := d.withImage h
  let c := e.leCfg l 0
  let t := e.liveTiming k
  if !c.enable || decide (t.vact ≤ y) || (lead && y != c.dstY.toNat) || d.run h == 3 || d.imageChangesTiming h then d
  else d.fetchLine l c t.hact y true

/-- LE_ROW_FETCH: the requests of engine l during the line its head scans (R217, R226, R306). A head that aligns with
another head's frame, or waits to join it, preloads on that head's lines. -/
def rowFetch (d : Dev) (l : Nat) : Dev :=
  match d.fp.leRec l with
  | none => d
  | some r =>
    let h := r.head
    let s := d.head h
    if !(d.fp.tree h).contains l || d.flattened l then d
    else
      let y := d.lineNow h
      let total := (d.raster h).vtotal + (d.head (d.clock h)).extra
      let own := s.ticking && s.sync != .aligning
      let d := if own && s.refill && y == 0 then d.fetchNow h l 0 false else d
      let d := if own && decide (y + 1 < total) then d.fetchNow h l (y + 1) false else d
      let d := if own && decide (y + 2 < total) then d.fetchNow h l (y + 2) true else d
      match d.nextFrameFrom h with
      | none => d
      | some k =>
        let y := d.lineNow k
        let total := (d.liveTiming k).vtotal + (d.head k).extra
        if (d.head k).hold then d
        else
          let d := if total ≤ y + 1 then d.fetchAhead h k l (y + 1 - total) false else d
          if total ≤ y + 2 then d.fetchAhead h k l (y + 2 - total) true else d

/-- A layer engine's burst arrives, or is refused late (R223). -/
def fetchDone (d : Dev) (l id : Nat) (st : BurstState) : Dev :=
  d.updEngine l (fun e => { e with cache := e.cache.map (fun b =>
    if b.id == id && b.st == .asked then { b with st := st } else b) })

/-! The pixels of a line. -/

/-- A layer ready for one raster line: its configuration and output line, what it holds of the frame, and whether a
row of the line is late. -/
structure LineLayer where
  le : Nat
  cfg : LeCfg
  line : Nat
  late : Bool
  cache : List CacheBurst

/-- The layers of head h's tree that cross raster line y (R233, R429), with the geometry that the line took at its
start and the rest of the configuration as it stands (R221). -/
def lineLayers (d : Dev) (h y : Nat) : List LineLayer :=
  let w := (d.raster h).hact
  (d.fp.treeEngines h).filterMap fun l =>
    match (d.engine l).shown with
    | none => none
    | some g =>
      let c := g.onLine (d.leCfg l 0)
      if !c.enable || c.planes.isEmpty || d.flattened l then none
      else match c.lineOf y with
        | none => none
        | some k =>
          let cache := (d.engine l).cache.filter (!·.ahead)
          some ⟨l, c, k, cache.any (fun b => b.st == .late && c.takes w k b), cache⟩

/-- Pixel x of a layer on its line (R201, R233). Rows missing after ENABLE was turned on in mid-frame are transparent
black (R221). -/
def layerPixel (d : Dev) (y : LineLayer) (x : Nat) : Pixel :=
  let j := (x : Int) - y.cfg.dstX
  if j < 0 ∨ (y.cfg.dstW : Int) ≤ j then clearPixel
  else if y.late then .missing
  else match d.lePixel y.le y.cfg y.cache j.toNat y.line with
    | .missing => if (d.engine y.le).fedLate then clearPixel else .missing
    | p => p

/-- A source of the tree at (x, y) of head h, from the layers of the line (R233, R278). -/
def sourceAt (d : Dev) (h y : Nat) (ls : List LineLayer) (x v : Nat) : Pixel :=
  let layer := fun (l : Nat) => match ls.find? (fun (z : LineLayer) => z.le == l) with
    | some z => d.layerPixel z x
    | none => clearPixel
  d.treeValue layer (d.fedPixel h x y) 66 v

/-! Background output (R149, R244, R246, R346). -/

/-- Is a clearing that head h's tree scans out refused for a configuration-parity fault (R149)? -/
def faultyClearing (d : Dev) (h : Nat) : Bool :=
  (d.fp.treeEngines h).any (fun v => (d.leCfg v 0).enable && (d.leCfg v 0).planes.any (fun p =>
    match d.clearingAt ((d.leCfg v 0).baseOf p) with | some c => d.entryFault c.number | none => false)) ||
  match d.headSurface h with
  | some k => d.onScreen k && d.entryFault (d.surf k).clearing
  | none => false

/-- Is head h's output forced to background by a parity safe state on its path (R149)? -/
def safeOut (d : Dev) (h : Nat) : Bool :=
  let src := (d.cloneSource h).getD h
  let tree := d.fp.tree src
  let cn := fun x => d.isSafe (Block.CN.base + x) && tree.any (fun v =>
    if v < 0x40 then d.fp.bridged v && halfOfEngine v == x else decide ((v - 0x40) / 32 = x))
  d.isSafe (Block.HD.base + h) || d.isSafe (Block.DP.base + h) || d.isSafe (Block.HD.base + src) ||
    (List.range 4).any (fun s => d.isSafe (Block.FS.base + s)) || tree.any (fun v => decide (v < 0x40) && d.isSafe (Block.LE.base + v)) ||
    cn 0 || cn 1 || d.faultyClearing src || (d.isSafe Block.KY.base && d.streamMark h != 0)

/-- The blocking of R246 and R346 as a line starts. -/
def lineBlocked (d : Dev) (h : Nat) : Bool :=
  let s := d.head h
  s.blocked || decide (s.mark < d.streamMark h) || !d.meets h s.mark

/-- Does head h output BG_OUT on this line, whatever its input (R244)? -/
def backgroundLine (d : Dev) (h : Nat) : Bool :=
  let s := d.head h
  let src := match d.cloneSource h with
    | some c => !(d.head c).ticking || s.sync != .locked || (d.head c).background
    | none => false
  s.background || s.blocked || src || d.safeOut h

/-- A substituted pixel (R244, R310). -/
def bgPixel (d : Dev) (h : Nat) : OutPx :=
  let b := d.bgOut h
  .px [0x7E00, 0x7E00, 0x7E00] [b.1, b.2.1, b.2.2]

/-- One output pixel of head h at (x, y) from its input (R247, R251, R310). -/
def outPixel (d : Dev) (h x y : Nat) (v : List Fl) : OutPx :=
  let codes := d.colourStages h v
  .px (v.map Fl.toHalf) (codes.map (ditherCode (d.fld (R.HD_OC_CTRL_DITHER h 0)) (d.outBits h)
    (d.fld (R.HD_FRAME_COUNT_COUNT h)) x y))

/-! Underrun (R242, R309). -/

/-- CAUSE of an underrun on raster line y of a stream of head h's tree: the first row of the table of R309 that
applies to the line. -/
def lineCause (d : Dev) (h y : Nat) : Nat :=
  let w := (d.raster h).hact
  let ls := d.lineLayers h y
  let spoilt := ls.any (fun (z : LineLayer) => z.cache.any (fun b => b.st == .poisoned && z.cfg.takes w z.line b))
  let reader := match d.headSurface h with
    | some k => d.onScreen k && (d.surf k).reads.any (fun b => b.row == y - (d.surf k).y && (b.st == .poisoned || b.st == .refused))
    | none => false
  if d.flag R.GV_STATUS_FORCED_ACTIVE then 1 else if spoilt || reader then 2
  else if ls.any (fun (z : LineLayer) => z.late) then 3 else 0

/-- Head h underruns at pixel x of its line. -/
def underrun (d : Dev) (h x : Nat) : Dev :=
  let y := d.lineNow h
  let src := (d.cloneSource h).getD h
  let ls := (d.lineLayers src y).filter (fun (z : LineLayer) =>
    d.fp.bridged z.le && (match d.layerPixel z x with | .rgba .. => false | _ => true))
  let cause := d.lineCause src y
  let d := d.updHead h (fun s => { s with cut := some x })
  let d := if bit (d.get (R.HD_STATUS h)).toNat 6 then d else
    d.setFlds [(R.HD_UNDERRUN_INFO_LINE h, y), (R.HD_UNDERRUN_INFO_CAUSE h, cause)]
  let d := d.count (R.HD_UNDERRUN_COUNT_COUNT h) 1 ⟨R.HD_STATUS h, 14, 14⟩ [⟨R.HD_STATUS h, 6, 6⟩]
  let half := halfOfHead h
  if ls.isEmpty ∨ src ≠ h then d
  else d.count (R.CN_BRIDGE_LATE_COUNT_COUNT half) ls.length (R.CN_STATUS_STAT_SAT half) [R.CN_STATUS_BRIDGE_LATE half]

/-! A line from its start to its end. -/

/-- The pixels of head h's line from those output already up to pixel px, each from the state as it stands: its input,
or background; where an active pixel's input holds none, the line underruns from there (R243 to R247, R309). A
clone takes its source's head input (R245). -/
def drawTo (d : Dev) (px h : Nat) : Dev :=
  let s := d.head h
  let y := d.lineNow h
  let t := d.raster h
  let src := (d.cloneSource h).getD h
  let bg := d.bgPixel h
  let covered := d.backgroundLine h
  let ls := if covered then [] else d.lineLayers src y
  let base := d.baseColour src
  let root := (d.fp.cap src).root
  let xs := (List.range px).drop s.row.length
  let blank := fun x => decide (t.hact ≤ x ∨ t.vact ≤ y)
  let given := xs.map (fun x =>
    if blank x then (x, some OutPx.blank) else if covered then (x, some bg)
    else (x, (headInput base (d.sourceAt src y ls x root)).map (d.outPixel h x y)))
  let cut := s.cut.or ((given.find? (·.2.isNone)).map (·.1))
  let past := fun x => match cut with | some c => decide (c ≤ x) | none => false
  let d := match s.cut, cut with
    | none, some x => d.underrun h x
    | _, _ => d
  d.updHead h (fun s => { s with
    row := s.row ++ given.map (fun p => if past p.1 && !blank p.1 then bg else p.2.getD bg) })

/-- Node N's output at the pixels from x0 up to x1 of raster line y goes to the capture of head h's surface (R279). -/
def tapTo (d : Dev) (h y x0 x1 : Nat) : Dev :=
  match d.headSurface h with
  | none => d
  | some k =>
    let s := d.surf k
    if s.phase ≠ .capture ∨ !d.surfLine k y then d
    else
      let ls := if (d.head h).background then [] else d.lineLayers h y
      let xs := ((List.range (min x1 (s.x + s.w))).drop (max x0 s.x))
      d.updSurf k (fun z => { z with tap := z.tap ++ xs.flatMap (fun x => pixelBytes (d.sourceAt h y ls x (0x40 + s.node))) })

/-- Head h's line goes on to pixel px. -/
def drawHead (px : Nat) (d : Dev) (h : Nat) : Dev :=
  let d := if (d.cloneSource h).isNone then d.tapTo h (d.lineNow h) (d.head h).row.length px else d
  d.drawTo px h

/-- Does line 0 of head h, or of its source, still wait for rows that are fetched during it (R280)? -/
def refilling (d : Dev) (h : Nat) : Bool :=
  d.lineNow h == 0 && ((d.head h).refill || match d.cloneSource h with | some s => (d.head s).refill | none => false)

/-- Every running head's line goes on to the pixel now at its output. What changes a pixel's value comes after this:
pixels that have left a head stay as they were (R129, R210, R221, R253). -/
def catchUp (d : Dev) : Dev :=
  (List.range 8).foldl (fun d n =>
    if !(d.head n).ticking || (d.head n).sync == .locked || (d.head n).harvestDue then d
    else (d.members n).foldl (fun d h => if d.refilling h then d else drawHead (d.pixelNow n) d h) d) d

/-- A line starts at head h: its geometry, its blocking, and the surface reader's next rows (R221, R246, R278, R346). -/
def startLine (d : Dev) (h : Nat) : Dev :=
  let y := d.lineNow h
  let blocked := d.lineBlocked h
  let d := d.updHead h (fun s => { s with row := [], cut := none, blocked := blocked, lineRaw := d.raw })
  let d := (d.fp.treeEngines h).foldl (fun d l => let c := d.leCfg l 0; d.updEngine l (fun e => { e with shown := some c })) d
  let d := if y = 0 then d.feedFetch h 0 else d
  if y + 1 < (d.raster h).vtotal + (d.head (d.clock h)).extra then d.feedFetch h (y + 1) else d.feedAgain h

/-- HEAD_UNDERRUN: the head needs pixel x of its line and its input holds none (R309). -/
def headUnderrun (d : Dev) (h x : Nat) : Dev :=
  let s := d.head h
  let t := d.raster h
  if !s.ticking || (d.head (d.clock h)).harvestDue || d.refilling h || s.cut.isSome || d.backgroundLine h ||
      decide (t.hact ≤ x ∨ t.htotal ≤ x ∨ t.vact ≤ d.lineNow h) || decide (x < s.row.length) then d
  else
    let d := drawHead x d h
    if (d.head h).cut.isSome then d else d.underrun h x

/-- The poisoned bursts that a line's taps referenced become transparent black (R223). -/
def spendPoison (d : Dev) (h y : Nat) : Dev :=
  let w := (d.raster h).hact
  (d.lineLayers h y).foldl (fun d z =>
    d.updEngine z.le (fun e => { e with cache := e.cache.map (fun b =>
      if !b.ahead && b.st == .poisoned && z.cfg.takes w z.line b then { b with st := .spent } else b) })) d

/-- A pixel's part of the freeze CRC (R310). -/
def freezeBytes (p : OutPx) : List Byte := match p with
  | .px half _ => half.flatMap (toLe 2)
  | .blank => []

/-- The line of head h has been output whole: its codes leave the head, the freeze CRC takes the window's pixels,
FRAME_DONE (R308, R310). -/
def endRow (d : Dev) (h : Nat) : Dev :=
  let s := d.head h
  let y := d.lineNow h
  let codes := s.row.filterMap (fun p => match p with | .px _ c => some c | .blank => none)
  let d := if codes.isEmpty then d else d.emit (.videoLine h y codes)
  let d := if (d.cloneSource h).isNone then ((d.spendPoison h y).captureLine ((d.headSurface h).getD 8) y).feedForget h y else d
  let d := if s.sampling && decide (s.window.2.1 ≤ y ∧ y < s.window.2.1 + s.window.2.2.2) then
      d.updHead h (fun z => { z with
        crc := crcFeed z.crc (((s.row.drop s.window.1).take s.window.2.2.1).flatMap freezeBytes) })
    else d
  let d := d.updHead h (fun z => { z with row := [], cut := none, refill := z.refill && y != 0 })
  if y + 1 = (d.raster h).vact ∧ !codes.isEmpty then d.event (R.HD_STATUS h) [2] else d

/-- The line of the heads on head n's counters ends: all of it has left them (R291, R305). -/
def endLine (d : Dev) (n : Nat) : Dev :=
  let t := d.raster n
  let ms := d.members n
  let d := ms.foldl (drawHead (if d.lineNow n < t.vact then min t.hact t.htotal else 0)) d
  ms.foldl endRow d

/-- The next line of the heads on head n's counters starts. -/
def startLines (d : Dev) (n : Nat) : Dev := (d.members n).foldl startLine d

end Dev

end Sys2Proof.Machine
end

