-- ==== Sys2Proof/Machine/Heads.lean ====
section
/-!
DEFINITION. The heads (chapter 09): the start and stop sequences, commits from arm to harvest, split panels and
clones, the freeze detector, time lock, Adaptive-Sync hold, and the work of each line start, eve line and harvest
point.
-/
namespace Sys2Proof.Machine
namespace Dev

/-- An event of head n (R308). -/
def headEvent (d : Dev) (n b : Nat) : Dev := d.event (R.HD_STATUS n) [b]

/-! Staged bank and image (R297, R299). -/

/-- The staged registers of head n's bank as (live address, staged address) (R221, R238, R297). -/
def bankOf (d : Dev) (n : Nat) : List (Nat × Nat) :=
  let hd := blockAddr .HD n
  let heads := ((List.range 8).map (fun k => 4 * k) ++ (List.range 14).map (fun k => 0xC00 + 4 * k)).map
    (fun o => (hd + o, hd + o + 0x100))
  let les := (d.fp.engines n).flatMap (fun l => ((List.range 25).map (fun k => 4 * k)).filterMap (fun o =>
    if (rowIn .LE l o).isSome then some (blockAddr .LE l + o, blockAddr .LE l + o + 0x100) else none))
  let nodes := (d.fp.canopy.filter (·.head == n)).map (fun c =>
    (R.CN_BN_CTRL (c.node / 32) (c.node % 32), R.CN_BN_CTRL_STG (c.node / 32) (c.node % 32)))
  heads ++ les ++ nodes

/-- An image of the staged bank. -/
def stagedImage (d : Dev) (n : Nat) : List (Nat × Word) := (d.bankOf n).map (fun p => (p.1, d.get p.2))

/-- Put an image into the live registers, and clear the staged DIRTY bits of the engines not named (R222, R301). -/
def putImage (d : Dev) (n : Nat) (img : List (Nat × Word)) (keep : List Nat) : Dev :=
  let d := img.foldl (fun d p => d.put p.1 p.2) d
  (d.fp.engines n).foldl (fun d l => if keep.contains l then d else d.setFld (R.LE_CTRL_STG_DIRTY l) 0) d

/-- Is DIRTY set in an image for an engine? -/
def imageDirty (img : List (Nat × Word)) (l : Nat) : Bool :=
  img.any (fun p => p.1 == blockAddr .LE l && bit p.2.toNat 1)

/-! Split pairs (R312 to R315). -/

/-- LOCK_STATE of a head (R326). -/
def lockState (d : Dev) (n : Nat) : Nat :=
  match d.partner n with
  | none => 0
  | some _ => match d.pairLeader n with
    | none => 3
    | some l => if l = n then 1 else match (d.head n).sync with
      | .own => 3 | .aligning => 4 | .locked => 2

/-- A running head starts to align with another head's next harvest point (R315, R316). -/
def align (d : Dev) (n : Nat) : Dev :=
  d.updHead n (fun s => { s with sync := .aligning, background := true, judged := false })

/-- Head n takes its own counters again. -/
def unlock (d : Dev) (n : Nat) : Dev :=
  let m := d.clock n
  let extra := (d.head m).extra
  d.updHead n (fun s => { s with sync := .own, extra := if s.sync = .locked then extra else s.extra })

/-- Resolve the leadership of head n's pair (R314, R315). -/
def resolve (d : Dev) (n : Nat) : Dev :=
  match d.partner n with
  | none => d
  | some p =>
    let both := d.flag (R.HD_SPLIT_CTRL_LEADER n) && d.flag (R.HD_SPLIT_CTRL_LEADER p)
    let d := if both then (d.headEvent (min n p) 8).headEvent (max n p) 8 else d
    let d := match d.pairLeader n with
      | none =>
        let d := ((d.unlock n).unlock p).updHead n (fun s => { s with follows := none })
        ((d.updHead p (fun s => { s with follows := none })).headEvent (min n p) 9).headEvent (max n p) 9
      | some l =>
        let f := if l = n then p else n
        let d := (d.unlock l).updHead l (fun s => { s with follows := none })
        let already := (d.head f).follows == some l && (d.head f).sync != Sync.own
        let d := d.updHead f (fun s => { s with follows := some l })
        if already = true then d
        else if (d.head f).ticking ∧ (d.head l).ticking ∧ d.run f = 2 then d.align f else d.unlock f
    d

/-! Starting (R295, R304, R315, R320). -/

/-- Does head n use its own TLOCK registers? Followers and clones do not (R321): neither a clone nor a member whose
pair the other one leads. -/
def usesTlock (d : Dev) (n : Nat) : Bool :=
  (d.cloneSource n).isNone && (match d.pairLeader n with | some l => l == n | none => true)

/-- BASE of the time lock on its calendar (R317). -/
def tlockBase (d : Dev) (n : Nat) : Nat :=
  nearestTime (d.calNow (d.fld (R.HD_TLOCK_CTRL_CAL n))) (d.fld (R.HD_TLOCK_BASE_S_S n)) (d.fld (R.HD_TLOCK_BASE_NS_NS n))

/-- The head's calendar time now. -/
def tlockNow (d : Dev) (n : Nat) : Nat := d.calNow (d.fld (R.HD_TLOCK_CTRL_CAL n))

/-- Record a time in HDn_LATE (R320). -/
def recordLateStart (d : Dev) (n : Nat) : Dev :=
  let t := d.tlockNow n
  d.setFlds [(R.HD_LATE_S_S n, t / secUnits), (R.HD_LATE_NS_NS n, t / nsUnits % 1000000000)]

/-- Is a timed start late: BASE less than 200 µs + (VTOTAL − VACT) × T_h ahead (R320)? -/
def startIsLate (d : Dev) (n : Nat) : Bool :=
  let t := d.timing n 1
  let lead := 200000 * nsUnits + t.lineNs (t.vtotal - t.vact) * nsUnits / t.khz
  decide (calDiff (d.tlockBase n) (d.tlockNow n) < lead)

/-- Must a start of head n wait for its leader (R315)? -/
def waitsForLeader (d : Dev) (n : Nat) : Bool :=
  match d.pairLeader n with
  | some l => l != n && d.run l != 2
  | none => false

/-- A start request goes to the governor (R263, R295). -/
def requestStart (d : Dev) (n : Nat) : Dev :=
  (d.updHead n (fun s => { s with starting := true, heldForLeader := false })).gvRequest ⟨[n], 1, [], false⟩

/-- A start passes to the governor, or is held for a load or for the leader (R76, R315). -/
def beginStart (d : Dev) (n : Nat) : Dev :=
  if d.startHeld (halfOfHead n) then { d with loader := { d.loader with held := d.loader.held ++ [n] } }
  else if d.waitsForLeader n then d.updHead n (fun s => { s with heldForLeader := true })
  else d.requestStart n

/-- HEAD_START: a write of 1 to START (R295, R304, R320). -/
def headStart (d : Dev) (n : Nat) : Dev :=
  if d.run n ≠ 0 ∨ (d.head n).starting ∨ (d.head n).heldForLeader ∨ d.loader.held.contains n then d
  else
    let timed := d.usesTlock n && d.flag (R.HD_TLOCK_CTRL_TSTART n)
    let late := timed && d.startIsLate n
    if late && d.flag (R.HD_TLOCK_CTRL_SKIP_LATE n) then
      (((d.setFld (R.HD_TLOCK_STATUS_SKIPPED n) 1).recordLateStart n).headEvent n 10)
    else
      let d := if timed then d.setFld (R.HD_TLOCK_STATUS_SKIPPED n) 0 else d
      ((d.updHead n (fun s => { s with timed := timed && !late, lateStart := late })).resolve n).beginStart n

/-- An admitted start: the staged bank is copied, and RUN is 1 (step 2 of R295). -/
def startAdmitted (d : Dev) (n : Nat) (x : Demand) : Dev :=
  let d := (d.updRes n (fun _ => ⟨some x, none, none⟩)).putImage n (d.stagedImage n) []
  let s := d.head n
  let d := d.updHead n (fun _ => { HeadSt.reset with
    timed := s.timed, lateStart := s.lateStart, fresh := s.fresh, moved := s.moved, follows := s.follows
    jumpNext := s.jumpNext, lastJudged := s.lastJudged, evePassed := true })
  let d := d.setFlds [(R.HD_STATUS_RUN n, 1), (R.HD_FRAME_COUNT_COUNT n, 0)]
  let d := if s.lateStart then d.headEvent n 10 else d
  (d.updateBgOut n).gvRefresh

/-- Clones and running followers of a head whose timing generator starts align with its next harvest point (R315,
R316). -/
def alignFollowers (d : Dev) (n : Nat) : Dev :=
  (List.range 8).foldl (fun d h =>
    if (d.cloneSource h = some n ∨ (d.head h).follows = some n) ∧ (d.head h).ticking ∧ (d.head h).sync = .own ∧ d.run h = 2
    then d.align h else d) d

/-- The timing generator starts at pixel 0 of line VACT (step 4 of R295). -/
def startGenerator (d : Dev) (n : Nat) : Dev :=
  let v := (d.liveTiming n).vact
  let d := d.updHead n (fun s => { s with
    ticking := true, timed := false, evePassed := true, eveDue := false, harvestDue := false, lineRaw := d.raw })
  let d := d.setFlds [(R.HD_POS_LINE n, v), (R.HD_POS_PX n, 0)]
  let d := d.event (R.HD_STATUS n) ([0] ++ (if d.fld (R.HD_EVENT_CFG_LINE_MATCH n) = v then [1] else []))
  ((d.sampleSdp n).showStream n).alignFollowers n

/-- HEAD_PLL_LOCKED (step 3 of R295). A follower or clone whose leader or source runs waits for that head's harvest
point instead. -/
def pllLocked (d : Dev) (n : Nat) : Dev :=
  if (d.run n = 1 ∨ d.run n = 3) ∧ !(d.head n).ticking then
    let d := d.updHead n (fun s => { s with pllLocked := true })
    if (d.head n).timed || (d.joins n).isSome then d else d.startGenerator n
  else d

/-- A start that waited, its PLL locked, for a leader or source that no longer runs goes on by itself (R315, R316). -/
def freeStarts (d : Dev) : Dev :=
  (List.range 8).foldl (fun d h =>
    let s := d.head h
    if (d.run h = 1 ∨ d.run h = 3) ∧ s.pllLocked ∧ !s.ticking ∧ !s.timed ∧ (d.joins h).isNone then d.startGenerator h else d) d

/-- Follower starts held for a leader go on once it runs, or once they follow no longer (R315). -/
def wakeHeld (d : Dev) : Dev :=
  (List.range 8).foldl (fun d h => if (d.head h).heldForLeader ∧ !d.waitsForLeader h then d.requestStart h else d) d

/-- SPLIT_LEADER_WRITE (R315). -/
def leaderWrite (d : Dev) (n : Nat) (v : Bool) : Dev :=
  ((d.setFld (R.HD_SPLIT_CTRL_LEADER n) (b2n v)).resolve n).wakeHeld.freeStarts

/-- HEAD_TIMED_START: the moment from which the first harvest point falls at BASE (R320). -/
def timedStart (d : Dev) (n : Nat) : Dev :=
  let s := d.head n
  if s.timed ∧ s.pllLocked ∧ !s.ticking then d.startGenerator n else d

/-! Stopping (R296, R304). -/

/-- Drop what a head's commits hold. -/
def dropCommits (d : Dev) (n : Nat) : Dev :=
  (d.updHead n (fun s => { s with arm := none, image := none, dirtyWritten := [] })).setFlds
    [(R.HD_STATUS_ARMED n, 0), (R.HD_STATUS_SEALED n, 0)]

/-- The engines of a head hold nothing once it stops. -/
def clearCaches (d : Dev) (n : Nat) : Dev :=
  (d.fp.engines n).foldl emptyEngine d

/-- Others that ran from head n's counters run on their own, and a follower of it reports LOCK_ABSENT (R100, R315,
R316). -/
def releaseFollowers (d : Dev) (n : Nat) : Dev :=
  (List.range 8).foldl (fun d h =>
    if h = n then d
    else if d.cloneSource h = some n then (if (d.head h).sync = .own then d else d.unlock h)
    else if (d.head h).follows = some n ∧ (d.head h).ticking then (d.unlock h).headEvent h 9
    else d) d

/-- A head's timing generator stops: reservation, surfaces and stream go (R296, R264, R280, R341). -/
def haltHead (d : Dev) (n : Nat) : Dev :=
  let d := (d.releaseFollowers n).dropCommits n
  let s := d.head n
  let d := d.updHead n (fun _ => { HeadSt.reset with fresh := s.fresh, moved := s.moved, lastJudged := s.lastJudged })
  (((d.setFld (R.HD_STATUS_RUN n) 0).clearCaches n).stopSurfaces (· == n)).releaseRes n |>.showStream n

/-- The end of a stop (R296). -/
def headStopped (d : Dev) (n : Nat) : Dev := (((d.haltHead n).headEvent n 13).resolve n).freeStarts

/-- Mark the requests of a withdrawn start (R304). -/
def withdrawStart (d : Dev) (n : Nat) : Dev :=
  let mark := fun (q : GvRequest) => if q.heads.contains n && q.trigger == 1 then { q with withdrawn := true } else q
  { d with gv := { d.gv with waiting := d.gv.waiting.map mark, busy := d.gv.busy.map (fun b => (mark b.1, b.2)) } }

/-- HEAD_STOP: a write of 1 to STOP (R296, R304). -/
def headStop (d : Dev) (n : Nat) : Dev :=
  let s := d.head n
  if d.run n = 1 ∨ d.run n = 2 then d.setFld (R.HD_STATUS_RUN n) 3
  else if s.starting then
    ((d.withdrawStart n).updHead n (fun s => { s with starting := false })).headEvent n 13
  else if s.heldForLeader ∨ d.loader.held.contains n then
    (({ d with loader := { d.loader with held := d.loader.held.filter (· != n) } }).updHead n
      (fun s => { s with heldForLeader := false })).headEvent n 13
  else d

/-! Commits (R298 to R304, R313). -/

/-- HEAD_ARM: a write of 1 to ARM, with PAIR as it then reads (R298, R299, R301, R304, R313). -/
def headArm (d : Dev) (n : Nat) : Dev :=
  let pair := d.flag (R.HD_COMMIT_PAIR n) && (d.partner n).isSome
  let hs := if pair then (List.range 8).filter (fun h => h == n || d.partner n == some h) else [n]
  let hs := hs.filter (fun h => d.run h == 1 || d.run h == 2)
  if !hs.contains n then d
  else
    let one := fun (d : Dev) (h : Nat) =>
      let s := d.head h
      let a := match s.arm with
        | some a => { a with admitted := false, pair := a.pair || pair }
        | none => ⟨false, s.evePassed, false, pair⟩
      let d := d.updHead h (fun z => { z with arm := some a })
      if s.evePassed && s.arm.isNone then d.headEvent h 4 else d
    (hs.foldl one d).gvRequest ⟨hs, 0, [], false⟩

/-- STAGED_WRITE_RECHECK: a staged write of head n's bank, of an engine or not, while a commit is armed and not sealed
(R220, R301). -/
def recheck (d : Dev) (n : Nat) (engines : List Nat) : Dev :=
  match (d.head n).arm with
  | none => d
  | some a =>
    let hs := if a.pair then (List.range 8).filter (fun h => (h == n || d.partner n == some h) && (d.head h).arm.isSome) else [n]
    let d := hs.foldl (fun d h => d.updHead h (fun s => { s with arm := s.arm.map (fun a => { a with admitted := false }) })) d
    d.gvRequest ⟨hs, 2, engines, false⟩

/-- Withdraw head n's armed commit (R301, R302). -/
def withdraw (d : Dev) (n : Nat) : Dev :=
  ((d.updHead n (fun s => { s with arm := none })).setFld (R.HD_STATUS_ARMED n) 0).updRes n (fun r => { r with armed := none })

/-- HEAD_CANCEL: a write of 1 to CANCEL (R302). -/
def headCancel (d : Dev) (n : Nat) : Dev :=
  if !d.flag (R.HD_STATUS_ARMED n) then d
  else
    let pair := match (d.head n).arm with | some a => a.pair | none => false
    let d := d.withdraw n
    let d := match d.partner n with
      | some p => if pair && d.flag (R.HD_STATUS_ARMED p) then d.withdraw p else d
      | none => d
    d.gvRefresh

/-- Seal head n's admitted commit (R299). -/
def sealCommit (d : Dev) (n : Nat) : Dev :=
  let img := d.stagedImage n
  let d := d.updHead n (fun s => { s with arm := none, image := some img, dirtyWritten := [] })
  let d := d.setFlds [(R.HD_STATUS_ARMED n, 0), (R.HD_STATUS_SEALED n, 1)]
  d.updRes n (fun r => { r with sealed := r.armed, armed := none })

/-- The eve line has begun at head n: an admitted commit armed before it is sealed; one whose verdict is due is sealed
by the verdict (R299, R300). -/
def eveSeal (d : Dev) (n : Nat) : Dev :=
  let d := d.updHead n (fun s => { s with evePassed := true, eveDue := false })
  match (d.head n).arm with
  | some a =>
    if a.late then d
    else if a.admitted then d.sealCommit n
    else d.updHead n (fun s => { s with arm := some { a with eve := true } })
  | none => d

/-- EVE_LINE_START of head n, and of the heads on its counters. -/
def eveLineStart (d : Dev) (n : Nat) : Dev :=
  if !(d.head n).ticking ∨ (d.head n).sync = .locked then d else (d.members n).foldl eveSeal d

/-- A refused commit of head n (R267, R298, R301). -/
def commitRefused (d : Dev) (n : Nat) : Dev :=
  match (d.head n).arm with
  | some _ => (d.withdraw n).headEvent n 5
  | none => d

/-- An admitted commit of head n (R264, R298, R300). -/
def commitAdmitted (d : Dev) (n : Nat) (x : Demand) : Dev :=
  match (d.head n).arm with
  | none => d
  | some a =>
    let d := d.updHead n (fun s => { s with arm := some { a with admitted := true }, holdArm := s.hold })
    let d := (d.setFld (R.HD_STATUS_ARMED n) 1).updRes n (fun r => { r with armed := some x })
    if a.eve then d.sealCommit n else d

/-- A start's verdict (R295, R304). -/
def startVerdict (d : Dev) (n : Nat) (q : GvRequest) (v : Verdict) : Dev :=
  if q.withdrawn || !(d.head n).starting then d
  else
    let d := d.updHead n (fun s => { s with starting := false })
    match v.result, v.demands.find? (·.1 == n) with
    | 2, _ => d.headEvent n 12
    | _, some x => d.startAdmitted n x.2
    | _, none => d

/-- GV_EVALUATION_DONE: the verdict is recorded and given, and GV takes its next request (R267, R268). -/
def gvDone (d : Dev) : Dev :=
  match d.gv.busy with
  | none => d
  | some (q, v) =>
    let d := { d with gv := { d.gv with busy := none } }
    let armed := q.trigger != 1 && q.heads.any (fun n => d.flag (R.HD_STATUS_ARMED n))
    let d := d.recordVerdict q v (if v.result = 2 ∧ armed then 4 else v.result)
    let d :=
      if q.trigger = 1 then q.heads.foldl (fun d n => d.startVerdict n q v) d
      else if v.result = 2 then
        let d := q.heads.foldl commitRefused d
        if armed then q.engines.foldl (fun d l => d.eventF [R.LE_STATUS_WITHDRAWN l]) d else d
      else v.demands.foldl (fun d x => d.commitAdmitted x.1 x.2) d
    d.gvRefresh.gvNext

/-! Freeze detection (R310, R311). -/

/-- The window of a frame, clipped to the raster: x, y, w, h. -/
def freezeWindow (d : Dev) (n : Nat) (t : Timing) : Nat × Nat × Nat × Nat :=
  let x := d.fld (R.HD_FRZ_WIN_POS_X n)
  let y := d.fld (R.HD_FRZ_WIN_POS_Y n)
  (x, y, min (d.fld (R.HD_FRZ_WIN_SIZE_W n)) (t.hact - x), min (d.fld (R.HD_FRZ_WIN_SIZE_H n)) (t.vact - y))

/-- The frame that ends at a harvest point, as far as the freeze detector goes. -/
def freezeEnd (d : Dev) (n : Nat) : Dev :=
  let s := d.head n
  if !s.sampling then d.setFld (R.HD_FRZ_STATE_JUDGED n) 0
  else
    let sig := s.crc ^^^ 0xFFFFFFFF
    let spoilt := match d.headSurface n with | some k => (d.surf k).notJudged | none => false
    let judged := s.judged && !spoilt
    let d := (d.setFld (R.HD_FRZ_SIG_SIG n) sig).setFld (R.HD_FRZ_STATE_JUDGED n) (b2n judged)
    if !judged then d
    else
      let d := d.updHead n (fun s => { s with lastJudged := some sig })
      if d.fld (R.HD_FRZ_STATE_EPISODE n) ≠ 1 then d
      else if sig ≠ d.fld (R.HD_FRZ_REF_REF n) then d.setFld (R.HD_FRZ_STATE_EPISODE n) 0
      else
        let k := d.fld (R.HD_FRZ_STATE_COUNT n) + 1
        let top := d.fld (R.HD_FRZ_CTRL_FREEZE_N n)
        if top ≤ k then
          (d.setFlds [(R.HD_FRZ_STATE_COUNT n, top), (R.HD_FRZ_STATE_EPISODE n, 2)]).headEvent n 7
        else d.setFld (R.HD_FRZ_STATE_COUNT n) k

/-- A content-changing harvest starts an episode. -/
def freezeEpisode (d : Dev) (n : Nat) : Dev :=
  match (d.head n).lastJudged with
  | some sig =>
    if d.flag (R.HD_FRZ_CTRL_EN n) then
      d.setFlds [(R.HD_FRZ_REF_REF n, sig), (R.HD_FRZ_STATE_COUNT n, 0), (R.HD_FRZ_STATE_EPISODE n, 1)]
    else d
  | none => d

/-- The frame that starts at a harvest point; `plain`: no rule but the detector's own shuts it out. -/
def freezeStart (d : Dev) (n : Nat) (plain : Bool) : Dev :=
  let en := d.flag (R.HD_FRZ_CTRL_EN n)
  let w := d.freezeWindow n (d.raster n)
  d.updHead n (fun s => { s with
    sampling := en, crc := 0xFFFFFFFF, window := w, moved := false, fresh := s.fresh && !en
    judged := en && plain && !s.fresh && !s.moved && decide (0 < w.2.2.1) && decide (0 < w.2.2.2) })

/-- A write of FRZ_CTRL.EN (R311). -/
def freezeEnable (d : Dev) (n : Nat) (was : Bool) : Dev :=
  if d.flag (R.HD_FRZ_CTRL_EN n) && !was then d.updHead n (fun s => { s with fresh := true, lastJudged := none }) else d

/-! Time lock (R317 to R319). -/

/-- PERIOD in units of 2⁻¹⁶ ns. -/
def tlockPeriod (d : Dev) (n : Nat) : Nat := d.fld (R.HD_TLOCK_PERIOD_PERIOD n) * 1024

/-- The error of a harvest point now against the nearest T_k, in units of 2⁻¹⁶ ns. -/
def tlockError (d : Dev) (n : Nat) : Int :=
  let p := d.tlockPeriod n
  let r := calDiff (d.tlockNow n) (d.tlockBase n) % (p : Int)
  if (p : Int) < 2 * r then r - p else r

/-- The time lock at a harvest point of a head on its own counters. -/
def tlockHarvest (d : Dev) (n : Nat) : Dev :=
  if !d.flag (R.HD_TLOCK_CTRL_EN n) || d.tlockPeriod n == 0 || !d.usesTlock n then
    (d.updHead n (fun s => { s with good := 0, above := 0 })).setFld (R.HD_TLOCK_STATUS_LOCKED n) 0
  else
    let e := d.tlockError n
    let ns := max (-524287) (min 524287 (e.tdiv 65536))
    let trim := d.fld (R.HD_TLOCK_CTRL_TRIM_MAX n) * 1000000 * nsUnits / d.fld (R.HD_PIXCLK_KHZ n)
    let good := if e.natAbs < 81920 then (d.head n).good + 1 else 0
    let above := if trim < e.natAbs then (d.head n).above + 1 else 0
    let d := d.updHead n (fun s => { s with good := min good 4, above := min above 5 })
    let d := d.setFld (R.HD_TLOCK_STATUS_ERR_NS n) (unsigned 20 ns)
    let d := if 4 ≤ good then d.setFld (R.HD_TLOCK_STATUS_LOCKED n) 1 else d
    if above = 4 then (d.setFld (R.HD_TLOCK_STATUS_LOCKED n) 0).headEvent n 11 else d

/-- Whole lines by which a jump frame that starts now grows, so that it ends at the next T_k (R318). -/
def jumpLines (d : Dev) (n : Nat) : Nat :=
  let t := d.liveTiming n
  let p := d.tlockPeriod n
  let line := t.lineNs 1 * nsUnits / t.khz
  let past := (calDiff (d.tlockNow n) (d.tlockBase n) + (line * t.vtotal : Nat)) % (p : Int)
  if past = 0 ∨ line = 0 then 0 else (p - past.toNat) / line

/-- EN or PERIOD was written (R317, R318): a lock that now begins on a running head jumps where JUMP is 1. -/
def tlockWritten (d : Dev) (n : Nat) (was : Bool) : Dev :=
  let now := d.flag (R.HD_TLOCK_CTRL_EN n) && d.tlockPeriod n != 0 && d.usesTlock n
  if now && !was then
    d.updHead n (fun s => { s with
      good := 0, above := 0, jumpNext := s.jumpNext || (d.flag (R.HD_TLOCK_CTRL_JUMP n) && d.run n == 2) })
  else d

/-! Harvest point (R297). -/

/-- The frame of engine l's head ends: a frame in which the engine was enabled is counted (R231). -/
def engineCount (d : Dev) (l : Nat) : Dev :=
  d.when' (d.engine l).enabled (fun d => d.wrapAdd (R.LE_FRAMES_COUNT l) 1)

/-- The signature of the frame of engine l just ended (R224 to R226): a flattened engine keeps LEnn_SIG, and has
fetched nothing. -/
def engineSign (d : Dev) (l : Nat) : Dev :=
  let cache := (d.engine l).cache.filter (!·.ahead)
  let bad := cache.any (fun c => match c.st with | .refused => true | .poisoned => true | .spent => true | _ => false)
  let some' := cache.any (fun c => match c.st with | .held _ => true | _ => false)
  let d := if d.flattened l then d.setFld (R.LE_SIG_INFO_SIG_VALID l) 0
    else d.setFlds [(R.LE_SIG_SIG l, signature (d.leCfg l 0) cache), (R.LE_SIG_INFO_SIG_VALID l, b2n (!bad && some')),
      (R.LE_SIG_INFO_SIG_HELD l, 0)]
  d.wrapAdd (R.LE_SIG_INFO_SIG_FRAME l) 1

/-- Engine l goes over to the new frame of its head: what was preloaded for it (R217). -/
def engineTurn (d : Dev) (l : Nat) : Dev :=
  let on := (d.leCfg l 0).enable
  d.updEngine l (fun e => { e with
    cache := (e.cache.filter (·.ahead)).map (fun c => { c with ahead := false }), enabled := on, fedLate := false })

/-- The engines and nodes of head n's tree (source codes) whose registers a harvest of this image changes, DIRTY
apart. -/
def harvestChanges (d : Dev) (n : Nat) (img : List (Nat × Word)) : List Nat :=
  (d.fp.tree n).filter (fun v => img.any (fun p =>
    (if v < 0x40 then p.1 / 0x10000 == Block.LE.base + v else p.1 == R.CN_BN_CTRL ((v - 0x40) / 32) ((v - 0x40) % 32)) &&
    (if v < 0x40 ∧ p.1 % 0x10000 = 0 then setBits (d.get p.1).toNat 1 1 0 != setBits p.2.toNat 1 1 0
     else d.get p.1 != p.2)))

/-- The sealed image of head n reaches its live registers (R297, R222, R301, R264). -/
def harvestImage (d : Dev) (n : Nat) : Dev :=
  match (d.head n).image with
  | none => d
  | some img =>
    let keep := (d.head n).dirtyWritten
    let d := d.putImage n img keep
    let d := d.updHead n (fun s => { s with image := none, dirtyWritten := [] })
    let d := d.updRes n (fun r => { r with live := r.sealed.or r.live, sealed := none })
    (d.setFld (R.HD_STATUS_SEALED n) 0).headEvent n 3

/-- Clear the live DIRTY bits of head n's engines (R222). -/
def clearDirty (d : Dev) (n : Nat) : Dev := (d.fp.engines n).foldl (fun d l => d.setFld (R.LE_CTRL_DIRTY l) 0) d

/-- The trigger of a harvest for surface k (R280): 1 DIRTY, 2 CHANGE. -/
def harvestCode (d : Dev) (k : Nat) (img : List (Nat × Word)) (changed : List Nat) (timing : Bool) : Option Nat :=
  if (d.surfMembers k).any (imageDirty img) then some 1
  else if timing || (d.fp.subtree 66 (0x40 + d.surfNode k)).any changed.contains then some 2
  else none

/-- The flattening work of head n's harvest point, after the harvest (R277, R279, R280). `before` gives the signatures
before this frame start; `dirty` the live DIRTY bits of the frame just ended. -/
def flattenHarvest (d : Dev) (n : Nat) (before : Nat → Nat) (dirty : Nat → Bool) (img : List (Nat × Word))
    (changed : List Nat) (timing : Bool) : Dev :=
  let d := (d.fp.tree n).foldl (fun d v => d.calmFrame dirty v) d
  let d := changed.foldl harvestChange d
  let d := match d.headSurface n with
    | some k =>
      let d := d.surfaceHarvest k (d.harvestCode k img changed timing) before
      d.updSurf k (fun s => { s with notJudged := false })
    | none => d
  d.takeCandidate n

/-- The link side of a frame start (R246, R345, R346). -/
def frameMark (d : Dev) (n : Nat) : Dev :=
  let m := d.streamMark n
  let d := (d.updHead n (fun s => { s with mark := m })).linkFrameStart n m
  let blocked := !d.meets n m
  let d := d.updHead n (fun s => { s with blocked := blocked })
  if blocked then d.dpEvent n 10 else d

/-- A commit whose verdict is still due at a harvest point counts as armed after the eve line (R268); an armed commit
waits for the eve line of the new frame. -/
def armHarvest (d : Dev) (n : Nat) : Dev :=
  match (d.head n).arm with
  | some a =>
    let d := d.updHead n (fun s => { s with arm := some { a with late := false, eve := false } })
    if !a.admitted && !a.late then d.headEvent n 4 else d
  | none => d

/-- The eve line of head n's frame begins with line y, unless it has begun: y is line VACT − EVE of the live timing,
or, where a live write has put that line behind, a later one (R298, R305; DESIGN CHOICE, log entry 92). -/
def eveCheckLine (d : Dev) (n y : Nat) : Dev :=
  let t := d.raster n
  let s := d.head n
  if !s.evePassed ∧ t.vact - t.eve ≤ y then d.updHead n (fun s => { s with evePassed := true, eveDue := true }) else d

/-- Head n's new frame after its harvest: `follow` tells that it runs from another head's counters. -/
def frameStart (d : Dev) (n : Nat) (timing content first follow : Bool) : Dev :=
  let s := d.head n
  let jump := !follow && s.jumpNext && d.flag (R.HD_TLOCK_CTRL_EN n) && d.tlockPeriod n != 0 && d.usesTlock n
  let extra := if jump then d.jumpLines n else 0
  let plain := !first && !timing && !s.skipNext && !jump
  let d := d.updHead n (fun s => { s with
    extra := extra, hold := false, holdArm := false, background := timing, skipNext := timing
    jumpNext := s.jumpNext && !jump && !follow, evePassed := false, eveDue := false, harvestDue := false })
  let d := (d.setFlds [(R.HD_POS_LINE n, 0), (R.HD_POS_PX n, 0)]).wrapAdd (R.HD_FRAME_COUNT_COUNT n) 1
  let d := if first && (d.run n == 1) then d.setFld (R.HD_STATUS_RUN n) 2 else d
  let d := if content then d.freezeEpisode n else d
  let d := (d.frameMark n).updateBgOut n
  let d := if d.fld (R.HD_EVENT_CFG_LINE_MATCH n) = 0 then d.headEvent n 1 else d
  ((d.freezeStart n plain).eveCheckLine n 0).modelFrameStart n

/-- The frame of head n ends at a harvest point (R225, R273, R281, R310). The writes that reached a fed surface's
members in it come before its judgement. -/
def frameEnd (d : Dev) (n : Nat) : Dev :=
  let d := (d.fp.treeEngines n).foldl engineCount (d.watch.freezeEnd n)
  d.modelFrameEnd n

/-- The harvest point of one head (R297). `lead`: the heads that harvested changed content at this moment already,
among them a clone's source; it answers the list with this head's own result. -/
def harvestHead (d : Dev) (n : Nat) (lead : List Nat) : Dev × List Nat :=
  if d.run n = 3 then (((d.frameEnd n).headStopped n).sourceHarvest n, lead)
  else
    let first := d.run n == 1
    let follow := (d.head n).sync == .locked
    let ls := d.fp.treeEngines n
    let before := fun l => at' d.gv.lastSig l 0
    let dirtyList := ls.filter (fun l => d.flag (R.LE_CTRL_DIRTY l))
    let img := (d.head n).image.getD []
    let timing := d.imageChangesTiming n
    let d := if first then d else ls.foldl engineSign (d.frameEnd n)
    let d := if follow then d else d.tlockHarvest n
    let d := if first && (d.head n).lateStart then (d.recordLateStart n).updHead n (fun s => { s with lateStart := false }) else d
    let d := if first then d else d.clearDirty n
    let changed := if first then ls ++ (d.fp.tree n) else d.harvestChanges n img
    let d := ls.foldl engineTurn ((d.updHead n (fun s => { s with refill := false })).harvestImage n)
    let d := d.flattenHarvest n before dirtyList.contains img changed timing
    let own := ls.any (imageDirty img)
    let content := own || (match d.cloneSource n with | some s => lead.contains s | none => false)
    let d := (d.armHarvest n).frameStart n timing content first follow
    ((d.sourceHarvest n).gvRefresh, if content then lead ++ [n] else lead)

/-- A head joins the counters of the head it follows or clones, at that head's harvest point (R315, R316). -/
def lockTo (d : Dev) (n : Nat) : Dev :=
  ((d.updHead n (fun s => { s with sync := .locked, ticking := true, timed := false })).showStream n).alignFollowers n

/-- The heads that take head n's counters at its harvest point: starting or aligning (R315, R316). -/
def joiners (d : Dev) (ms : List Nat) : List Nat :=
  (List.range 8).filter (fun h => !ms.contains h && (match d.alignsWith h with
    | some s => ms.contains s && d.run s == 2 && (d.run h == 1 || d.run h == 3 || (d.head h).sync == .aligning)
    | none => false))

/-- HARVEST_POINT: head n's frame starts, for it and for the heads on its counters. -/
def harvest (d : Dev) (n : Nat) : Dev :=
  if !(d.head n).ticking ∨ (d.head n).sync ≠ .own then d
  else
    let d := if (d.head n).harvestDue then d else d.endLine n
    let ms := d.members n
    let step := fun (p : Dev × List Nat) (h : Nat) => p.1.harvestHead h p.2
    let r := ms.foldl step (d, [])
    let js := r.1.joiners ms
    let leave := fun (d : Dev) (h : Nat) => if (d.head h).ticking then endRow (drawHead (d.pixelNow h) d h) h else d
    let r := (js.foldl (fun d h => (leave d h).lockTo h) r.1, r.2)
    let d := (js.foldl step r).1.wakeHeld
    ((ms ++ js).filter (fun h => (d.head h).ticking && (d.head h).sync == .own)).foldl startLines d

/-! Lines (R291, R305, R308, R322). -/

/-- Does the frame of head n enter or stay in Adaptive-Sync hold as it moves on to line y (R322)? -/
def holdAt (d : Dev) (n y : Nat) : Bool :=
  let t := d.liveTiming n
  let s := d.head n
  let room := decide (y < t.vtotalMax - t.vsw - (t.vbp.toNat))
  if s.hold then room && !s.holdArm else t.vrr && y == t.vact + t.vfp && s.image.isNone && room

/-- The secondary data that link n sends in a vertical blanking period while it carries video (R341 to R343). -/
def sendSdps (d : Dev) (n : Nat) : Dev :=
  if !d.flag (R.DP_LINK_STATUS_STREAM n) then d
  else
    let t := d.raster n
    let sdp := (d.link n).sdp
    let msgs := [.msa n [t.hact, t.htotal, t.hfp, t.hsw, t.vact, t.vtotal, t.vfp, t.vsw],
        .vscSdp n (d.outBits n) (d.fld (R.DP_SDP_CTRL_COLORIMETRY n))] ++
      (if sdp.isEmpty then [] else [.softwareSdp n sdp]) ++
      (if t.vrr then [.adaptiveSync n (4000 * t.khz) (t.htotal * t.vtotalMax) (t.htotal * t.vtotal)] else []) ++
      (if d.flag (R.DP_DSC_CTRL_EN n) then [.ppsSdp n ((List.range 128).map (d.ppsByte n))] else [])
    msgs.foldl emit d

/-- The start of line y at one head: its events, what its link sends, and whether its eve line has begun (R298, R308). -/
def beginLine (d : Dev) (n y : Nat) : Dev :=
  let t := d.raster n
  let d := d.setFld (R.HD_POS_LINE n) y
  let evs := (if y = t.vact then [0] else []) ++
    (if d.fld (R.HD_EVENT_CFG_LINE_MATCH n) = y ∧ y < t.vtotal then [1] else [])
  let d := d.event (R.HD_STATUS n) evs
  let d := if y = t.vact then (d.sampleSdp n).sendSdps n else d
  d.eveCheckLine n y

/-- HEAD_LINE_START: head n's line ends and the next one starts. The eve line and the harvest point that the lines
reach are worked off here where their own commands have not come. -/
def headLineStart (d : Dev) (n : Nat) : Dev :=
  if !(d.head n).ticking ∨ (d.head n).sync = .locked then d
  else
    let d := if (d.head n).harvestDue then d.harvest n else d
    if !(d.head n).ticking then d
    else
      let d := if (d.members n).any (fun h => (d.head h).eveDue) then d.eveLineStart n else d
      let d := d.endLine n
      let y := d.lineNow n + 1
      let hold := d.holdAt n y
      let grow := hold || ((d.head n).sync == .aligning && decide ((d.liveTiming n).vtotal + (d.head n).extra ≤ y))
      let d := d.updHead n (fun s => { s with hold := hold, extra := if grow then s.extra + 1 else s.extra })
      let ms := d.members n
      if (d.liveTiming n).vtotal + (d.head n).extra ≤ y then
        ms.foldl (fun d h => d.setFld (R.HD_POS_LINE h) 0) (d.updHead n (fun s => { s with harvestDue := true }))
      else (ms.foldl (fun d h => d.beginLine h y) d).startLines n

end Dev

end Sys2Proof.Machine
end

