-- ==== Sys2Proof/Machine/Interrupts.lean ====
section
/-!
DEFINITION. The interrupt controller (chapter 15): levels, candidates, request lines, claims and completions, MSI-X
delivery, coalescing, wake latches.
-/
namespace Sys2Proof.Machine

/-- The status register bits whose OR is the level of an event source (R482, R495): the register's address and bits. -/
def levelBits (s : Nat) : Option (Nat × List Nat) :=
  let one := fun (b : Block) (n rel k : Nat) => some (blockAddr b n + rel, [k])
  if s ≤ 3 then one .SY 0 0x80 s
  else if s ≤ 6 then one .CH 0 0x08 (s - 3)
  else if s = 7 then some (blockAddr .CH 0 + 0x24, [2, 3, 4])
  else if s = 9 then one .CH 0 0x24 5
  else if 0x010 ≤ s ∧ s ≤ 0x014 then one .GV 0 0x10 (s - 0x010)
  else if s = 0x020 ∨ s = 0x021 then one .IC 0 0x100 (s - 0x020)
  else if 0x028 ≤ s ∧ s < 0x030 then one .FS ((s - 0x028) / 2) 0x20 (s % 2)
  else if s = 0x030 then one .CL 0 0x10 0
  else if 0x040 ≤ s ∧ s < 0x050 ∧ s % 8 ≤ 1 then one .CN ((s - 0x040) / 8) 0x320 (s % 8)
  else if 0x050 ≤ s ∧ s < 0x060 ∧ s % 8 ≤ 4 then one .BX ((s - 0x050) / 8) 0x04 (s % 8)
  else if 0x060 ≤ s ∧ s < 0x080 ∧ s % 8 ≤ 6 then one .CP ((s - 0x060) / 8) 0x08 (s % 8)
  else if 0x080 ≤ s ∧ s ≤ 0x083 then one .AS 0 0x04 (s - 0x080)
  else if s = 0x088 then one .KY 0 0x10 0
  else if 0x090 ≤ s ∧ s < 0x0A0 ∧ s % 8 ≤ 5 then one .RP ((s - 0x090) / 8) 0x04 (s % 8)
  else if 0x0A0 ≤ s ∧ s ≤ 0x0AA then one .SH 0 0x04 (s - 0x0A0)
  else if s = 0x0AB then some (blockAddr .SH 0 + 0x08, List.range 24)
  else if 0x0B0 ≤ s ∧ s ≤ 0x0B8 then one .TS 0 0x04 (s - 0x0B0)
  else if 0x100 ≤ s ∧ s < 0x180 ∧ s % 16 ≤ 14 then one .HD ((s - 0x100) / 16) 0x208 (s % 16)
  else if 0x180 ≤ s ∧ s < 0x200 ∧ s % 16 ≤ 11 then one .DP ((s - 0x180) / 16) 0x0C (s % 16)
  else if 0x200 ≤ s ∧ s < 0x300 ∧ s % 4 ≤ 1 then one .LE ((s - 0x200) / 4) 0x200 (s % 4)
  else if 0x300 ≤ s ∧ s < 0x3C0 ∧ s % 4 ≤ 2 then
    some (blockAddr .EV 0 + 64 * ((s - 0x300) / 4) + 0x04, match s % 4 with | 0 => [0, 1] | k => [k + 1])
  else none

/-- The clock island from which a source's edges come (R22, R25), named by a block that runs in it: the pixel and link
islands of each head, the stacks', the halves' canopy and layer islands, TSC, EVC, ASC, BXC, the cartridge and
ring ports'; SY stands for CTL, CH for AON with the wake latches. R22 names the islands by their use; which block
runs in which is DEDUCED from those names (log entry 85). -/
def islandOf (s : Nat) : Block × Nat :=
  if 0x028 ≤ s ∧ s < 0x030 then (.FS, (s - 0x028) / 2)
  else if 0x040 ≤ s ∧ s < 0x050 then (.CN, (s - 0x040) / 8)
  else if 0x050 ≤ s ∧ s < 0x060 then (.BX, 0)
  else if 0x060 ≤ s ∧ s < 0x080 then (.CP, (s - 0x060) / 8)
  else if 0x080 ≤ s ∧ s < 0x090 then (.AS, 0)
  else if 0x090 ≤ s ∧ s < 0x0A0 then (.RP, (s - 0x090) / 8)
  else if 0x0B0 ≤ s ∧ s < 0x0C0 then (.TS, 0)
  else if 0x0C0 ≤ s ∧ s < 0x100 then (.CH, 0)
  else if 0x100 ≤ s ∧ s < 0x180 then (.HD, (s - 0x100) / 16)
  else if 0x180 ≤ s ∧ s < 0x200 then (.DP, (s - 0x180) / 16)
  else if 0x200 ≤ s ∧ s < 0x300 then (.LE, (s - 0x200) / 128)
  else if 0x300 ≤ s ∧ s < 0x3C2 then (.EV, 0)
  else (.SY, 0)

/-- The slots whose safe state a CFG_PARITY source shows (R482, R495). -/
def paritySlot (s : Nat) : Option Nat :=
  ((List.range 128).filter (fun k => (blockOfSlot k).isSome)).find? (fun k => paritySource k == s && s != 2)

namespace Dev

/-- A wake latch (R494, R501). -/
def wakeLatch (d : Dev) (w : Nat) : Bool := bit (d.getRx Block.IC.base (4 * (w / 32))).toNat (w % 32)

/-- The level of a source (R482). STAT_SAT of EV is any pin's. -/
def levelOf (d : Dev) (s : Nat) : Bool :=
  if !assigned s then false
  else if 0x0C0 ≤ s ∧ s ≤ 0x0F6 then d.wakeLatch (s - 0x0C0)
  else if s = 0x3C0 then (List.range 48).any (fun p => bit (d.get (blockAddr .EV 0 + 64 * p + 0x04)).toNat 5)
  else match levelBits s with
    | some (a, bs) => bs.any (fun b => bit (d.get a).toNat b)
    | none => match paritySlot s with
      | some k => d.isSafe k
      | none => false

def icTarget (d : Dev) (t : Nat) : IcTarget := at' d.ic.targets t .reset

def updTarget (d : Dev) (t : Nat) (f : IcTarget → IcTarget) : Dev := { d with ic := { d.ic with targets := upd d.ic.targets t f } }

/-- Group g's record; groups are numbered from 1. -/
def coal (d : Dev) (g : Nat) : CoalGroup := at' d.ic.groups g .reset

def updCoal (d : Dev) (g : Nat) (f : CoalGroup → CoalGroup) : Dev := { d with ic := { d.ic with groups := upd d.ic.groups g f } }

/-- The pending bit of a source (R492). -/
def pend (d : Dev) (s : Nat) : Bool := bit (d.get (R.IC_PEND_w (s / 32))).toNat (s % 32)

def setPend (d : Dev) (s : Nat) (v : Bool) : Dev := d.setFld ⟨R.IC_PEND_w (s / 32), s % 32, s % 32⟩ (b2n v)

def srcEn (d : Dev) (s : Nat) : Bool := bit (d.get (R.IC_EN_w (s / 32))).toNat (s % 32)
def srcPrio (d : Dev) (s : Nat) : Nat := d.fld (R.IC_SRCs_PRIO s)
def srcCoal (d : Dev) (s : Nat) : Nat := d.fld (R.IC_SRCs_COAL s)

/-- The sources that are pending, in ascending order. -/
def pendingSources (d : Dev) : List Nat :=
  (List.range 32).flatMap (fun w =>
    let v := (d.get (R.IC_PEND_w w)).toNat
    if v = 0 then [] else ((List.range 32).filter (bit v)).map (fun b => 32 * w + b))

/-- PRIO's group under the target's SUBBITS (R484). -/
def prioGroup (d : Dev) (t prio : Nat) : Nat := prio >>> d.fld (R.IC_T_CFG_SUBBITS t)

/-- The candidates of a target (R485). -/
def candidates (d : Dev) (t : Nat) : List Nat :=
  d.pendingSources.filter (fun s =>
    d.fp.target s == t && d.srcEn s && (d.srcCoal s == 0 || (d.coal (d.srcCoal s)).isOpen) &&
    (match (d.icTarget t).stack.head? with
     | none => true
     | some e => decide (d.prioGroup t e.prio < d.prioGroup t (d.srcPrio s))))

/-- The candidate of highest priority; the lower number wins a tie (R484). -/
def bestCandidate (d : Dev) (t : Nat) : Option Nat :=
  (d.candidates t).foldl (fun b s => match b with
    | none => some s
    | some c => if d.srcPrio c < d.srcPrio s then some s else b) none

/-- Is IC in its parity safe state? -/
def icSafe (d : Dev) : Bool := d.isSafe Block.IC.base

/-- May target t give a claim now? -/
def canClaim (d : Dev) (t : Nat) : Bool :=
  !(d.icTarget t).fault && decide ((d.icTarget t).stack.length < 16) && !d.icSafe && !(d.candidates t).isEmpty

/-- The request line (R485). -/
def lineOf (d : Dev) (t : Nat) : Bool := d.canClaim t || (t == 15 && d.flag R.SY_FAULT_STATUS_CFG_PARITY)

/-- Is vector v masked, by its own Mask or by the Function Mask (R486)? -/
def vectorMasked (d : Dev) (v : Nat) : Bool := d.ic.funcMask || d.flag (R.IC_MSIXv_CTRL_MASK v)

def pba (d : Dev) (v : Nat) : Bool := bit (d.get R.IC_PBA).toNat v
def setPba (d : Dev) (v : Nat) (b : Bool) : Dev := d.setFld ⟨R.IC_PBA, v, v⟩ (b2n b)

/-- A delivery event of a target (R486). T14 and T15 are pins. -/
def deliver (d : Dev) (t : Nat) : Dev :=
  if 13 < t ∨ !d.ic.msixEnable then d
  else if d.vectorMasked t then d.setPba t true
  else d.emit (.msix t)

/-- Write the messages whose vectors are unmasked and whose Pending bits are set (R486). -/
def releaseVectors (d : Dev) : Dev :=
  (List.range 14).foldl (fun d v =>
    if d.ic.msixEnable && !d.vectorMasked v && d.pba v then (d.setPba v false).emit (.msix v) else d) d

/-- Close the open groups of which no source is pending (R493). -/
def closeGroups (d : Dev) : Dev :=
  (List.range 32).foldl (fun d g =>
    if (d.coal g).isOpen && !d.pendingSources.any (fun s => d.srcCoal s == g) then d.updCoal g (fun _ => .reset) else d) d

/-- Compute every line (R485): a line that rises, or that a claim or completion of its target leaves at 1, is a
delivery event; a Pending bit falls with its line (R486). -/
def icUpdate (d : Dev) (touched : Option Nat) : Dev :=
  let d := d.closeGroups
  (List.range 16).foldl (fun d t =>
    let was := (d.icTarget t).line
    let now := d.lineOf t
    let d := if was = now then d else d.updTarget t (fun x => { x with line := now })
    if now && (!was || touched == some t) then d.deliver t
    else if !now && decide (t < 14) && d.pba t then d.setPba t false
    else d) d

/-- Open a group (R493). -/
def openGroup (d : Dev) (g : Nat) : Dev :=
  if 1 ≤ g ∧ g ≤ 31 then d.updCoal g (fun x => { x with isOpen := true }) else d

/-- An edge latches its pending bit, and counts in a closed group (R482, R493). -/
def latchEdge (d : Dev) (s : Nat) : Dev :=
  if !assigned s then d
  else
    let d := d.setPend s true
    let g := d.srcCoal s
    if g = 0 ∨ (d.coal g).isOpen then d
    else
      let d := d.updCoal g (fun x => { x with count := x.count + 1, since := some (x.since.getD d.raw) })
      if d.fld (R.IC_COALg_COUNT (g - 1)) ≤ (d.coal g).count then d.openGroup g else d

/-- The first clk with an edge of source s in flight loses that edge. -/
def takeEdge (s : Nat) : List (List Nat) → List (List Nat)
  | [] => []
  | b :: t => if b.contains s then (if b.erase s = [] then t else b.erase s :: t) else b :: takeEdge s t

/-- May an edge of source s reach IC now: is it in flight, and has every earlier word of its island's crossing arrived
(R25)? The edges of one clk have no order among themselves. -/
def edgeNext (d : Dev) (s : Nat) : Bool :=
  match d.ic.inflight.find? (fun b => b.any (fun e => islandOf e == islandOf s)) with
  | some b => b.contains s
  | none => false

/-- IC_SOURCE_EDGE: an edge that is on its way reaches IC (R25, R482). -/
def sourceEdge (d : Dev) (s : Nat) : Dev :=
  if d.edgeNext s then
    (({ d with ic := { d.ic with inflight := takeEdge s d.ic.inflight } }).latchEdge s).icUpdate none
  else d

/-- A claim of target t (R488, R491): the unit after it and the word that the read returns. -/
def claim (d : Dev) (t : Nat) : Dev × Word :=
  match (if d.canClaim t then d.bestCandidate t else none) with
  | none => (d, 0x3FF)
  | some s =>
    let prio := d.srcPrio s
    let level := d.levelOf s
    let d := (d.setPend s false).updTarget t (fun x => { x with stack := ⟨s, prio⟩ :: x.stack })
    let d := if level then d else d.count R.IC_EMPTY_CLAIM_COUNT 1 R.IC_STATUS_STAT_SAT
    (d.icUpdate (some t), BitVec.ofNat 32 (prio * 2 ^ 24 + s))

/-- IC_CLAIM: a read of IC_Tt_CLAIM, with its completion (R488). -/
def icClaim (d : Dev) (t : Nat) : Dev :=
  let r := d.claim t
  r.1.emit (.readData (R.IC_T_CLAIM t) r.2)

/-- IC_COMPLETE: source n is written to IC_Tt_COMPLETE (R489). -/
def icComplete (d : Dev) (t n : Nat) : Dev :=
  let d := d.setFld (R.IC_T_COMPLETE_SOURCE t) n
  let n := n % 1024
  if (d.icTarget t).fault ∨ n = 0x3FF then d
  else if (d.icTarget t).stack.head?.map (·.src) = some n then
    (d.updTarget t (fun x => { x with stack := x.stack.drop 1 })).icUpdate (some t)
  else
    ((d.updTarget t (fun x => { x with fault := true, faultSrc := n })).eventF [R.IC_STATUS_STACK_FAULT]).icUpdate none

/-- IC_TARGET_RESET (R490). -/
def icTargetReset (d : Dev) (t : Nat) : Dev :=
  (d.updTarget t (fun x => { x with stack := [], fault := false, faultSrc := 0 })).icUpdate none

/-- IC_PEND_WRITE: a word is written to IC_PEND_w (R492). -/
def icPendWrite (d : Dev) (w : Nat) (v : Word) : Dev :=
  let old := (d.get (R.IC_PEND_w w)).toNat
  ((List.range 32).foldl (fun d b =>
    let s := 32 * w + b
    if bit v.toNat b then (if bit old b then d else d.latchEdge s)
    else if bit old b then d.setPend s false else d) d).icUpdate none

/-- COAL_FLUSH (R493). -/
def coalFlush (d : Dev) (g : Nat) : Dev := (d.openGroup g).icUpdate none

/-- COAL_TIMER: the timer of a closed group that has counted an edge reaches TIME_US (R493). -/
def coalTimer (d : Dev) (g : Nat) : Dev :=
  if !(d.coal g).isOpen && (d.coal g).since.isSome && d.fld (R.IC_COALg_TIME_US (g - 1)) != 0
  then (d.openGroup g).icUpdate none else d

/-- WAKE_INPUT_EDGE (R494): inputs 55 to 63 never set. The edge reaches IC once CTL runs. -/
def wakeEdge (d : Dev) (w : Nat) : Dev :=
  if 54 < w ∨ d.wakeLatch w then d
  else
    let a := 4 * (w / 32)
    let d := d.setRx Block.IC.base a (d.getRx Block.IC.base a ||| BitVec.ofNat 32 (2 ^ (w % 32)))
    if d.chain.controlUp then d.edge (0x0C0 + w) else d

/-- WAKE_CLR of one latch (R494, R500). -/
def wakeClear (d : Dev) (w : Nat) : Dev :=
  let a := 4 * (w / 32)
  d.setRx Block.IC.base a (d.getRx Block.IC.base a &&& ~~~ (BitVec.ofNat 32 (2 ^ (w % 32))))

/-- CTL starts: a latch that was set meanwhile gives one edge (R494). -/
def wakeStart (d : Dev) : Dev := d.edges (((List.range 55).filter d.wakeLatch).map (0x0C0 + ·))

/-- A write of the MSI-X capability's Enable and Function Mask (R486). -/
def msixWrite (d : Dev) (en mask : Bool) : Dev :=
  let was := d.ic.msixEnable
  let d := { d with ic := { d.ic with msixEnable := en, funcMask := mask } }
  if !en then d.setFld R.IC_PBA_PENDING 0
  else
    let d := if was then d else
      (List.range 14).foldl (fun d t => if (d.icTarget t).line then d.deliver t else d) d
    d.releaseVectors

/-- MSIX_UNMASK: a vector's mask, or the Function Mask (none), is cleared (R486). -/
def msixUnmask (d : Dev) (v : Option Nat) : Dev :=
  (match v with
    | some v => d.setFld (R.IC_MSIXv_CTRL_MASK v) 0
    | none => { d with ic := { d.ic with funcMask := false } }).releaseVectors

/-- IC outside its registers at its SRST (R496): edges in flight are lost. -/
def icReset (d : Dev) : Dev :=
  { d with ic := { IcSt.reset with msixEnable := d.ic.msixEnable, funcMask := d.ic.funcMask } }

/-- Is IRQ_N low (R486)? While IC is held in reset, AON drives it by the wake latches (R494). -/
def irqLow (d : Dev) : Bool :=
  if d.chain.controlUp then (d.icTarget 14).line
  else d.flag R.IC_WAKE_PIN_EN &&
    (List.range 55).any (fun w => d.wakeLatch w && bit (d.get (R.IC_WAKE_EN (w / 32))).toNat (w % 32))

/-- Is ALERT_N low (R486)? -/
def alertLow (d : Dev) : Bool := (d.icTarget 15).line

end Dev

end Sys2Proof.Machine
end

