-- ==== Sys2Proof/Machine/Keys.lean ====
section
/-!
DEFINITION. Key and fuse programming (R393 to R396, R406).
-/
namespace Sys2Proof.Machine

/-- Where a slot and page of KY_PROG_CTRL lie in the OTP (R393, R406): the number under which the page is held and the
bytes it has; none: no such page. PK0 to PK7 are 0 to 7, CK0 to CK15 8 to 23, HDCP_LC 25, page p of HDCP_PUB 0x100
+ p. -/
def pageOf (slot page : Nat) : Option (Nat × Nat) :=
  if slot = 0x20 then (if page < 7 then some (0x100 + page, if page = 6 then 4 else 64) else none)
  else if page ≠ 0 then none
  else if slot < 8 then some (slot, 64)
  else if 0x10 ≤ slot ∧ slot < 0x20 then some (slot - 8, 32)
  else if slot = 0x21 then some (25, 16)
  else none

/-- The fuse bit of a slot that can be revoked: a PK or a CK (R393). -/
def revokeBit (slot : Nat) : Option Nat :=
  if slot < 8 then some slot else if 0x10 ≤ slot ∧ slot < 0x20 then some (slot - 8) else none

namespace Dev

/-- A programming GO ends with a RESULT (R395). -/
def kyEnd (d : Dev) (result : Nat) : Dev :=
  (({ d with ky := none }).setFlds [(R.KY_PROG_STATUS_BUSY, 0), (R.KY_PROG_STATUS_RESULT, result)]).event R.KY_STATUS [0]

/-- Programming is closed: CLOSED of R395. -/
def kyClosed (d : Dev) : Bool := d.otp.progDisable || d.configured

def kyStart (d : Dev) (j : KyJob) : Dev :=
  ({ d with ky := some j }).setFlds [(R.KY_PROG_STATUS_BUSY, 1), (R.KY_PROG_STATUS_RESULT, 0)]

/-- KY_PROG_DATA0 to 15 as bytes. -/
def kyBytes (d : Dev) : List Byte := (List.range 16).flatMap (fun k => toLe 4 (d.get (R.KY_PROG_DATAw k)).toNat)

/-- The device clears the data registers at each GO (R406). -/
def kyClear (d : Dev) : Dev := (List.range 16).foldl (fun d k => d.put (R.KY_PROG_DATAw k) 0) d

/-- A GO is taken only while no programming is in progress. -/
def kyIdle (d : Dev) : Bool := d.ky.isNone

/-- KY_PROGRAM (R395). A page that no slot has, or HDCP_PUB bytes past 388 that are not 0, cannot read back as asked. -/
def kyProgram (d : Dev) : Dev :=
  if !d.kyIdle then d.kyClear
  else
    let bytes := d.kyBytes
    let slot := d.fld R.KY_PROG_CTRL_SLOT
    let page := d.fld R.KY_PROG_CTRL_PAGE
    let closed := d.kyClosed
    let d := d.kyClear
    if closed then d.kyEnd 1
    else match pageOf slot page with
      | none => d.kyEnd 4
      | some (k, n) =>
        if d.otp.pages.any (·.1 == k) then d.kyEnd 2
        else if k = 0x106 ∧ (bytes.drop n).any (· != 0) then d.kyEnd 4
        else d.kyStart (.program slot page (bytes.take n))

/-- KY_REVOKE (R395). -/
def kyRevoke (d : Dev) : Dev :=
  if !d.kyIdle then d.kyClear
  else
    let slot := d.fld R.KY_PROG_CTRL_SLOT
    let closed := d.kyClosed
    let d := d.kyClear
    if closed then d.kyEnd 1
    else match revokeBit slot with
      | none => d.kyEnd 3
      | some k => if d.otp.pages.any (·.1 == k) then d.kyStart (.revoke slot) else d.kyEnd 3

/-- KY_SET_CFG (R395, R406): DATA0 [1:0] is fused. -/
def kySetCfg (d : Dev) : Dev :=
  if !d.kyIdle then d.kyClear
  else
    let w := (d.get (R.KY_PROG_DATAw 0)).toNat
    let closed := d.kyClosed
    let d := d.kyClear
    if closed then d.kyEnd 1 else d.kyStart (.config (bit w 0) (bit w 1))

/-- A GO, by CMD (R406). -/
def kyGo (d : Dev) : Dev :=
  match d.fld R.KY_PROG_CTRL_CMD with
  | 0 => d.kyProgram
  | 1 => d.kyRevoke
  | 2 => d.kySetCfg
  | _ => d.kyClear

/-- The fuses after a programming command; a programmed fuse is never cleared (R395). -/
def fuse (o : Otp) : KyJob → Otp
  | .program slot page bytes =>
    match pageOf slot page with
    | some (k, _) => { o with pages := o.pages ++ [(k, bytes)] }
    | none => o
  | .revoke slot =>
    match revokeBit slot with
    | some k => if bit o.revoked k then o else { o with revoked := o.revoked + 2 ^ k }
    | none => o
  | .config r p => { o with requireSigned := o.requireSigned || r, progDisable := o.progDisable || p }

/-- PROG_DONE (R395): the read-back agrees, or RESULT is VERIFY. The fuses take effect at the next POR. -/
def progDone (d : Dev) (ok : Bool) : Dev :=
  match d.ky with
  | none => d
  | some j => if ok then ({ d with otp := fuse d.otp j }).kyEnd 0 else d.kyEnd 4

end Dev

end Sys2Proof.Machine
end

