-- ==== Sys2Proof/Machine/BlockCopy.lean ====
section
/-!
DEFINITION. The block copy engines (chapter 11).
-/
namespace Sys2Proof.Machine

/-- Number of enabled bytes of a write. -/
def enabledBytes (w : BurstWrite) : Nat := ((List.range 64).filter (fun i => w.enables.getLsbD i)).length

namespace BxCmd

/-- Slot word at a slot offset (R372). -/
def word (c : BxCmd) (off : Nat) : Nat := c.words.getD (off / 4) 0

def op (c : BxCmd) : Nat := bits (c.word 0) 3 0
def size (c : BxCmd) : Nat := 2 ^ bits (c.word 0) 5 4
def xDir (c : BxCmd) : Bool := bit (c.word 0) 8
def yDir (c : BxCmd) : Bool := bit (c.word 0) 9
def clipEn (c : BxCmd) : Nat := bits (c.word 0) 15 12
def irq (c : BxCmd) : Bool := bit (c.word 0) 16
def srcClr (c : BxCmd) : Nat := bits (c.word 4) 7 0
def dstClr (c : BxCmd) : Nat := bits (c.word 4) 15 8
def srcOff (c : BxCmd) : Nat := bits (c.word 8) 29 0
def dstOff (c : BxCmd) : Nat := bits (c.word 12) 29 0
def srcPitch (c : BxCmd) : Nat := bits (c.word 16) 19 0
def dstPitch (c : BxCmd) : Nat := bits (c.word 20) 19 0
def w (c : BxCmd) : Nat := bits (c.word 24) 14 0
def h (c : BxCmd) : Nat := bits (c.word 24) 30 16
def fill (c : BxCmd) : Bool := c.op == 1

/-- Destination size (R356). -/
def wd (c : BxCmd) : Nat := if c.op = 2 ∨ c.op = 4 then c.h else c.w
def hd (c : BxCmd) : Nat := if c.op = 2 ∨ c.op = 4 then c.w else c.h

/-- Source element of destination element (u, v) (R357). -/
def source (c : BxCmd) (u v : Nat) : Nat × Nat :=
  match c.op with
  | 2 => (v, c.h - 1 - u)
  | 3 => (c.w - 1 - u, c.h - 1 - v)
  | 4 => (c.w - 1 - v, u)
  | 5 => (c.w - 1 - u, v)
  | 6 => (u, c.h - 1 - v)
  | _ => (u, v)

/-- Is destination element (u, v) in the write set (R358)? -/
def inWriteSet (c : BxCmd) (u v : Nat) : Bool :=
  c.clipEn == 0 || (List.range 4).any (fun k =>
    let p := c.word (0x40 + 8 * k)
    let s := c.word (0x44 + 8 * k)
    bit c.clipEn k && decide (bits p 14 0 ≤ u ∧ u < bits p 14 0 + bits s 14 0) &&
      decide (bits p 30 16 ≤ v ∧ v < bits p 30 16 + bits s 30 16))

/-- The elements of row v in the order of X_DIR. -/
def columns (c : BxCmd) : List Nat := let l := List.range c.wd; if c.xDir then l.reverse else l

/-- The rows that hold an element of the write set, in the order of Y_DIR (R359). -/
def rowList (c : BxCmd) : List Nat :=
  let l := (List.range c.hd).filter (fun v => c.columns.any (fun u => c.inWriteSet u v))
  if c.yDir then l.reverse else l

/-- Address of source element and destination element, given the clearings' bases (R356). -/
def srcAddr (c : BxCmd) (base u v : Nat) : Nat :=
  let s := c.source u v
  base + c.srcOff + s.2 * c.srcPitch + s.1 * c.size
def dstAddr (c : BxCmd) (base u v : Nat) : Nat := base + c.dstOff + v * c.dstPitch + u * c.size

/-- The bursts that row v reads, in order (R359). -/
def readsOf (c : BxCmd) (base v : Nat) : List (Nat × Option BurstWrite) :=
  if c.fill then []
  else ((c.columns.map (fun u => c.srcAddr base u v / 64 * 64)).eraseDups).map (fun a => (a, none))

/-- The fill element's bytes (R357). -/
def fillBytes (c : BxCmd) : List Byte := (toLe 4 (c.word 0x20) ++ toLe 4 (c.word 0x24)).take c.size

/-- The bytes of the source element of (u, v), from the bursts read; none if a burst of it was poisoned (R364). -/
def element (c : BxCmd) (base u v : Nat) : Option (List Byte) :=
  if c.fill then some c.fillBytes
  else
    let a := c.srcAddr base u v
    match c.got.find? (fun g => g.1 == a / 64 * 64) with
    | some g => if g.2.2 then none else some (slice g.2.1 (a % 64) c.size)
    | none => none

/-- Put bytes at a lane of a burst write. -/
def putBytes (w : BurstWrite) (lane : Nat) (l : List Byte) : BurstWrite :=
  ⟨(List.range 64).map (fun i => if lane ≤ i ∧ i < lane + l.length then l.getD (i - lane) 0 else w.bytes.getD i 0),
    w.enables ||| BitVec.ofNat 64 ((2 ^ l.length - 1) <<< lane)⟩

/-- The writes of row v, burst by burst in the order of X_DIR (R358, R359). -/
def writesOf (c : BxCmd) (src dst v : Nat) : List (Nat × Option BurstWrite) :=
  let es := c.columns.filterMap (fun u =>
    if c.inWriteSet u v then (c.element src u v).map (fun b => (c.dstAddr dst u v, b)) else none)
  ((es.map (fun e => e.1 / 64 * 64)).eraseDups).map (fun a =>
    (a, some ((es.filter (fun e => e.1 / 64 * 64 == a)).foldl (fun w e => putBytes w (e.1 % 64) e.2)
      ⟨List.replicate 64 0, 0⟩)))

end BxCmd

namespace Dev

def bxe (d : Dev) (n : Nat) : BxSt := at' d.bx n .reset

def updBx (d : Dev) (n : Nat) (f : BxSt → BxSt) : Dev := { d with bx := upd d.bx n f }

/-- Change the active command of engine n. -/
def updBxCmd (d : Dev) (n : Nat) (f : BxCmd → BxCmd) : Dev := d.updBx n (fun s => { s with active := s.active.map f })

/-- Does a purpose belong to engine n, and to a command of it? -/
def bxOwns (n : Nat) (cmd : Option Nat) (p : Purpose) : Bool :=
  match p with
  | .bxRead e c => e == n && (cmd == none || cmd == some c)
  | .bxWrite e c => e == n && (cmd == none || cmd == some c)
  | _ => false

/-- Bursts of engine n (of a command) in flight or waiting for a tag. -/
def bxFlight (d : Dev) (n : Nat) (cmd : Option Nat) : Bool :=
  d.fs.inflight.any (fun t => bxOwns n cmd t.req.purpose) || d.fs.waiting.any (fun r => bxOwns n cmd r.purpose)

/-- BUSY and PAUSED (R369). -/
def bxShow (d : Dev) (n : Nat) : Dev :=
  let active := (d.bxe n).active.isSome
  d.setFlds [(R.BX_STATUS_BUSY n, b2n (active || d.bxFlight n none)),
    (R.BX_STATUS_PAUSED n, b2n (d.flag (R.BX_CTRL_PAUSE n) && !active))]

/-- BX_SUBMIT: a write of 1 to GO (R353). -/
def bxSubmit (d : Dev) (n : Nat) : Dev :=
  let k := d.fld (R.BX_QUEUE_COUNT n)
  if !d.flag R.CH_LOAD_STATUS_CONFIGURED ∨ 16 ≤ k then d.event (R.BX_STATUS n) [2]
  else
    ((d.setFld (R.BX_QUEUE_COUNT n) (k + 1)).wrapAdd (R.BX_QUEUE_TAIL n) 1).wrapAdd (R.BX_TICKET_SUBMITTED n) 1

/-- The base of a clearing, 0 for an absent one. -/
def clearingBase (d : Dev) (k : Nat) : Nat := match d.clearings.find? (·.number == k) with | some c => c.base | none => 0

/-- The start checks (R363): the code of the first failure, 0 if none. -/
def bxCheck (d : Dev) (c : BxCmd) : Nat :=
  let find := fun k => d.clearings.find? (·.number == k)
  let src := if c.fill then none else find c.srcClr
  let past := fun (off pitch h w size : Nat) => decide (size ≤ off + (h - 1) * pitch + w * c.size - 1)
  if 7 ≤ c.op then 1
  else match find c.dstClr with
    | none => 2
    | some t =>
      if !c.fill && src.isNone then 2
      else if !t.copyWrite || (match src with | some s => !s.copyRead | none => false) then 3
      else if (match src with | some s => s.isProtected && (!t.isProtected || s.owner != t.owner) | none => false) then 4
      else if c.dstOff % c.size != 0 || c.dstPitch % c.size != 0 ||
          (!c.fill && (c.srcOff % c.size != 0 || c.srcPitch % c.size != 0)) then 5
      else if c.w == 0 || c.h == 0 || decide (16384 < c.w) || decide (16384 < c.h) || decide (16384 < c.wd * c.size) ||
          decide (c.dstPitch < c.size * c.wd) || (!c.fill && decide (c.srcPitch < c.size * c.w)) then 6
      else if past c.dstOff c.dstPitch c.hd c.wd t.size ||
          (match src with | some s => past c.srcOff c.srcPitch c.h c.w s.size | none => false) then 7
      else if d.underReload t || (match src with | some s => d.underReload s | none => false) then 8
      else 0

/-- Capture an error of a command (R370). -/
def bxCapture (d : Dev) (n : Nat) (c : BxCmd) (code : Nat) : Dev :=
  if bit (d.get (R.BX_STATUS n)).toNat 1 then d else
    d.setFlds [(R.BX_ERR_SLOT n, c.slot), (R.BX_ERR_TICKET n, c.ticket), (R.BX_ERR_CODE n, code)]

/-- A command ends with a code, 0 for none (R355). -/
def bxEnd (d : Dev) (n : Nat) (c : BxCmd) (code : Nat) : Dev :=
  let d := d.updBx n (fun s => { s with active := none })
  let d := (d.wrapAdd (R.BX_TICKET_RETIRED n) 1).setFld (R.BX_QUEUE_COUNT n) (d.fld (R.BX_QUEUE_COUNT n) - 1)
  let d := d.wrapAdd (R.BX_QUEUE_HEAD n) 1
  let d := if code = 0 then
      d.count (R.BX_CMD_COUNT_COUNT n) 1 ⟨R.BX_STATUS n, 4, 4⟩ (if c.irq then [⟨R.BX_STATUS n, 0, 0⟩] else [])
    else
      ((d.bxCapture n c code).setFld (R.BX_STATUS_HALTED n) 1).count (R.BX_ERR_COUNT_COUNT n) 1 ⟨R.BX_STATUS n, 4, 4⟩
        [⟨R.BX_STATUS n, 1, 1⟩]
  d.bxShow n

/-- A burst of the active command is refused: no further burst is issued (R364). -/
def bxRefused (d : Dev) (n cmd addr : Nat) : Dev :=
  match (d.bxe n).active with
  | some c =>
    if c.id ≠ cmd then d
    else
      let d := if bit (d.get (R.BX_STATUS n)).toNat 1 || c.code.isSome then d else d.setFld (R.BX_ERR_ADDR_ADDR n) addr
      let drop := fun (r : Request) => bxOwns n (some cmd) r.purpose
      let d := { d with fs := { d.fs with waiting := d.fs.waiting.filter (fun r => !drop r) } }
      d.updBxCmd n (fun c => { c with code := c.code.or (some 0x10), todo := [], rows := c.rowList.length, phase := .writing })
  | none => d

/-- Issue the first burst that is still to go (R359). -/
def bxIssue (d : Dev) (n : Nat) : Dev :=
  match (d.bxe n).active with
  | some c => match c.todo with
    | b :: t =>
      let d := d.updBxCmd n (fun c => { c with todo := t })
      let p := if b.2.isSome then Purpose.bxWrite n c.id else Purpose.bxRead n c.id
      let r := d.fsAccept ⟨.bx (Fin.ofNat 2 n), b.1, b.2, p⟩
      let d := match r.2 with
        | .refused => r.1.bxRefused n c.id b.1
        | .stackSafe => r.1.bxRefused n c.id b.1
        | _ => r.1
      d.bxShow n
    | [] => d
  | none => d

/-- Make row number k of the row list the active command's row (R359). -/
def bxRow (d : Dev) (n k : Nat) : Dev :=
  match (d.bxe n).active with
  | some c =>
    let src := d.clearingBase c.srcClr
    let dst := d.clearingBase c.dstClr
    match c.rowList[k]? with
    | some v =>
      if c.fill then d.updBxCmd n (fun c => { c with rows := k, phase := .writing, got := [], todo := c.writesOf src dst v })
      else d.updBxCmd n (fun c => { c with rows := k, phase := .reading, got := [], todo := c.readsOf src v })
    | none => d.updBxCmd n (fun c => { c with rows := k, phase := .writing, got := [], todo := [] })
  | none => d

/-- BX_CMD_START (R354, R355, R363): the slot's words are copied, the checks run, the first burst issues. -/
def bxStart (d : Dev) (n : Nat) : Dev :=
  if d.fld (R.BX_QUEUE_COUNT n) = 0 ∨ (d.bxe n).active.isSome ∨ d.flag (R.BX_CTRL_PAUSE n) ∨ d.flag (R.BX_STATUS_HALTED n) ∨
      d.isSafe (Block.BX.base + n) then d
  else
    let slot := d.fld (R.BX_QUEUE_HEAD n)
    let words := (List.range 32).map (fun k => (d.get (R.BX_S_CMD n slot + 4 * k)).toNat)
    let id := (d.bxe n).nextId
    let c : BxCmd := ⟨id, words, slot, (d.fld (R.BX_TICKET_RETIRED n) + 1) % 2 ^ 16, 0, .reading, [], [], none⟩
    let d := d.updBx n (fun _ => { active := some c, nextId := id + 1 })
    let e := d.bxCheck c
    if e ≠ 0 then d.bxEnd n c e else ((d.bxRow n 0).bxIssue n).bxShow n

/-- BX_BURST_ISSUE: the next burst; after a row's last write, the next row begins (R359). -/
def bxBurst (d : Dev) (n : Nat) : Dev :=
  match (d.bxe n).active with
  | some c =>
    if !c.todo.isEmpty then d.bxIssue n
    else if c.phase = .writing ∧ c.rows + 1 < c.rowList.length then (d.bxRow n (c.rows + 1)).bxIssue n
    else d
  | none => d

/-- BX_ROW_READS_DONE: every read of the row has completed, and the row's writes go out (R359). -/
def bxRowRead (d : Dev) (n : Nat) : Dev :=
  match (d.bxe n).active with
  | some c =>
    if c.phase = .reading ∧ c.todo.isEmpty ∧ !d.bxFlight n (some c.id) then
      let src := d.clearingBase c.srcClr
      let dst := d.clearingBase c.dstClr
      match c.rowList[c.rows]? with
      | some v => (d.updBxCmd n (fun c => { c with phase := .writing, todo := c.writesOf src dst v })).bxIssue n
      | none => d
    else d
  | none => d

/-- BX_CMD_END: every write has completed (R355). -/
def bxCmdEnd (d : Dev) (n : Nat) : Dev :=
  match (d.bxe n).active with
  | some c =>
    if c.phase = .writing ∧ c.todo.isEmpty ∧ c.rowList.length ≤ c.rows + 1 ∧ !d.bxFlight n (some c.id) then
      d.bxEnd n c (c.code.getD 0)
    else d
  | none => d

/-- A read of a command is delivered (R359, R364). -/
def bxReadDone (d : Dev) (n cmd addr : Nat) (poisoned : Bool) (bytes : List Byte) : Dev :=
  match (d.bxe n).active with
  | some c =>
    if c.id ≠ cmd then d.bxShow n
    else
      let d := d.updBxCmd n (fun c => { c with got := c.got ++ [(addr, bytes, poisoned)] })
      if poisoned then
        let d := if bit (d.get (R.BX_STATUS n)).toNat 3 then d else d.setFld (R.BX_ERR_ADDR_ADDR n) addr
        (d.updBxCmd n (fun c => { c with code := c.code.or (some 0x11) })).event (R.BX_STATUS n) [3]
      else d
  | none => d.bxShow n

/-- A write of an engine has completed (R371). -/
def bxWriteDone (d : Dev) (n : Nat) (w : BurstWrite) : Dev :=
  (d.count64 (R.BX_BYTES n 0) (R.BX_BYTES n 1) (enabledBytes w) ⟨R.BX_STATUS n, 4, 4⟩).bxShow n

/-- BX_RESUME (R365, R366). -/
def bxResume (d : Dev) (n : Nat) : Dev :=
  if (d.bxe n).active.isSome then d else d.setFld (R.BX_STATUS_HALTED n) 0

/-- Requests of engine n that wait for a tag are no longer issued. -/
def bxDropWaiting (d : Dev) (n : Nat) : Dev :=
  { d with fs := { d.fs with waiting := d.fs.waiting.filter (fun r => !bxOwns n none r.purpose) } }

/-- BX_ABORT (R365): the active command ends with ABORTED, and every queued one is retired with ABORTED. -/
def bxAbort (d : Dev) (n : Nat) : Dev :=
  let d := d.bxDropWaiting n
  let d := match (d.bxe n).active with
    | some c => d.bxEnd n c 0x12
    | none => d
  let queued := d.fld (R.BX_QUEUE_COUNT n)
  let slot := d.fld (R.BX_QUEUE_HEAD n)
  let first := d.fld (R.BX_TICKET_RETIRED n) + 1
  let d := (d.wrapAdd (R.BX_TICKET_RETIRED n) queued).setFlds
    [(R.BX_QUEUE_COUNT n, 0), (R.BX_QUEUE_HEAD n, d.fld (R.BX_QUEUE_TAIL n)), (R.BX_STATUS_HALTED n, 1)]
  let d := if queued = 0 then d
    else
      let d := if bit (d.get (R.BX_STATUS n)).toNat 1 then d else
        d.setFlds [(R.BX_ERR_SLOT n, slot), (R.BX_ERR_TICKET n, first), (R.BX_ERR_CODE n, 0x12)]
      d.count (R.BX_ERR_COUNT_COUNT n) queued ⟨R.BX_STATUS n, 4, 4⟩ [⟨R.BX_STATUS n, 1, 1⟩]
  d.bxShow n

/-- The engine's parity safe state: the active command is abandoned (R149, R364). -/
def bxSafe (d : Dev) (n : Nat) : Dev :=
  let d := d.bxDropWaiting n
  d.updBxCmd n (fun c => { c with code := c.code.or (some 0x13), todo := [], rows := c.rowList.length, phase := .writing })

/-- The SRST of BXn empties it without retirement (R366). -/
def bxReset (d : Dev) (n : Nat) : Dev := (d.bxDropWaiting n).updBx n (fun s => { s with active := none })

end Dev

end Sys2Proof.Machine
end

