-- ==== Sys2Proof/Machine/Cartridge.lean ====
section
/-!
DEFINITION. The cartridge ports (R373 to R378, R402, R403). What their faults do to jobs is a code handed to the
streamer: each operation answers it beside the unit.
-/
namespace Sys2Proof.Machine
namespace Dev

def cpOf (d : Dev) (n : Nat) : CpSt := at' d.cp n .reset

def updCp (d : Dev) (n : Nat) (f : CpSt → CpSt) : Dev := { d with cp := upd d.cp n f }

/-- STATE of R375: 0 OFF, 1 LINK, 2 INIT, 3 READY, 4 UNSUPPORTED, 5 ERROR, 6 SHUTDOWN. -/
def cpState (d : Dev) (n : Nat) : Nat := d.fld (R.CP_STATE_STATE n)

def cpEvent (d : Dev) (n b : Nat) : Dev := d.event (R.CP_STATUS n) [b]

/-- Enter a state; leaving READY forgets the Reads outstanding. -/
def cpEnter (d : Dev) (n st : Nat) : Dev :=
  let d := d.updCp n (fun c => { c with reads := [], refreshing := false, step := 0 })
  let d := d.setFld (R.CP_STATE_STATE n) st
  if st = 0 ∨ st = 1 then d.setFlds [(R.CP_STATE_WIDTH n, 0), (R.CP_STATE_GEN n, 0)] else d

/-- The code by which the jobs of a port that leaves READY end: PORT (R388), or nothing where it was not READY. -/
def leaving (d : Dev) (n code : Nat) : Option Nat := if d.cpState n = 3 then some code else none

/-- The command of bring-up step k, as it goes out (R376, R377); steps 1 to 4 are register accesses. -/
def cpIssue (d : Dev) (n k : Nat) : Dev :=
  let d := d.updCp n (fun c => { c with step := k })
  match k with
  | 5 => d.emit (.nvmeAdmin n 0x06 1)
  | 6 => d.emit (.nvmeAdmin n 0x06 0)
  | 7 => d.emit (.nvmeAdmin n 0x09 7)
  | 8 => d.emit (.nvmeAdmin n 0x05 1)
  | 9 => d.emit (.nvmeAdmin n 0x01 1)
  | 10 => d.emit (.nvmeAdmin n 0x02 1)
  | 11 => d.emit (.nvmeAdmin n 0x02 2)
  | _ => d

/-- Enter INIT at its first step. -/
def cpInit (d : Dev) (n : Nat) : Dev := ((d.cpEnter n 2).setFld (R.CP_STATE_REASON n) 0).cpIssue n 1

/-- CP_ENABLE_WRITE (R375). -/
def cpEnable (d : Dev) (n : Nat) (en : Bool) : Dev × Option Nat :=
  let st := d.cpState n
  let lost := if en then none else d.leaving n 1
  let d := d.setFld (R.CP_CTRL_EN n) (b2n en)
  if en then (if st = 0 then d.cpEnter n 1 else d, none)
  else if st = 3 then (d.cpEnter n 6, lost)
  else if st = 6 then (d, none)
  else (d.cpEnter n 0, none)

/-- CP_RESTART (R375). -/
def cpRestart (d : Dev) (n : Nat) : Dev := if d.cpState n = 4 ∨ d.cpState n = 5 then d.cpInit n else d

/-- LINK_UP at a rate and width (R373, R375): ×1, ×2 or ×4, at 2.5 to 16.0 GT/s, no faster than MAX_GEN. -/
def cpLinkUp (d : Dev) (n gen width : Nat) : Dev :=
  if d.cpState n ≠ 1 || !decide (1 ≤ gen ∧ gen ≤ 4) || !([1, 2, 4] : List Nat).contains width then d
  else
    ((d.cpInit n).setFlds [(R.CP_STATE_GEN n, min gen (d.fld (R.CP_CTRL_MAX_GEN n) + 1)), (R.CP_STATE_WIDTH n, width)]).cpEvent n 0

/-- LINK_DOWN (R375, R378): from every state that has a link, to LINK; a port whose EN is 0 goes to OFF (DEDUCED, log
entry 95). -/
def cpLinkDown (d : Dev) (n : Nat) : Dev × Option Nat :=
  if 2 ≤ d.cpState n then
    ((d.cpEnter n (if d.flag (R.CP_CTRL_EN n) then 1 else 0)).cpEvent n 1, d.leaving n 1)
  else (d, none)

/-- To ERROR with FATAL (R375, R378). -/
def cpError (d : Dev) (n : Nat) : Dev × Option Nat := ((d.cpEnter n 5).cpEvent n 3, d.leaving n 1)

/-- CP_INIT_TIMEOUT. -/
def cpInitTimeout (d : Dev) (n : Nat) : Dev := if d.cpState n = 2 then (d.cpError n).1 else d

/-- CP_FATAL (R378). -/
def cpFatal (d : Dev) (n : Nat) : Dev × Option Nat := if d.cpState n = 3 then d.cpError n else (d, none)

/-- CP_SHUTDOWN_DONE (R375). EN set meanwhile takes the port on to LINK. -/
def cpShutdownDone (d : Dev) (n : Nat) : Dev :=
  if d.cpState n ≠ 6 then d
  else if d.flag (R.CP_CTRL_EN n) then d.cpEnter n 1 else d.cpEnter n 0

/-- CP_DETECT_RETRY: without a receiver the port stays in LINK (R375). -/
def cpDetectRetry (d : Dev) (_ : Nat) : Dev := d

/-- CP_CMD_TIMEOUT (R378). -/
def cpCmdTimeout (d : Dev) (n : Nat) : Dev × Option Nat :=
  let c := d.cpOf n
  if d.cpState n = 3 ∧ (!c.reads.isEmpty ∨ c.refreshing) then
    ((d.cpInit n).count (R.CP_TIMEOUT_COUNT_COUNT n) 1 ⟨R.CP_STATUS n, 6, 6⟩ [⟨R.CP_STATUS n, 4, 4⟩], some 3)
  else (d, none)

/-- LOG_REFRESH (R402). -/
def logRefresh (d : Dev) (n : Nat) : Dev :=
  if d.cpState n = 3 ∧ !(d.cpOf n).refreshing then
    (d.updCp n (fun c => { c with refreshing := true })).emit (.nvmeAdmin n 0x02 2)
  else d

/-- Put bytes into a port's RX registers from an indirect address. -/
def cpStoreRx (d : Dev) (n ind : Nat) (l : List Byte) (len : Nat) : Dev :=
  (List.range (len / 4)).foldl (fun d k => d.setRx (Block.CP.base + n) (ind + 4 * k) (BitVec.ofNat 32 (field l (4 * k) 4))) d

/-- A failed command is captured and counted (R378, R402). -/
def cpCapture (d : Dev) (n opc : Nat) (admin : Bool) (sct sc : Nat) (evs : List Fld) : Dev :=
  (d.setFlds [(R.CP_ERR_OPC n, opc), (R.CP_ERR_ADMIN n, b2n admin), (R.CP_ERR_SCT n, sct), (R.CP_ERR_SC n, sc)]).count
    (R.CP_CMD_ERR_COUNT_COUNT n) 1 ⟨R.CP_STATUS n, 6, 6⟩ evs

/-- To UNSUPPORTED (R377). -/
def cpUnsupported (d : Dev) (n reason : Nat) : Dev := (d.cpEnter n 4).setFld (R.CP_STATE_REASON n) reason

/-- Admin opcode of a bring-up step. -/
def cpOpcode (k : Nat) : Nat := match k with | 5 => 6 | 6 => 6 | 7 => 9 | 8 => 5 | 9 => 1 | _ => 2

/-- One reply during INIT (R377). -/
def cpStep (d : Dev) (n : Nat) (r : CpReply) : Dev :=
  let k := (d.cpOf n).step
  match k, r with
  | 1, .caps cc nvm mps mqes =>
    let d := d.setFld (R.CP_STATE_QDEPTH n) (min 64 (mqes.toNat + 1))
    if cc ≠ 0x010802 then d.cpUnsupported n 1
    else if !nvm || decide (0 < mps.val) then d.cpUnsupported n 2
    else d.cpIssue n 2
  | 5, .controller mdts bytes =>
    let kib := if mdts = 0 then 128 else min 128 (4 * 2 ^ min mdts.toNat 8)
    ((d.setFld (R.CP_INFO_MAX_READ_KIB n) kib).cpStoreRx n 0x400 bytes 256).cpIssue n 6
  | 6, .namespaceInfo nsze lbads md prot =>
    let d := d.set64 (R.CP_NSZE n 0) (R.CP_NSZE n 1) nsze.toNat
    if nsze = 0 then d.cpUnsupported n 3
    else if lbads ≠ 9 ∧ lbads ≠ 12 then d.cpUnsupported n 4
    else if md ≠ 0 ∨ prot then d.cpUnsupported n 5
    else (d.setFld (R.CP_INFO_LBA_SHIFT n) lbads.toNat).cpIssue n 7
  | 10, .log bytes => (d.cpStoreRx n 0x200 bytes 64).cpIssue n 11
  | 11, .log bytes => ((d.cpStoreRx n 0 bytes 512).cpEnter n 3).cpEvent n 2
  | _, .failed sct sc =>
    let d := if 5 ≤ k then d.cpCapture n (cpOpcode k) true sct.toNat sc.toNat [] else d
    (d.cpError n).1
  | k, .done => if k = 2 ∨ k = 3 ∨ k = 4 ∨ k = 7 ∨ k = 8 ∨ k = 9 then d.cpIssue n (k + 1) else d
  | _, _ => d

/-- CP_INIT_STEP_DONE: a bring-up step or an admin command completes (R377, R378, R402). -/
def cpReply (d : Dev) (n : Nat) (r : CpReply) : Dev × Option Nat :=
  if d.cpState n = 2 then (d.cpStep n r, none)
  else if d.cpState n = 3 ∧ (d.cpOf n).refreshing then
    let d := d.updCp n (fun c => { c with refreshing := false })
    match r with
    | .log bytes => (d.cpStoreRx n 0 bytes 512, none)
    | .failed sct sc => (d.cpCapture n 2 true sct.toNat sc.toNat []).cpError n
    | _ => (d, none)
  else (d, none)

/-- Reads that the port may still take (R376). -/
def cpRoom (d : Dev) (n : Nat) : Nat := d.fld (R.CP_STATE_QDEPTH n) - 1 - (d.cpOf n).reads.length

/-- LBAs of the port's largest read (R376). -/
def cpMaxBlocks (d : Dev) (n : Nat) : Nat := (d.fld (R.CP_INFO_MAX_READ_KIB n) * 1024) >>> d.fld (R.CP_INFO_LBA_SHIFT n)

/-- Issue one Read. -/
def cpRead (d : Dev) (n lane job lba blocks : Nat) (use' : ReadUse) : Dev :=
  let cid := (d.cpOf n).nextCid
  (d.updCp n (fun c => { c with reads := c.reads ++ [⟨cid, lane, job, lba, blocks, use'⟩], nextCid := cid + 1 })).emit
    (.nvmeRead n lba blocks)

/-- A Read completes: the command, and whether it succeeded. -/
def cpReadDone (d : Dev) (n cid : Nat) (r : CpRead) : Dev × Option (CpCommand × Bool) :=
  match (d.cpOf n).reads.find? (·.cid == cid) with
  | none => (d, none)
  | some c =>
    let d := d.updCp n (fun s => { s with reads := s.reads.filter (·.cid != cid) })
    if r.sct = 0 ∧ r.sc = 0 then
      (d.count64 (R.CP_READ_BYTES n 0) (R.CP_READ_BYTES n 1) (c.blocks <<< d.fld (R.CP_INFO_LBA_SHIFT n)) ⟨R.CP_STATUS n, 6, 6⟩,
        some (c, true))
    else
      ((d.cpCapture n 2 false r.sct.toNat r.sc.toNat [⟨R.CP_STATUS n, 5, 5⟩]).cpStoreRx n 0x200 r.errorEntry 64, some (c, false))

/-- The SRST of CPn: the port goes to OFF without shutdown (R400); its fields are reset by the caller. -/
def cpReset (d : Dev) (n : Nat) : Dev := d.updCp n (fun c => { CpSt.reset with nextCid := c.nextCid })

end Dev

end Sys2Proof.Machine
end

