-- ==== Sys2Proof/Machine/Zstd.lean ====
section
/-!
DEFINITION. The decompression of an entry's stream (R385, R386): Zstandard frames of RFC 8878, which the spec names
and does not spell out. What is here is that format as generally known (PRESUMED, log entry 13), with the limits of
R385. An `Option` answer of none is a breach.
-/
namespace Sys2Proof.Machine

/-! Bits. -/

/-- The bits of bytes, least significant first. -/
def lsbBits (l : List Byte) : List Bool := l.flatMap (fun b => (List.range 8).map b.getLsbD)

/-- The number that bits form, the first the least significant. -/
def lsbVal (l : List Bool) : Nat := l.foldr (fun b a => 2 * a + b2n b) 0

/-- The number that bits form, the first the most significant. -/
def msbVal (l : List Bool) : Nat := l.foldl (fun a b => 2 * a + b2n b) 0

/-- The bits of a stream that is read from its end: after the topmost one of the last byte, downwards. -/
def backBits (l : List Byte) : Option (List Bool) :=
  match l.reverse with
  | [] => none
  | b :: _ => if b = 0 then none else some (((lsbBits l).reverse.dropWhile (!·)).drop 1)

/-- Take n bits, the first the most significant. -/
def takeBits (n : Nat) (s : List Bool) : Option (Nat × List Bool) :=
  if s.length < n then none else some (msbVal (s.take n), s.drop n)

/-! FSE tables. -/

/-- An FSE table: its accuracy, and by state the symbol, the bits to read next and the base they add to. -/
structure Fse where
  log : Nat
  rows : List (Nat × Nat × Nat)

/-- The row of a state. -/
def Fse.row (t : Fse) (s : Nat) : Nat × Nat × Nat := t.rows.getD s (0, 0, 0)

/-- The zero probabilities that repeat flags give. -/
def fseZeros : Nat → List Bool → Nat → Nat × List Bool
  | 0, s, n => (n, s)
  | fuel + 1, s, n =>
    let r := lsbVal (s.take 2)
    if r = 3 then fseZeros fuel (s.drop 2) (n + 3) else (n + r, s.drop 2)

/-- The probabilities of a table description, −1 for "less than 1", and the bits after them. `left` is what remains of
2^accuracy. -/
def fseCounts : Nat → Nat → List Int → List Bool → Option (List Int × List Bool)
  | 0, _, _, _ => none
  | fuel + 1, left, acc, s =>
    if left = 0 then some (acc, s)
    else
      let n := (left + 1).log2 + 1
      let v := lsbVal (s.take n)
      let short := 2 ^ n - 1 - (left + 1)
      let low := v % 2 ^ (n - 1)
      if s.length < n then none
      else
        let value := if low < short then low else if 2 ^ (n - 1) ≤ v then v - short else v
        let s := s.drop (if low < short then n - 1 else n)
        let p : Int := (value : Int) - 1
        if left < p.natAbs then none
        else if p = 0 then
          (let z := fseZeros 128 s 0
           fseCounts fuel left (acc ++ 0 :: List.replicate z.1 0) z.2)
        else fseCounts fuel (left - p.natAbs) (acc ++ [p]) s

/-- The table of probabilities. -/
def fseTable (log : Nat) (probs : List Int) : Fse :=
  let size := 2 ^ log
  let low := (List.range probs.length).filter (fun s => probs.getD s 0 == -1)
  let high := size - low.length
  let step := size / 2 + size / 8 + 3
  let places := ((List.range size).map (fun i => i * step % size)).filter (fun i => decide (i < high))
  let spread := probs.zipIdx.flatMap (fun p => List.replicate p.1.toNat p.2)
  let syms := (List.range size).map fun i =>
    if i < high then spread.getD (places.idxOf i) 0 else low.getD (size - 1 - i) 0
  ⟨log, syms.zipIdx.map fun p =>
    let next := (probs.getD p.1 0).natAbs + (syms.take p.2).count p.1
    let n := log - next.log2
    (p.1, n, next * 2 ^ n - size)⟩

/-- A table from its description at the front of bytes, with the bytes after it; at most `most` symbols and an
accuracy of at most `limit`. -/
def fseRead (limit most : Nat) (b : List Byte) : Option (Fse × List Byte) :=
  let s := lsbBits b
  let log := lsbVal (s.take 4) + 5
  if s.length < 4 ∨ limit < log then none
  else match fseCounts (most + 1) (2 ^ log) [] (s.drop 4) with
    | some (probs, rest) =>
      if most < probs.length then none else some (fseTable log probs, b.drop (b.length - rest.length / 8))
    | none => none

/-! Huffman codes. -/

/-- A Huffman code: the most bits, and by the next `most` bits the symbol and the bits it takes. -/
structure Huff where
  most : Nat
  rows : List (Nat × Nat)

/-- The weights that two interleaved FSE states give until the bits run out. -/
def huffWeights (t : Fse) : Nat → Nat → Nat → List Bool → List Nat
  | 0, _, _, _ => []
  | fuel + 1, a, b, s =>
    let r := t.row a
    if s.length < r.2.1 then [r.1, (t.row b).1]
    else r.1 :: huffWeights t fuel b (r.2.2 + msbVal (s.take r.2.1)) (s.drop r.2.1)

/-- The code of all weights but the last, which they determine. -/
def huffOf (w : List Nat) : Option Huff :=
  let total := (w.map (fun x => if x = 0 then 0 else 2 ^ (x - 1))).sum
  let most := total.log2 + 1
  let left := 2 ^ most - total
  if total = 0 ∨ 11 < most ∨ left ≠ 2 ^ left.log2 ∨ 255 < w.length then none
  else
    let all := w ++ [left.log2 + 1]
    some ⟨most, (List.range most).flatMap fun i =>
      all.zipIdx.flatMap (fun p => if p.1 = i + 1 then List.replicate (2 ^ i) (p.2, most - i) else [])⟩

/-- A code from its description at the front of bytes, with the bytes after it. -/
def huffRead (b : List Byte) : Option (Huff × List Byte) :=
  match b with
  | [] => none
  | h :: t =>
    let n := h.toNat
    if 128 ≤ n then
      let k := n - 127
      let m := ceilDiv k 2
      if t.length < m then none
      else
        let w := ((t.take m).flatMap (fun x => [x.toNat / 16, x.toNat % 16])).take k
        (huffOf w).map (fun c => (c, t.drop m))
    else if t.length < n then none
    else match fseRead 6 256 (t.take n) with
      | none => none
      | some (f, r) =>
        match (backBits r).bind (takeBits f.log) with
        | none => none
        | some (a, s) =>
          match takeBits f.log s with
          | none => none
          | some (b', s) => (huffOf (huffWeights f 254 a b' s)).map (fun c => (c, t.drop n))

/-- n literals of a stream that they exhaust. -/
def huffLits (c : Huff) : Nat → List Bool → Option (List Byte)
  | 0, s => if s.isEmpty then some [] else none
  | n + 1, s =>
    let top := s.take c.most
    let r := c.rows.getD (msbVal top * 2 ^ (c.most - top.length)) (0, 0)
    if s.length < r.2 then none else (huffLits c n (s.drop r.2)).map (BitVec.ofNat 8 r.1 :: ·)

/-- n literals of the bytes of one stream. -/
def huffStream (c : Huff) (n : Nat) (b : List Byte) : Option (List Byte) := (backBits b).bind (huffLits c n)

/-! Frames. -/

/-- What a frame keeps from block to block: its window, its content size if given, whether a checksum follows, the
codes of the last blocks, the repeat offsets, and its output, newest byte first. -/
structure ZFrame where
  window : Nat
  size : Option Nat
  check : Bool
  huff : Option Huff
  ll : Option Fse
  off : Option Fse
  ml : Option Fse
  reps : Nat × Nat × Nat
  out : List Byte

/-- The largest block of a frame. -/
def ZFrame.blockMax (f : ZFrame) : Nat := min f.window 131072

/-- The literals of a block, the code in force after them, and the bytes after them. -/
def zLiterals (f : ZFrame) (b : List Byte) : Option (List Byte × Option Huff × List Byte) :=
  let h := leNat (b.take 5)
  let kind := h % 4
  let form := h / 4 % 4
  if b.isEmpty then none
  else if kind < 2 then
    let k := if form % 2 = 0 then 1 else if form = 1 then 2 else 3
    let n := h % 2 ^ (8 * k) / (if form % 2 = 0 then 8 else 16)
    let t := b.drop k
    let used := if kind = 0 then n else 1
    if b.length < k + used ∨ f.blockMax < n then none
    else some (if kind = 0 then t.take n else List.replicate n (t.headD 0), f.huff, t.drop used)
  else
    let k := if form < 2 then 3 else form + 2
    let w := if form < 2 then 10 else if form = 2 then 14 else 18
    let n := bits h (w + 3) 4
    let m := bits h (2 * w + 3) (w + 4)
    if b.length < k + m ∨ f.blockMax < n then none
    else
      let t := slice b k m
      match (if kind = 2 then huffRead t else f.huff.map (fun c => (c, t))) with
      | none => none
      | some (c, t) =>
        let done := fun (l : List Byte) => (l, some c, b.drop (k + m))
        if form = 0 then (huffStream c n t).map done
        else
          let q := ceilDiv n 4
          let s1 := field t 0 2
          let s2 := field t 2 2
          let s3 := field t 4 2
          if t.length < 6 + s1 + s2 + s3 ∨ n < 3 * q then none
          else
            match huffStream c q (slice t 6 s1), huffStream c q (slice t (6 + s1) s2),
              huffStream c q (slice t (6 + s1 + s2) s3), huffStream c (n - 3 * q) (t.drop (6 + s1 + s2 + s3)) with
            | some x1, some x2, some x3, some x4 => some (done (x1 ++ x2 ++ x3 ++ x4))
            | _, _, _, _ => none

/-- The extra bits of the literal-length codes. -/
def llBits : List Nat := List.replicate 16 0 ++ [1, 1, 1, 1, 2, 2, 3, 3, 4, 6, 7, 8, 9, 10, 11, 12, 13, 14, 15, 16]

/-- The extra bits of the match-length codes. -/
def mlBits : List Nat :=
  List.replicate 32 0 ++ [1, 1, 1, 1, 2, 2, 3, 3, 4, 4, 5, 7, 8, 9, 10, 11, 12, 13, 14, 15, 16]

/-- The base value of a code: what the codes below it span. -/
def codeBase (extra : List Nat) (c : Nat) : Nat := ((extra.take c).map (2 ^ ·)).sum

/-- The predefined tables of literal lengths, offsets and match lengths. -/
def llDefault : Fse :=
  fseTable 6 ([4, 3] ++ List.replicate 11 2 ++ [1, 1, 1] ++ List.replicate 9 2 ++ [3, 2] ++ List.replicate 5 1 ++
    List.replicate 4 (-1))

@[inherit_doc llDefault] def offDefault : Fse :=
  fseTable 5 (List.replicate 6 1 ++ [2, 2, 2] ++ List.replicate 15 1 ++ List.replicate 5 (-1))

@[inherit_doc llDefault] def mlDefault : Fse :=
  fseTable 6 ([1, 4, 3] ++ List.replicate 6 2 ++ List.replicate 37 1 ++ List.replicate 7 (-1))

/-- The table of one kind of symbol by its mode, and the bytes after its description. -/
def zTable (mode limit most : Nat) (dflt : Fse) (last : Option Fse) (b : List Byte) : Option (Fse × List Byte) :=
  match mode with
  | 0 => some (dflt, b)
  | 1 => match b with
    | x :: t => if most ≤ x.toNat then none else some (⟨0, [(x.toNat, 0, 0)]⟩, t)
    | [] => none
  | 2 => fseRead limit most b
  | _ => last.map (fun t => (t, b))

/-- The offset of a sequence and the repeat offsets after it. -/
def zOffset (reps : Nat × Nat × Nat) (value : Nat) (noLits : Bool) : Nat × Nat × Nat × Nat :=
  let (r1, r2, r3) := reps
  if 3 < value then (value - 3, value - 3, r1, r2)
  else match value - 1 + b2n noLits with
    | 0 => (r1, r1, r2, r3)
    | 1 => (r2, r2, r1, r3)
    | 2 => (r3, r3, r1, r2)
    | _ => (r1 - 1, r1 - 1, r1, r2)

/-- The output, newest byte first, after a copy of n bytes from an offset back. -/
def zCopy (off : Nat) : Nat → List Byte → List Byte
  | 0, o => o
  | n + 1, o => zCopy off n (o.getD (off - 1) 0 :: o)

/-- Run the sequences of a block: how many are left; the states of literal length, offset and match length; the bits;
the literals left. -/
def zSequences (ll off ml : Fse) :
    Nat → Nat × Nat × Nat → List Bool → List Byte → ZFrame → Option (List Byte × ZFrame)
  | 0, _, s, lits, f => if s.isEmpty then some (lits, f) else none
  | k + 1, st, s, lits, f =>
    let rl := ll.row st.1
    let ro := off.row st.2.1
    let rm := ml.row st.2.2
    match takeBits ro.1 s with
    | none => none
    | some (vo, s) =>
      match takeBits (mlBits.getD rm.1 0) s with
      | none => none
      | some (vm, s) =>
        match takeBits (llBits.getD rl.1 0) s with
        | none => none
        | some (vl, s) =>
          let nl := codeBase llBits rl.1 + vl
          let nm := 3 + codeBase mlBits rm.1 + vm
          let o := zOffset f.reps (2 ^ ro.1 + vo) (nl == 0)
          let out := (lits.take nl).reverse ++ f.out
          if lits.length < nl ∨ o.1 = 0 ∨ out.length < o.1 ∨ f.window < o.1 then none
          else
            let f := { f with reps := o.2, out := zCopy o.1 nm out }
            if k = 0 then zSequences ll off ml 0 st s (lits.drop nl) f
            else
              match takeBits rl.2.1 s with
              | none => none
              | some (xl, s) =>
                match takeBits rm.2.1 s with
                | none => none
                | some (xm, s) =>
                  match takeBits ro.2.1 s with
                  | none => none
                  | some (xo, s) =>
                    zSequences ll off ml k (rl.2.2 + xl, ro.2.2 + xo, rm.2.2 + xm) s (lits.drop nl) f

/-- The number of sequences at the front of bytes, and the bytes that tell it. -/
def seqCount (b : List Byte) : Nat × Nat :=
  let x := field b 0 1
  if x < 128 then (x, 1) else if x < 255 then ((x - 128) * 256 + field b 1 1, 2) else (field b 1 2 + 0x7F00, 3)

/-- A frame after a compressed block. -/
def zCompressed (f : ZFrame) (b : List Byte) : Option ZFrame :=
  match zLiterals f b with
  | none => none
  | some (lits, huff, b) =>
    let f := { f with huff := huff }
    let n := seqCount b
    if b.length < n.2 then none
    else if n.1 = 0 then (if b.length = n.2 then some { f with out := lits.reverse ++ f.out } else none)
    else
      let mode := field b n.2 1
      let b := b.drop (n.2 + 1)
      if mode % 4 ≠ 0 then none
      else match zTable (mode / 64) 9 36 llDefault f.ll b with
        | none => none
        | some (ll, b) =>
          match zTable (mode / 16 % 4) 8 32 offDefault f.off b with
          | none => none
          | some (off, b) =>
            match zTable (mode / 4 % 4) 9 53 mlDefault f.ml b with
            | none => none
            | some (ml, b) =>
              match (backBits b).bind (takeBits ll.log) with
              | none => none
              | some (sl, s) =>
                match takeBits off.log s with
                | none => none
                | some (so, s) =>
                  match takeBits ml.log s with
                  | none => none
                  | some (sm, s) =>
                    (zSequences ll off ml n.1 (sl, so, sm) s lits
                      { f with ll := some ll, off := some off, ml := some ml }).map
                      (fun r => { r.2 with out := r.1.reverse ++ r.2.out })

/-! The checksum: XXH64 with seed 0. -/

def xxP : List (BitVec 64) :=
  [0x9E3779B185EBCA87, 0xC2B2AE3D27D4EB4F, 0x165667B19E3779F9, 0x85EBCA77C2B2AE63, 0x27D4EB2F165667C5]

def xxPrime (i : Nat) : BitVec 64 := xxP.getD (i - 1) 0

def xxRound (a x : BitVec 64) : BitVec 64 := (a + x * xxPrime 2).rotateLeft 31 * xxPrime 1

def xxWord (l : List Byte) (o : Nat) : BitVec 64 := BitVec.ofNat 64 (field l o 8)

/-- The last steps over fewer than 32 bytes. -/
def xxTail : Nat → BitVec 64 → List Byte → BitVec 64
  | 0, h, _ => h
  | fuel + 1, h, l =>
    if 8 ≤ l.length then
      xxTail fuel ((h ^^^ xxRound 0 (xxWord l 0)).rotateLeft 27 * xxPrime 1 + xxPrime 4) (l.drop 8)
    else if 4 ≤ l.length then
      xxTail fuel ((h ^^^ BitVec.ofNat 64 (field l 0 4) * xxPrime 1).rotateLeft 23 * xxPrime 2 + xxPrime 3) (l.drop 4)
    else match l with
      | x :: t => xxTail fuel ((h ^^^ x.setWidth 64 * xxPrime 5).rotateLeft 11 * xxPrime 1) t
      | [] => h

/-- The hash of bytes. -/
def xxHash (l : List Byte) : BitVec 64 :=
  let n := l.length / 32
  let v := (List.range n).foldl (fun (v : List (BitVec 64)) i =>
    v.zipIdx.map (fun p => xxRound p.1 (xxWord l (32 * i + 8 * p.2)))) [xxPrime 1 + xxPrime 2, xxPrime 2, 0, 0 - xxPrime 1]
  let start := if n = 0 then xxPrime 5 else
    (v.foldl (fun h x => (h ^^^ xxRound 0 x) * xxPrime 1 + xxPrime 4)
      ((v.getD 0 0).rotateLeft 1 + (v.getD 1 0).rotateLeft 7 + (v.getD 2 0).rotateLeft 12 + (v.getD 3 0).rotateLeft 18))
  let h := xxTail 32 (start + BitVec.ofNat 64 l.length) (l.drop (32 * n))
  let h := (h ^^^ (h >>> 33)) * xxPrime 2
  let h := (h ^^^ (h >>> 29)) * xxPrime 3
  h ^^^ (h >>> 32)

/-! Streams. -/

/-- Where a stream stands: before a frame, before a block of a frame, or before a frame's checksum. -/
inductive ZState where
  | between
  | block (f : ZFrame)
  | sum (f : ZFrame)

/-- One part of a stream: incomplete as yet, a breach, or a part of `len` bytes that puts out bytes. -/
inductive ZPart where
  | more
  | bad
  | part (len : Nat) (out : List Byte) (next : ZState)

/-- A frame has put out all its blocks: its content size must agree (R385). -/
def zFrameEnd (f : ZFrame) (len : Nat) (out : List Byte) : ZPart :=
  if (match f.size with | some n => n != f.out.length | none => false) then .bad
  else .part len out (if f.check then .sum f else .between)

/-- A frame header, or a skippable frame, at the front of bytes; a window above 2^log is a breach (R385). -/
def zHeader (log : Nat) (b : List Byte) : ZPart :=
  if b.length < 4 then .more
  else if field b 0 4 / 16 = 0x184D2A5 then
    (if b.length < 8 ∨ b.length < 8 + field b 4 4 then .more else .part (8 + field b 4 4) [] .between)
  else if field b 0 4 ≠ 0xFD2FB528 then .bad
  else if b.length < 5 then .more
  else
    let d := field b 4 1
    let single := bit d 5
    let nWin := if single then 0 else 1
    let nDict := at4 d
    let nSize := match d / 64 with | 0 => b2n single | 1 => 2 | 2 => 4 | _ => 8
    let o := 5 + nWin + nDict
    if b.length < o + nSize then .more
    else
      let w := field b 5 1
      let v := field b o nSize
      let size := if nSize = 0 then none else some (if nSize = 2 then v + 256 else v)
      let base := 2 ^ (10 + w / 8)
      let window := if single then v + (if nSize = 2 then 256 else 0) else base + base / 8 * (w % 8)
      if bit d 3 ∨ field b (5 + nWin) nDict ≠ 0 ∨ 2 ^ log < window then .bad
      else .part (o + nSize) [] (.block ⟨window, size, bit d 2, none, none, none, none, (1, 4, 8), []⟩)
where
  /-- The bytes of the dictionary identifier. -/
  at4 (d : Nat) : Nat := match d % 4 with | 0 => 0 | 1 => 1 | 2 => 2 | _ => 4

/-- A block at the front of bytes. -/
def zBlock (f : ZFrame) (b : List Byte) : ZPart :=
  let h := field b 0 3
  let n := h / 8
  let kind := h / 2 % 4
  let used := if kind = 1 then 1 else n
  if b.length < 3 then .more
  else if kind = 3 ∨ f.blockMax < n then .bad
  else if b.length < 3 + used then .more
  else
    let body := slice b 3 used
    let r := if kind = 0 then some { f with out := body.reverse ++ f.out }
      else if kind = 1 then some { f with out := List.replicate n (body.headD 0) ++ f.out }
      else zCompressed f body
    match r with
    | none => .bad
    | some g =>
      let k := g.out.length - f.out.length
      if f.blockMax < k then .bad
      else
        let out := (g.out.take k).reverse
        if h % 2 = 1 then zFrameEnd g (3 + used) out else .part (3 + used) out (.block g)

/-- The next part of a stream. -/
def zPart (log : Nat) (s : ZState) (b : List Byte) : ZPart :=
  match s with
  | .between => zHeader log b
  | .block f => zBlock f b
  | .sum f =>
    if b.length < 4 then .more
    else if field b 0 4 = (xxHash f.out.reverse).toNat % 2 ^ 32 then .part 4 [] .between else .bad

/-- The outputs of a stream's parts, each with the place where it ends, and whether the stream ends at a frame end. -/
def zStream (log : Nat) : Nat → ZState → Nat → List Byte → Option (List (Nat × List Byte) × Bool)
  | 0, _, _, _ => none
  | fuel + 1, s, pos, b =>
    match b, s with
    | [], .between => some ([], true)
    | _, _ =>
      match zPart log s b with
      | .more => some ([], false)
      | .bad => none
      | .part n out next =>
        (zStream log fuel next (pos + n) (b.drop n)).map (fun r => ((pos + n, out) :: r.1, r.2))

/-- The output of the last chunk of an entry whose chunks' plaintexts so far are given: the bytes of every block whose
last byte lies in its plaintext (R385, R386); none: a breach. `last`: the entry's stream must end here, at a frame
end. -/
def zstdOutput (windowLog : Nat) (plain : List (List Byte)) (last : Bool) : Option (List Byte) :=
  let before := plain.dropLast.flatten.length
  let b := plain.flatten
  match zStream windowLog (b.length + 1) .between 0 b with
  | none => none
  | some (parts, atEnd) =>
    if last && !atEnd then none
    else some ((parts.filter (fun p => decide (before < p.1))).flatMap (·.2))

end Sys2Proof.Machine
end

