-- ==== Sys2Proof/Machine/Streamer.lean ====
section
/-!
DEFINITION. The asset streamer (R379 to R392, R398 to R400): manifests, jobs and lanes.
-/
namespace Sys2Proof.Machine

/-- The chunk a Read is part of (none: the manifest) and its byte offset there. -/
def ReadUse.place : ReadUse → Option Nat × Nat
  | .manifest o => (none, o)
  | .chunk c o => (some c, o)

/-- MANIFEST_LEN in range (R379). -/
def manifestRange (n : Nat) : Bool := decide (256 ≤ n ∧ n ≤ 254144)

/-- MANIFEST_LEN as R379 computes it. -/
def manifestLen (entries chunks : Nat) : Nat := 128 + 32 * entries + 32 * chunks + 64

def parseEntry (r : List Byte) : Entry :=
  ⟨field r 0 1, bit (field r 1 1) 0, field r 2 1, field r 4 4, field r 8 4, field r 12 4, field r 16 4⟩

def parseChunk (r : List Byte) : Chunk := ⟨field r 0 4, field r 4 4, field r 8 4, slice r 16 16, slice r 0 16⟩

/-- The header breaks R379. -/
def badManifestHeader (b : List Byte) : Bool :=
  field b 0 4 != 0x42514541 || field b 4 1 != 1 || field b 5 1 != 0 || field b 6 2 != 128 ||
  !decide (1 ≤ field b 0x0E 2 ∧ field b 0x0E 2 ≤ 256) || !decide (1 ≤ field b 0x10 4 ∧ field b 0x10 4 ≤ 7680) ||
  field b 0x14 4 % 4096 != 0 || decide (field b 0x14 4 < field b 8 4) || notZero b 0x50 48

/-- An entry record breaks R380, given the chunk at which it must start, how many chunks the manifest has, is it the
last entry, and the sum of its chunks' OUT_LEN. -/
def badEntry (r : List Byte) (start total : Nat) (last : Bool) (sum : Nat) : Bool :=
  let e := parseEntry r
  decide (3 < e.dest) || decide (1 < field r 1 1) ||
  (if e.compressed then !decide (10 ≤ e.windowLog ∧ e.windowLog ≤ 23) else e.windowLog != 0) ||
  notZero r 3 1 || e.first != start || e.span == 0 || decide (total < start + e.span) ||
  (last && start + e.span != total) || e.outLen != sum || notZero r 20 12

/-- A chunk record breaks R381; `stored`: its entry is not compressed; `next`: the record after it. -/
def badChunk (r : List Byte) (stored : Bool) (next : Option Chunk) : Bool :=
  let c := parseChunk r
  !decide (1 ≤ c.ctLen ∧ c.ctLen ≤ 65536) || decide (131072 < c.outLen) || (stored && c.outLen != c.ctLen) ||
  notZero r 12 4 ||
  (match next with
   | some n => decide (n.off4k * 4096 < c.off4k * 4096 + c.ctLen)
   | none => false)

/-- The 32-byte record at an offset, if the bytes read hold it. -/
def recordAt (b : List Byte) (o : Nat) : Option (List Byte) := if o + 32 ≤ b.length then some (slice b o 32) else none

/-- Some entry record breaks R380. -/
def badEntries (b : List Byte) (n m : Nat) : Bool :=
  ((List.range n).foldl (fun (s : Nat × Bool) i =>
    match recordAt b (128 + 32 * i) with
    | none => s
    | some r =>
      let e := parseEntry r
      let known := decide (128 + 32 * n + 32 * (e.first + e.span) ≤ b.length)
      let sum := ((List.range (min e.span 7680)).map (fun k => field b (128 + 32 * n + 32 * (e.first + k) + 8) 4)).sum
      (s.1 + e.span, s.2 || badEntry r s.1 m (i + 1 == n) (if known then sum else e.outLen))) (0, false)).2

/-- Some chunk record breaks R381. -/
def badChunks (b : List Byte) (n m : Nat) : Bool :=
  let entries := (List.range n).filterMap (fun i => (recordAt b (128 + 32 * i)).map parseEntry)
  (List.range m).any (fun c =>
    match recordAt b (128 + 32 * n + 32 * c) with
    | none => false
    | some r =>
      let stored := entries.any (fun e => decide (e.first ≤ c ∧ c < e.first + e.span) && !e.compressed)
      let next := if c + 1 < m then (recordAt b (128 + 32 * n + 32 * (c + 1))).map parseChunk else none
      badChunk r stored next)

/-- FORMAT of R388: the header, then the records that the bytes read hold. -/
def badManifest (b : List Byte) : Bool :=
  badManifestHeader b ||
    (let n := field b 0x0E 2
     let m := field b 0x10 4
     badEntries b n m || badChunks b n m)

/-- Does the write belong to a lane, and to a chunk of its job if one is named? -/
def ofLane (l : Nat) (chunk : Option Nat) : Purpose → Bool
  | .asWrite l' j c => l' == l && decide (j < 8) && (match chunk with | some k => k == c | none => true)
  | _ => false

/-- What a write of a lane becomes when its job has ended: job j + 8, whose bytes it still counts for (R405), its
chunk number set apart. -/
def detach (l : Nat) : Purpose → Purpose
  | .asWrite l' j c => if l' = l ∧ j < 8 then .asWrite l' (j + 8) (c + 0x10000) else .asWrite l' j c
  | p => p

/-- What a write of an ended job k becomes when a GO starts the job anew: it counts for no job. -/
def disown (k : Nat) : Purpose → Purpose
  | .asWrite l j c => .asWrite l (if j = k + 8 then 16 else j) c
  | p => p

namespace Dev

def lane (d : Dev) (l : Nat) : LaneSt := at' d.streamer.lanes l .reset

def updLane (d : Dev) (l : Nat) (f : LaneSt → LaneSt) : Dev :=
  { d with streamer := { d.streamer with lanes := upd d.streamer.lanes l f } }

def asEvent (d : Dev) (b : Nat) : Dev := d.event R.AS_STATUS [b]

/-- LANE_BUSY (R404). -/
def showLanes (d : Dev) : Dev :=
  d.setFld R.AS_STATUS_LANE_BUSY
    ((List.range 4).foldl (fun a l => a + b2n ((d.lane l).job.isSome || (d.lane l).zeroing) * 2 ^ l) 0)

/-- RESULT.STATE of a job (R405). -/
def jobState (d : Dev) (k : Nat) : Nat := d.fld (R.AS_JOB_RESULT_STATE k)

/-- Does a lane (or one chunk of its job) have writes that have not completed? -/
def laneWrites (d : Dev) (l : Nat) (chunk : Option Nat) : Bool :=
  d.fs.inflight.any (fun t => ofLane l chunk t.req.purpose) || d.fs.waiting.any (fun r => ofLane l chunk r.purpose)

/-- Change the purposes of the requests under way. -/
def repurpose (d : Dev) (f : Purpose → Purpose) : Dev :=
  let req := fun (r : Request) => { r with purpose := f r.purpose }
  { d with fs := { d.fs with
    inflight := d.fs.inflight.map (fun t => { t with req := req t.req }), waiting := d.fs.waiting.map req } }

/-- Part the writes and Reads of a lane from its job. -/
def detachLane (d : Dev) (l : Nat) : Dev :=
  let cmd := fun (c : CpCommand) => if c.lane = l then { c with job := 8 } else c
  let d := d.repurpose (detach l)
  { d with cp := d.cp.map (fun s => { s with reads := s.reads.map cmd }) }

/-- Does a chunk of lane l have writes that no stack has granted yet? -/
def ungranted (d : Dev) (l chunk : Nat) : Bool :=
  let mine := fun (p : Purpose) => match p with | .asWrite l' _ c => l' == l && c == chunk | _ => false
  d.fs.inflight.any (fun t => t.got.isNone && mine t.req.purpose) || d.fs.waiting.any (fun r => mine r.purpose)

/-- A chunk owes for as long as it is in decode or has writes to be granted: with its last write, or once it can write
no more, the rest goes (R398). -/
def settleOwed (d : Dev) (l : Nat) : Dev :=
  d.updLane l (fun s => { s with owed := s.owed.filter (fun o => s.decoding == some o.1 || d.ungranted l o.1) })

/-- A job's result: its state and code, the counts and the event bits (R387). -/
def jobResult (d : Dev) (k state code : Nat) : Dev :=
  let d := d.setFlds [(R.AS_JOB_RESULT_STATE k, state), (R.AS_JOB_RESULT_CODE k, code)]
  let sat : Fld := ⟨R.AS_STATUS, 3, 3⟩
  if state = 5 then
    d.count R.AS_JOBS_OK_COUNT 1 sat (if d.flag (R.AS_JOB_CTRL_IRQ k) then [⟨R.AS_STATUS, 0, 0⟩] else [])
  else d.count R.AS_JOBS_ERR_COUNT 1 sat [⟨R.AS_STATUS, 1, 1⟩]

/-- What a lane keeps while it zeroes its buffers: the bytes that its writes still owe (R398). -/
def zeroedLane (s : LaneSt) : LaneSt :=
  { LaneSt.reset with
    zeroing := true
    owed := s.owed.map (fun o => if o.1 < 0x10000 then (o.1 + 0x10000, o.2) else o) }

/-- The job of a lane ends; the lane zeroes its buffers (R387, R389). -/
def jobEnd (d : Dev) (l state code : Nat) : Dev :=
  match (d.lane l).job with
  | none => d
  | some k => ((((d.jobResult k state code).detachLane l).updLane l zeroedLane).settleOwed l).showLanes

/-- AS_JOB_GO (R387). -/
def asGo (d : Dev) (k : Nat) : Dev :=
  if d.configured && (d.jobState k == 0 || d.jobState k == 5 || d.jobState k == 6) then
    let d := d.repurpose (disown k)
    let d := { d with streamer := { d.streamer with queue := d.streamer.queue ++ [k] } }
    d.setFlds [(R.AS_JOB_RESULT_STATE k, 1), (R.AS_JOB_RESULT_CODE k, 0), (R.AS_JOB_OUT_BYTES_COUNT k, 0),
      (R.AS_JOB_PROGRESS_ENTRY k, 0), (R.AS_JOB_PROGRESS_CHUNK k, 0)]
  else d.asEvent 2

/-- The lane that runs a job. -/
def laneOf (d : Dev) (k : Nat) : Option Nat := (List.range 4).find? (fun l => (d.lane l).job == some k)

/-- Is the last write of a job's last chunk complete? -/
def drained (d : Dev) (l : Nat) : Bool :=
  match (d.lane l).job with
  | some k => d.jobState k == 4 && (d.lane l).ending.isNone && !d.laneWrites l none
  | none => false

/-- AS_JOB_ABORT (R400). -/
def asAbort (d : Dev) (k : Nat) : Dev :=
  if d.streamer.queue.contains k then
    ({ d with streamer := { d.streamer with queue := d.streamer.queue.erase k } }).jobResult k 6 0x24
  else match d.laneOf k with
    | none => d
    | some l =>
      if d.drained l then d
      else (d.updLane l (fun s => { s with ending := some (s.ending.getD 0x24), decoding := none })).settleOwed l

/-- GO and ABORT of one job in one write (R400): ABORT applies first. It ends a job that runs at once, since the GO
then queues the job; the writes that the stacks have still finish (DEDUCED, log entry 94). -/
def asAbortGo (d : Dev) (k : Nat) : Dev :=
  let d := d.asAbort k
  let d := match d.laneOf k with
    | some l => if d.drained l then d.jobEnd l 5 0 else d.jobEnd l 6 0x24
    | none => d
  d.asGo k

/-! Reads. -/

/-- Bytes of a chunk (none: the manifest) that have been asked for in a lane. -/
def issued (d : Dev) (l : Nat) (c : Option Nat) : Nat :=
  let s := d.lane l
  let here := match c with
    | none => (s.bytes.map (·.2.length)).sum
    | some k => ((s.data.filter (·.1 == k)).map (·.2.2.length)).sum
  let shift := d.fld (R.CP_INFO_LBA_SHIFT s.port)
  here + (((d.cpOf s.port).reads.filter (fun r => r.lane == l && decide (r.job < 8) && r.purpose.place.1 == c)).map
    (fun r => r.blocks <<< shift)).sum

/-- The manifest bytes in order. -/
def manifestBytes (d : Dev) (l : Nat) : List Byte :=
  let parts := (d.lane l).bytes
  (parts.mergeSort (fun a b => decide (a.1 ≤ b.1))).flatMap (·.2)

/-- Manifest bytes that the lane needs: the first 4 KiB, then all of MANIFEST_LEN (R388). -/
def manifestNeed (d : Dev) (l : Nat) : Nat :=
  match (d.lane l).bytes.find? (·.1 == 0) with
  | none => 4096
  | some p => let n := field p.2 8 4; if manifestRange n then max 4096 n else 4096

/-- What a lane reads next: its use, the byte offset in the bundle, the bytes. -/
def nextRead (d : Dev) (l : Nat) : Option (ReadUse × Nat × Nat) :=
  let s := d.lane l
  match s.job, s.ending, s.manifest with
  | some _, none, none =>
    let got := d.issued l none
    if got = 0 then some (.manifest 0, 0, 4096)
    else if s.bytes.any (·.1 == 0) && decide (got < d.manifestNeed l) then
      some (.manifest got, got, d.manifestNeed l - got)
    else none
  | some _, none, some m =>
    match m.chunks[s.nextRead]? with
    | none => none
    | some c =>
      let got := d.issued l (some s.nextRead)
      some (.chunk s.nextRead got, m.dataOff + c.off4k * 4096 + got, c.ctLen - got)
  | _, _, _ => none

/-- Bytes of a port's 2 MiB staging buffer in use (R376): Reads outstanding, and bytes no lane has reaped. -/
def staged (d : Dev) (n : Nat) : Nat :=
  let shift := d.fld (R.CP_INFO_LBA_SHIFT n)
  ((d.cpOf n).reads.map (fun r => r.blocks <<< shift)).sum +
    ((d.streamer.lanes.toList.filter (·.port == n)).map (fun s => (s.data.map (·.2.2.length)).sum)).sum

/-- The entry of a chunk and its number. -/
def entryOf (m : Manifest) (c : Nat) : Option (Nat × Entry) :=
  (m.entries.zipIdx.find? (fun e => decide (e.1.first ≤ c ∧ c < e.1.first + e.1.span))).map (fun e => (e.2, e.1))

/-- PROGRESS of lane l's job names a chunk and its entry (R391, R405). -/
def showProgress (d : Dev) (l c : Nat) : Dev :=
  match (d.lane l).job, (d.lane l).manifest with
  | some k, some m =>
    d.setFlds [(R.AS_JOB_PROGRESS_ENTRY k, ((entryOf m c).map (·.1)).getD 0), (R.AS_JOB_PROGRESS_CHUNK k, c)]
  | _, _ => d

/-- PROGRESS names the chunk of a Read that failed; a Read of the manifest leaves it as it is (R391). -/
def showFailed (d : Dev) (l : Nat) (u : ReadUse) : Dev :=
  match u.place.1 with
  | some c => d.showProgress l c
  | none => d

/-- Issue Reads for a lane while its port takes them; a read past the namespace ends the job (RANGE of R388). -/
def pumpLane (d : Dev) (l : Nat) : Nat → Dev
  | 0 => d
  | fuel + 1 =>
    match d.nextRead l, (d.lane l).job with
    | some (use', start, len), some k =>
      let p := (d.lane l).port
      let shift := d.fld (R.CP_INFO_LBA_SHIFT p)
      let blocks := min (ceilDiv len (2 ^ shift)) (max 1 (d.cpMaxBlocks p))
      let lba := (d.lane l).lba + start >>> shift
      if d.cpState p ≠ 3 ∨ d.isSafe (Block.CP.base + p) ∨ d.cpRoom p = 0 ∨ 2097152 < d.staged p + blocks <<< shift then d
      else if d.get64 (R.CP_NSZE p 0) (R.CP_NSZE p 1) < lba + blocks then (d.showFailed l use').jobEnd l 6 4
      else
        let d := d.cpRead p l k lba blocks use'
        let d := match use'.place.1 with
          | some c => if len ≤ blocks <<< shift then d.updLane l (fun s => { s with nextRead := c + 1 }) else d
          | none => d
        pumpLane d l fuel
    | _, _ => d

/-- Issue Reads for every lane (R376, R388). -/
def asPump (d : Dev) : Dev := (List.range 4).foldl (fun d l => d.pumpLane l 64) d

/-- AS_JOB_START: the oldest queued job takes the lowest free lane and reads its manifest (R387, R388). -/
def asStart (d : Dev) : Dev :=
  match d.streamer.queue, (List.range 4).find? (fun l => (d.lane l).job.isNone && !(d.lane l).zeroing) with
  | k :: rest, some l =>
    let p := d.fld (R.AS_JOB_CTRL_PORT k)
    let lba := d.fld (R.AS_JOB_LBA_LO_LBA k) + d.fld (R.AS_JOB_LBA_HI_LBA k) * 2 ^ 32
    let d := { d with streamer := { d.streamer with queue := rest } }
    let d := d.updLane l (fun s => { LaneSt.reset with job := some k, port := p, lba := lba, owed := s.owed })
    let d := (d.setFlds [(R.AS_JOB_RESULT_STATE k, 2), (R.AS_JOB_RESULT_LANE k, l)]).showLanes
    if d.isSafe Block.AS.base then d.jobEnd l 6 0x25
    else if d.cpState p ≠ 3 ∨ d.isSafe (Block.CP.base + p) then d.jobEnd l 6 1
    else d.asPump
  | _, _ => d

/-- A Read of a port has completed, well or not (R378, R392). -/
def asReadDone (d : Dev) (n : Nat) (c : CpCommand) (ok : Bool) (bytes : List Byte) : Dev :=
  if 8 ≤ c.job then d.asPump
  else if ok then
    let len := c.blocks <<< d.fld (R.CP_INFO_LBA_SHIFT n)
    let b := bytes.take len ++ List.replicate (len - bytes.length) 0
    (match c.purpose with
      | .manifest o => d.updLane c.lane (fun s => { s with bytes := s.bytes ++ [(o, b)] })
      | .chunk k o => d.updLane c.lane (fun s => { s with data := s.data ++ [(k, o, b)] })).asPump
  else if (d.lane c.lane).ending.isSome then d.asPump
  else ((d.showFailed c.lane c.purpose).updLane c.lane (fun s => { s with ending := some 2 })).asPump

/-- The jobs of a port end with PORT or TIMEOUT (R378, R388): the lanes on it reap no further chunk. -/
def asPortLost (d : Dev) (n code : Nat) : Dev :=
  (List.range 4).foldl (fun d l =>
    if (d.lane l).job.isSome ∧ (d.lane l).port = n then
      d.updLane l (fun s => { s with ending := some (s.ending.getD code) }) else d) d

/-! The checks of a manifest (R388). -/

/-- The KY slot, by its bit in KY_SLOT_PROG, of the key that wraps a bundle's key (R383). -/
def wrapSlot (d : Dev) (owner : Nat) : Nat :=
  if owner = 0 then 8 else match d.fp.owner owner with | some o => 8 + o.keySlot | none => 8

/-- The bundle key (R383); none: UNWRAP. A KY in its parity safe state gives no key of an owner (R149). -/
def bundleKey (d : Dev) (owner : Nat) (wrapped : List Byte) : Option (List Byte) :=
  let k := d.wrapSlot owner
  if !slotUsable d.shadow.programmed d.shadow.revoked k || (owner != 0 && d.isSafe Block.KY.base) then none
  else unwrapKey (d.shadow.page k) wrapped

/-- The first code of an entry that fails (BIND to RELOAD), or the entry with its place in the frame store. -/
def bindEntry (d : Dev) (k owner : Nat) (e : Entry) : Except Nat Entry :=
  if !d.flag (R.AS_JOB_DESTd_CLR_VALID k e.dest) then .error 0x18
  else match d.clearings.find? (·.number == d.fld (R.AS_JOB_DESTd_CLR_CLEARING k e.dest)) with
    | none => .error 0x18
    | some c =>
      let off := d.fld (R.AS_JOB_DESTd_OFF_OFF k e.dest)
      if !d.permits (.as (Fin.ofNat 16 owner)) true c || (owner != 0 && !c.isProtected) then .error 0x19
      else if c.size < off + e.outOff + e.outLen then .error 0x1A
      else if d.underReload c then .error 0x1B
      else .ok { e with dest := c.number, outOff := c.base + off + e.outOff }

/-- Every entry bound, or the code and the entry of the first failure. -/
def bindAll (d : Dev) (k owner : Nat) : Nat → List Entry → Except (Nat × Nat) (List Entry)
  | _, [] => .ok []
  | i, e :: t =>
    match d.bindEntry k owner e with
    | .error c => .error (c, i)
    | .ok e' => match bindAll d k owner (i + 1) t with
      | .error c => .error c
      | .ok t' => .ok (e' :: t')

/-- The checks of R388 in the order of its table; an error names the entry that failed. -/
def checkManifest (d : Dev) (k : Nat) (b : List Byte) : Except (Nat × Nat) Manifest :=
  let n := field b 0x0E 2
  let m := field b 0x10 4
  let len := field b 8 4
  let signer := field b 0x0C 1
  let owner := field b 0x0D 1
  if badManifest b then .error (0x10, 0)
  else if !manifestRange len || len != manifestLen n m then .error (0x11, 0)
  else if !decide (4 ≤ signer ∧ signer ≤ 7) || !slotUsable d.shadow.programmed d.shadow.revoked signer then
    .error (0x12, 0)
  else if !signatureOk (d.shadow.page signer) (slice b 0 (len - 64)) (slice b (len - 64) 64) then .error (0x13, 0)
  else if decide (15 < owner) || (owner != 0 && (d.fp.owner owner).isNone) then .error (0x14, 0)
  else match d.bundleKey owner (slice b 0x20 40) with
    | none => .error (0x15, 0)
    | some key =>
      match d.bindAll k owner 0 ((List.range n).map (fun i => parseEntry (slice b (128 + 32 * i) 32))) with
      | .error e => .error e
      | .ok es => .ok {
          owner := owner
          dataOff := field b 0x14 4
          bundleId := slice b 0x18 8
          salt := slice b 0x48 8
          key := key
          entries := es
          chunks := (List.range m).map (fun c => parseChunk (slice b (128 + 32 * n + 32 * c) 32)) }

/-- AS_MANIFEST_CHECKED: the checks pass, or end the job at once with a code (R388). -/
def asChecked (d : Dev) (l : Nat) : Dev :=
  let s := d.lane l
  match s.job with
  | none => d
  | some k =>
    let b := d.manifestBytes l
    if d.jobState k ≠ 2 ∨ s.ending.isSome ∨ b.length < d.manifestNeed l then d
    else
      let d := d.setFlds [(R.AS_JOB_ID_LO_BUNDLE_ID k, field b 0x18 4), (R.AS_JOB_ID_HI_BUNDLE_ID k, field b 0x1C 4),
        (R.AS_JOB_RESULT_OWNER k, field b 0x0D 1)]
      match d.checkManifest k b with
      | .error (code, e) => (d.setFld (R.AS_JOB_PROGRESS_ENTRY k) e).jobEnd l 6 code
      | .ok m => ((d.setFld (R.AS_JOB_RESULT_STATE k) 3).updLane l (fun s => { s with manifest := some m })).asPump

/-! Chunks. -/

/-- Bytes owed to each stack of the destination half by a chunk (R398). -/
def owedOf (c : Chunk) : Nat := 1024 * ceilDiv c.outLen 2048 + 1024

/-- owed_total of a stack (R398). -/
def owedTotal (d : Dev) (s : Nat) : Nat :=
  (d.streamer.lanes.toList.map (fun l => ((l.owed.filter (·.2.1 == s / 2)).map
    (fun o => if s % 2 = 0 then o.2.2.1 else o.2.2.2)).sum)).sum

/-- The seven settable weights of CL_ARB_WEIGHT and AS's own, as they act (R149, R192). -/
def asWeights (d : Dev) : Nat × Nat :=
  if d.faulted.contains R.CL_ARB_WEIGHT then (7, 1)
  else
    let w := (d.get R.CL_ARB_WEIGHT).toNat
    (((List.range 7).map (fun i => bits w (4 * i + 3) (4 * i))).sum, d.fld R.CL_ARB_WEIGHT_AS)

/-- The pacing gate for a chunk into a half (R398), in exact arithmetic. -/
def gateOpen (d : Dev) (half : Nat) (c : Chunk) : Bool :=
  !d.flag R.AS_CTRL_PACE ||
    [2 * half, 2 * half + 1].all (fun s =>
      let w := d.asWeights
      d.owedTotal s == 0 ||
        decide ((d.owedTotal s + owedOf c) * 100000000 * (23 + w.1) ≤ 4352 * d.fp.hz (0x10 + s) * w.2 * 19))

/-- The half that holds a frame-store address (R159). -/
def halfOfAddr (a : Nat) : Nat := bits a 29 29

/-- AS_CHUNK_REAP (R398). -/
def asReap (d : Dev) (l : Nat) : Dev :=
  let s := d.lane l
  match s.job, s.manifest with
  | some _, some m =>
    match m.chunks[s.nextReap]?, entryOf m s.nextReap with
    | some c, some (_, e) =>
      let here := ((s.data.filter (·.1 == s.nextReap)).map (·.2.2.length)).sum
      if s.ending.isSome ∨ s.decoding.isSome ∨ here < c.ctLen ∨ !d.gateOpen (halfOfAddr e.outOff) c then d
      else
        let d := d.updLane l (fun s => { s with
          decoding := some s.nextReap
          nextReap := s.nextReap + 1
          owed := s.owed ++ [(s.nextReap, halfOfAddr e.outOff, owedOf c, owedOf c)] })
        d.showProgress l s.nextReap
    | _, _ => d
  | _, _ => d

/-- The ciphertext of a chunk, from the staging buffer. -/
def cipherOf (s : LaneSt) (c len : Nat) : List Byte :=
  let parts := (s.data.filter (·.1 == c)).map (·.2)
  ((parts.mergeSort (fun a b => decide (a.1 ≤ b.1))).flatMap (·.2)).take len

/-- The plaintext of chunk c if its tag verifies (R384). -/
def chunkPlain (m : Manifest) (s : LaneSt) (c : Nat) (r : Chunk) : Option (List Byte) :=
  gcmOpen m.key (beNat (m.salt ++ toBe 4 c)) (m.bundleId ++ r.stored) (cipherOf s c r.ctLen ++ r.tag)

/-- AS_CHUNK_DECODED: the tag, the decoding and the length of the chunk in decode; then its writes issue (R384 to
R386, R390, R391). -/
def asDecoded (d : Dev) (l : Nat) : Dev :=
  let s := d.lane l
  match s.job, s.manifest, s.decoding with
  | some k, some m, some c =>
    match m.chunks[c]?, entryOf m c with
    | some r, some (_, e) =>
      match chunkPlain m s c r with
      | none => (d.count R.AS_TAG_FAIL_COUNT 1 ⟨R.AS_STATUS, 3, 3⟩).jobEnd l 6 0x20
      | some plain =>
        let plains := (if c = e.first then [] else s.plain) ++ [plain]
        let out := if e.compressed then zstdOutput e.windowLog plains (c + 1 == e.first + e.span) else some plain
        match out with
        | none => d.jobEnd l 6 0x21
        | some bytes =>
          if bytes.length ≠ r.outLen then d.jobEnd l 6 0x22
          else
            let start := e.outOff + ((List.range (c - e.first)).map (fun i =>
              match m.chunks[e.first + i]? with | some x => x.outLen | none => 0)).sum
            let d := d.updLane l (fun s => { s with
              decoding := none
              plain := plains
              data := s.data.filter (·.1 != c) })
            let q := d.issueAll (writeRequests (.as (Fin.ofNat 16 m.owner)) start bytes (.asWrite l k c))
            let d := q.1.settleOwed l
            if q.2.2 then (d.showProgress l c).jobEnd l 6 0x23
            else (if c + 1 = m.chunks.length then d.setFld (R.AS_JOB_RESULT_STATE k) 4 else d).asPump
    | _, _ => d
  | _, _, _ => d

/-- A stack grants a write of a chunk (R398). -/
def asGranted (d : Dev) (l chunk addr : Nat) : Dev :=
  let pay := fun (o : Nat × Nat × Nat × Nat) =>
    if o.1 ≠ chunk then o
    else if stackOf addr % 2 = 0 then (o.1, o.2.1, o.2.2.1 - 64, o.2.2.2) else (o.1, o.2.1, o.2.2.1, o.2.2.2 - 64)
  (d.updLane l (fun s => { s with owed := s.owed.map pay })).settleOwed l

/-- A write of a chunk completes: its bytes count for its job, also once that has ended (R387, R405). -/
def asWriteDone (d : Dev) (j : Nat) (w : BurstWrite) : Dev :=
  let n := enabledBytes w
  let d := d.count64 (R.AS_OUT_BYTES 0) (R.AS_OUT_BYTES 1) n ⟨R.AS_STATUS, 3, 3⟩
  if j < 16 then d.wrapAdd (R.AS_JOB_OUT_BYTES_COUNT (j % 8)) n else d

/-- A write that waited for a tag was refused (REFUSED of R388). -/
def asRefused (d : Dev) (l j chunk : Nat) : Dev :=
  let d := d.settleOwed l
  if j < 8 then (d.showProgress l chunk).jobEnd l 6 0x23 else d

/-- AS_JOB_END: a job whose last write has completed ends in DONE; one whose end has been called for ends with its
code once its chunks have finished (R387, R392, R400). -/
def asJobEnd (d : Dev) (l : Nat) : Dev :=
  let s := d.lane l
  if d.drained l then d.jobEnd l 5 0
  else match s.ending with
    | some code => if s.decoding.isSome || d.laneWrites l none then d else d.jobEnd l 6 code
    | none => d

/-- AS_LANE_ZEROED (R389). -/
def asZeroed (d : Dev) (l : Nat) : Dev := (d.updLane l (fun s => { s with zeroing := false })).showLanes

/-- Entry into the parity safe state: every job ends with SAFE (R149, R388). -/
def asSafe (d : Dev) : Dev :=
  let d := (List.range 4).foldl (fun d l => d.jobEnd l 6 0x25) d
  d.streamer.queue.foldl (fun d k => d.jobResult k 6 0x25) { d with streamer := { d.streamer with queue := [] } }

/-- SRST of AS (R400): jobs are abandoned, writes in flight complete. Its fields are reset by the caller. -/
def asReset (d : Dev) : Dev :=
  let d := (List.range 4).foldl (fun d l =>
    ((d.detachLane l).updLane l (fun s => { zeroedLane s with zeroing := false })).settleOwed l) d
  { d with streamer := { d.streamer with queue := [] } }

/-- Does a running job reference a clearing of a half (R76, R400), in its descriptor or in a manifest that has passed? -/
def jobUses (d : Dev) (half : Nat) : Bool :=
  let inHalf := fun (k : Nat) => d.fp.clearings.any (fun c => c.number == k && c.half == half)
  d.streamer.lanes.toList.any (fun s =>
    (match s.manifest with | some m => m.entries.any (fun e => inHalf e.dest) | none => false) ||
    (match s.job with
     | some k => (List.range 4).any (fun i =>
        d.flag (R.AS_JOB_DESTd_CLR_VALID k i) && inHalf (d.fld (R.AS_JOB_DESTd_CLR_CLEARING k i)))
     | none => false))

end Dev

end Sys2Proof.Machine
end

