-- ==== Sys2Proof/Machine/Resets.lean ====
section
/-!
DEFINITION. The reset classes (R11, R12, R99 to R101): which fields and which block state each reset returns to its
reset value.
-/
namespace Sys2Proof

/-- The slot of a block that SY_SRST names (R113). -/
def SoftBlock.slot : SoftBlock → Nat
  | .gv => 2
  | .fs n => 4 + n.val
  | .cn x => 22 + x.val
  | .bx n => 20 + n.val
  | .cp n => 16 + n.val
  | .as => 14
  | .rp n => 12 + n.val
  | .sh => 11
  | .ts => 9
  | .ev => 10
  | .ic => 8
  | .le n => 64 + n.val

end Sys2Proof

namespace Sys2Proof.Machine

/-- The row of an RX register, by slot and indirect address (R131). -/
def rxRow (key : Nat) : Option RegRow :=
  match blockOfSlot (key / 0x10000) with
  | some (b, _) => b.rxRows.find? (·.has (key % 0x10000))
  | none => none

/-- A word with the fields of a row that `hit` names at their values in `rst`. -/
def resetFields (row : Option RegRow) (hit : ResetClass → Bool) (rst w : Word) : Word :=
  match row with
  | none => w
  | some r => r.fields.foldl (fun w f =>
      if hit f.cls then BitVec.ofNat 32 (setBits w.toNat f.hi f.lo (bits rst.toNat f.hi f.lo)) else w) w

/-- The classes a reset resets: its own and every lower one within its scope (R11, R12). -/
def ResetClass.rank : ResetClass → Nat
  | .por => 1 | .crst => 2 | .flr => 3 | .hrst => 4 | .srst => 5 | .fixed => 0

/-- Is a field of this class reset by a reset of a rank? -/
def ResetClass.hitBy (c : ResetClass) (rank : Nat) : Bool := decide (rank ≤ c.rank) && c != .fixed

/-- The slot of a BAR0 offset (bank 1 of the 3D LUT included). -/
def slotOf (addr : Nat) : Nat := addr % l3Bank / 0x10000

/-- Does a reset of a rank store a field that the parity of byte 0 of the register at an offset covers (R147)? -/
def resetsParity (rank a : Nat) : Bool :=
  match rowOf a with
  | some r => r.fields.any (fun f => f.cls.hitBy rank && remakesParity a (2 ^ (f.hi + 1) - 2 ^ f.lo))
  | none => false

namespace Dev

/-- Reset the fields of a rank in the registers that `scope` names (R12). -/
def resetRegs (d : Dev) (rank : Nat) (scope : Nat → Bool) : Dev :=
  let f := fun a w => if scope a then resetFields (rowOf a) (·.hitBy rank) (resetWord a) w else w
  { d with
    regs := mapCells resetWord f d.regs
    badParity := d.badParity.filter (fun a => !(scope a && resetsParity rank a)) }

/-- Reset the RX registers of a rank in the slots that `scope` names. -/
def resetRx (d : Dev) (rank : Nat) (scope : Nat → Bool) : Dev :=
  let f := fun k w => if scope (k / 0x10000) then resetFields (rxRow k) (·.hitBy rank) 0 w else w
  { d with rx := mapCells rxReset f d.rx }

/-- End the parity safe state of slots (R149). -/
def endSafe (d : Dev) (slots : Nat → Bool) : Dev :=
  { d with
    safe := d.safe.filter (fun s => !slots s)
    faulted := d.faulted.filter (fun a => !slots (slotOf a))
    badParity := d.badParity.filter (fun a => !slots (slotOf a)) }

/-! Heads (R100). -/

/-- Requests to the governor that wait for a verdict no longer name head n. -/
def dropRequests (d : Dev) (n : Nat) : Dev :=
  let cut := fun (q : GvRequest) => { q with heads := q.heads.filter (· != n) }
  { d with gv := { d.gv with
    waiting := (d.gv.waiting.map cut).filter (fun q => !q.heads.isEmpty)
    busy := d.gv.busy.map (fun b => (cut b.1, { b.2 with demands := b.2.demands.filter (·.1 != n) })) } }

/-- Is a BAR0 offset a LUT of head n, whose contents load by the end of the HRST (R100, R262)? -/
def lutOf (n a : Nat) : Bool := slotOf a == Block.HD.base + n && decide (0x1000 ≤ a % 0x10000)

/-- The HRST of head n and link n (R99, R100), all but the LUT contents. -/
def hrstCore (d : Dev) (n : Nat) : Dev :=
  let partner := d.partner n
  let told := match partner with
    | some p => (d.head p).follows == some n && (d.head p).ticking
    | none => false
  let d := d.haltHead n
  let d := { d with loader := { d.loader with held := d.loader.held.filter (· != n) } }
  let d := ((d.dropRequests n).updHead n (fun _ => .reset)).dpReset n
  let hd := Block.HD.base + n
  let dp := Block.DP.base + n
  let d := d.resetRegs 4 (fun a => (slotOf a == hd && !lutOf n a) || slotOf a == dp)
  let d := d.endSafe (fun s => s == hd || s == dp)
  match partner with
  | none => d
  | some p =>
    if d.headRunning p && !told then
      ((d.unlock p).updHead p (fun s => { s with follows := none })).headEvent p 9 else d

/-- The LUTs of head n take their reset contents (R100, R262). -/
def resetLuts (d : Dev) (n : Nat) : Dev := d.resetRegs 4 (lutOf n)

/-- HRST: a write of 1 to a bit of SY_HRST (R100). -/
def hrst (d : Dev) (n : Nat) : Dev := (d.hrstCore n).freeStarts.setFld ⟨R.SY_RESET_BUSY, n, n⟩ 1

/-- HRST_COMPLETE (R100). -/
def hrstComplete (d : Dev) (n : Nat) : Dev :=
  if bit (d.get R.SY_RESET_BUSY).toNat n then (d.resetLuts n).setFld ⟨R.SY_RESET_BUSY, n, n⟩ 0 else d

/-! Blocks (R101). -/

/-- Does a running head take a bridge stream from a half (R52)? -/
def bridgeFrom (d : Dev) (half : Nat) : Bool :=
  (List.range 64).any (fun l => d.fp.bridged l && halfOfEngine l == half &&
    (match d.fp.leRec l with | some r => d.headRunning r.head | none => false))

/-- Is an SRST of a block refused (R101)? -/
def srstRefused (d : Dev) (b : SoftBlock) : Bool :=
  match b with
  | .fs _ => (List.range 8).any d.headRunning
  | .cn x => (List.range 4).any (fun i => d.headRunning (4 * x.val + i)) || d.bridgeFrom x.val
  | .le n => d.flag (R.LE_CTRL_ENABLE n.val) &&
      (match d.fp.leRec n.val with | some r => d.headRunning r.head | none => false)
  | _ => false

/-- The unit's own draw of the ring IV stays through every reset but POR (R414). -/
def shClear (d : Dev) : Dev :=
  d.updSh (fun s => { ShSt.reset with
    ivPrefix := s.ivPrefix, ivCount := s.ivCount, nextTxn := s.nextTxn, nextKey := s.nextKey })

/-- A block's state outside its registers at its SRST (R101, R276, R366, R400, R409, R444, R476, R496). -/
def blockState (d : Dev) (b : SoftBlock) : Dev :=
  match b with
  | .gv =>
    let d := d.stopSurfaces (fun _ => true)
    { d with gv := { d.gv with
      leCalm := .replicate 64 0, nodeCalm := .replicate 64 0, lastSig := .replicate 64 0, changed := [] } }
  | .fs n =>
    { d with fs := { d.fs with writeBacks := d.fs.writeBacks.filter (fun w => stackOf w.word != n.val) } }
  | .cn _ => d
  | .bx n => d.bxReset n.val
  | .cp n => (d.asPortLost n.val 1).cpReset n.val
  | .as => d.asReset
  | .rp n => (d.flushPort n.val).updRp n.val (fun _ => { RpSt.reset with since := d.raw })
  | .sh => (d.shClear.flushPort 0).flushPort 1
  | .ts => d.tsReset
  | .ev => d.evClear
  | .ic => d.icReset
  | .le n => d.emptyEngine n.val

/-- What a block shows once its registers have been reset. -/
def blockAfter (d : Dev) (b : SoftBlock) : Dev :=
  match b with
  | .gv => d.gvRefresh
  | .bx n => d.bxShow n.val
  | .as => d.showLanes
  | .rp n => (d.updTsPort n.val (fun q => { q with measured := false, exchange := none })).resumeSources
  | .ic => d.icUpdate none
  | _ => d

/-- The SRST of one block: its state, its fields, its safe state (R101, R149). -/
def srstCore (d : Dev) (b : SoftBlock) : Dev :=
  let d := d.blockState b
  let d := (d.resetRegs 5 (fun a => slotOf a == b.slot)).resetRx 5 (· == b.slot)
  (d.endSafe (· == b.slot)).blockAfter b

/-- SRST: a write of 1 to a bit of SY_SRST or SY_SRST_LE (R101). A stack is retrained with its contents in
self-refresh, and the governor's history for it restarts (R103). -/
def srst (d : Dev) (b : SoftBlock) : Dev :=
  if d.srstRefused b then d.event R.SY_RESET_CAUSE [3]
  else
    let d := d.catchUp.srstCore b
    let d := match b with
      | .fs n => (d.setFlds [(R.FS_STATE_SELF_REFRESH n.val, 1), (R.FS_STATE_TRAINED n.val, 0)]).restartModel n.val
      | _ => d
    ({ d with srsts := if d.srsts.contains b then d.srsts else d.srsts ++ [b] }).setFld R.SY_RESET_BUSY_SRST_BUSY 1

/-- SRST_COMPLETE (R101). -/
def srstComplete (d : Dev) (b : SoftBlock) : Dev :=
  if !d.srsts.contains b then d
  else
    let d := { d with srsts := d.srsts.filter (· != b) }
    let d := match b with
      | .fs n => d.setFlds [(R.FS_STATE_SELF_REFRESH n.val, 0), (R.FS_STATE_TRAINED n.val, 1)]
      | _ => d
    d.setFld R.SY_RESET_BUSY_SRST_BUSY (b2n (!d.srsts.isEmpty))

/-- Every block that has an SRST. -/
def softBlocks : List SoftBlock :=
  [.gv] ++ (List.finRange 4).map .fs ++ (List.finRange 2).map .cn ++ (List.finRange 2).map .bx ++
    (List.finRange 4).map .cp ++ [.as] ++ (List.finRange 2).map .rp ++ [.sh, .ts, .ev, .ic] ++ (List.finRange 64).map .le

/-! The function-level reset (R11, R99). -/

/-- Slots whose safe state outlasts an FLR: FSn, CL, KY, SY and CH (R149). -/
def outlastsFlr (s : Nat) : Bool := s ≤ 1 || s == 3 || (4 ≤ s && s < 8) || s == 15

/-- An FLR, the loader apart (R11, R99): every HRST and SRST, the FLR-class fields, the calendars; stacks stay trained
and keep their safe states. -/
def flrCore (d : Dev) : Dev :=
  let trained := (List.range 4).map (fun n => d.fld (R.FS_STATE_TRAINED n))
  let safe := d.safe
  let d := (List.range 8).foldl hrstCore d
  let d := softBlocks.foldl blockState d
  let d := (d.resetRegs 3 (fun _ => true)).resetRx 3 (fun _ => true)
  let d := ({ d with safe := safe }).endSafe (fun s => !outlastsFlr s)
  let d := (List.range 4).foldl (fun d n => d.setFld (R.FS_STATE_TRAINED n) (trained.getD n 0)) d
  let raw := d.raw
  let d := { d with
    ts := { TsSt.reset with cals := .replicate 2 { CalSt.reset with anchorRaw := raw } }
    indFetch := []
    fs := { d.fs with hostReads := [], held := [], hostQueue := [] }
    ic := { d.ic with msixEnable := false, funcMask := false } }
  let d := softBlocks.foldl blockAfter d
  d.event R.SY_RESET_CAUSE [0]

end Dev

end Sys2Proof.Machine
end

