-- ==== Sys2Proof/Machine/Loader.lean ====
section
/-!
DEFINITION. The image loader (R59, R61 to R79): receiving, validation, apply, zero-fill, and the loads' meeting with
resets.
-/
namespace Sys2Proof.Machine

/-- CH_LOAD_ERR.SOURCE (R70). -/
def LoadSource.code : LoadSource → Nat
  | .pcie => 0 | .unicast => 1 | .broadcast => 2

namespace Dev

def loadEvent (d : Dev) (b : Nat) : Dev := d.event R.CH_LOAD_STATUS [b]

/-- Is CH in its parity safe state (R64)? -/
def chSafe (d : Dev) : Bool := d.isSafe Block.CH.base

def setLoader (d : Dev) (f : LoaderSt → LoaderSt) : Dev := { d with loader := f d.loader }

/-- ERROR with its cause (R62, R70); a chain load's error drives CERR_N low (R94). -/
def loadErr (d : Dev) (src : LoadSource) (e : LoadErr) : Dev :=
  let d := (d.setFlds [(R.CH_LOAD_ERR_SOURCE, src.code), (R.CH_LOAD_ERR_RECORD, e.record),
    (R.CH_LOAD_ERR_SECTION, e.sect), (R.CH_LOAD_ERR_CODE, e.code)]).loadEvent 2
  if src = .pcie then d else { d with chain := { d.chain with cerrLoad := true } }

/-- The loader is free again: held starts go on (R76). -/
def loadFree (d : Dev) : Dev :=
  let held := d.loader.held
  let d := d.setLoader (fun l => { l with phase := .idle, image := [], held := [], zero := [] })
  let d := d.setFlds [(R.CH_LOAD_STATUS_BUSY, 0), (R.CH_LOAD_STATUS_ZEROFILL, 0)]
  held.foldl beginStart d

/-- An FLR that waited for the end of stages 6 and 7 takes effect (R79). -/
def flrNow (d : Dev) : Dev :=
  if d.loader.flrWaiting then (d.setLoader (fun l => { l with flrWaiting := false })).flrCore else d

/-- The open load ends with ERROR. -/
def loadFail (d : Dev) (e : LoadErr) : Dev := (d.loadErr d.loader.source e).loadFree

/-- E_ABORTED (R63). -/
def aborted : LoadErr := headerErr 0x74

/-- Open a load (R64, R65, R92). -/
def loadOpen (d : Dev) (src : LoadSource) : Dev :=
  (d.setLoader (fun l => { l with phase := .receiving, source := src, image := [] })).setFlds
    [(R.CH_LOAD_COUNT_BYTES, 0), (R.CH_LOAD_STATUS_BUSY, 1)]

/-- Held starts go on once the load is known not to close their half (R76). -/
def releaseHeld (d : Dev) : Dev :=
  let go := d.loader.held.filter (fun n => !d.startHeld (halfOfHead n))
  go.foldl beginStart (d.setLoader (fun l => { l with held := l.held.filter (!go.contains ·) }))

/-- The open load receives bytes: the header is checked once it is complete, and validation starts at TOTAL_LEN (R61,
R65, R71, R74). -/
def loadBytes (d : Dev) (bytes : List Byte) : Dev :=
  let had := d.loader.image.length
  let all := d.loader.image ++ bytes
  if all.length < 64 then
    (d.setLoader (fun l => { l with image := all })).setFld R.CH_LOAD_COUNT_BYTES all.length
  else
    match (if had < 64 then checkHeader all d.unitAddr d.configured else none) with
    | some e => (d.setFld R.CH_LOAD_COUNT_BYTES 64).loadFail e
    | none =>
      let n := imgTotal all
      let got := all.take n
      let d := (d.setLoader (fun l => { l with image := got })).setFld R.CH_LOAD_COUNT_BYTES got.length
      (if n ≤ got.length then d.setLoader (fun l => { l with phase := .validating }) else d).releaseHeld

/-- CH_LOAD_START (R64, R65, R87). -/
def loadStart (d : Dev) : Dev :=
  if d.loader.phase ≠ .idle ∨ d.chSafe ∨ d.unitAddr = 0 then d.loadEvent 3 else d.loadOpen .pcie

/-- May the open PCI Express load still be aborted: stage 5 has not finished (R66)? -/
def abortable (d : Dev) : Bool := d.loader.phase == .receiving || d.loader.phase == .validating

/-- CH_LOAD_ABORT (R66). -/
def loadAbort (d : Dev) : Dev := if d.loader.source = .pcie ∧ d.abortable then d.loadFail aborted else d

/-- CH_LOAD_DATA_WRITE (R65, R68). -/
def loadData (d : Dev) (w : Word) : Dev :=
  if d.loader.phase = .receiving ∧ d.loader.source = .pcie then
    (d.put R.CH_LOAD_DATA w).loadBytes (toLe 4 w.toNat)
  else d.loadEvent 3

/-- CH enters its parity safe state: an open load whose stage 5 has not finished ends with E_ABORTED (R64). -/
def loadSafe (d : Dev) : Dev := if d.abortable then d.loadFail aborted else d

/-! Stage 5 (R59, R75, R76). -/

/-- The halves that an image restructures. -/
def restructured (b : List Byte) : List Nat :=
  if imgKind b = 1 then [0, 1] else match reloadHalf b with | some h => [h - 1] | none => []

/-- Does a copy command reference a clearing of a half (R76)? A queued command is its slot's words; the active one,
which stands at HEAD, the words it took at its start (R354). A fill reads no source clearing. -/
def copyUses (d : Dev) (half : Nat) : Bool :=
  let inHalf := fun (k : Nat) => d.fp.clearings.any (fun c => c.number == k && c.half == half)
  (List.range 2).any (fun n =>
    ((List.range (d.fld (R.BX_QUEUE_COUNT n))).drop (b2n (d.bxe n).active.isSome)).any (fun i =>
      let slot := (d.fld (R.BX_QUEUE_HEAD n) + i) % 16
      let w := (d.get (R.BX_S_CLR n slot)).toNat
      inHalf (bits w 15 8) || (d.fld (R.BX_S_CMD_OP n slot) != 1 && inHalf (bits w 7 0))) ||
    (match (d.bxe n).active with
     | some c => inHalf c.dstClr || (!c.fill && inHalf c.srcClr)
     | none => false))

/-- Does a running head of the other half depend on a half: a bridge stream, a partner or a clone source (R35)? -/
def crossDep (d : Dev) (half : Nat) : Bool :=
  d.bridgeFrom half ||
  (List.range 4).any (fun i =>
    let h := 4 * (1 - half) + i
    d.headRunning h &&
      (match d.partner h with | some p => halfOfHead p == half | none => false) ||
    d.headRunning h && (match d.cloneSource h with | some p => halfOfHead p == half | none => false))

/-- The checks of stage 5 in the order of R61: the key lock, then the conditions of R75 and R76. DESIGN CHOICE: the
codes of R75 and R76, E_MISSING_SECTION and E_SIG_MISSING, which name no section of the image, report SECTION 0xFF
and RECORD 0xFFF, as R63 has it for the header (log entry 88). -/
def stage5 (d : Dev) (b : List Byte) : Option LoadErr :=
  let hs := restructured b
  let policy := (sects b).find? (fun s => s.ty == 8)
  firstErr [
    (policy.isSome && d.flag R.CH_LOAD_STATUS_KEY_LOCKED, sectErr 0x61 ((policy.map (·.idx)).getD 0)),
    (hs.any (fun h => (List.range 4).any (fun i => d.headRunning (4 * h + i))), headerErr 0x70),
    (hs.any (fun h => d.copyUses h || d.jobUses h), headerErr 0x72),
    (imgKind b != 1 && hs.any d.crossDep, headerErr 0x71)]

/-- LOAD_VALIDATION_END (R61, R62): the first failure in the order of the stages, or the apply begins. -/
def loadValidated (d : Dev) : Dev :=
  if d.loader.phase ≠ .validating then d
  else
    let b := d.loader.image
    match checkImage b d.fp (!d.configured) d.shadow d.shadow.programmed d.shadow.requireSigned with
    | some e => d.loadFail e
    | none => match d.stage5 b with
      | some e => d.loadFail e
      | none => d.setLoader (fun l => { l with phase := .applying })

/-! Apply and zero-fill (R62, R74, R77, R78). -/

/-- What is left of a range (base, size) outside another. -/
def cutRange (r s : Nat × Nat) : List (Nat × Nat) :=
  let a := max r.1 s.1
  let e := min (r.1 + r.2) (s.1 + s.2)
  if e ≤ a then [r]
  else (if r.1 < a then [(r.1, a - r.1)] else []) ++ (if e < r.1 + r.2 then [(e, r.1 + r.2 - e)] else [])

/-- The ranges to zero when a table replaces another (R77): protected bytes that do not stay protected for the same
owner. -/
def zeroFor (old new : List Clearing) : List (Nat × Nat) :=
  (old.filter (·.isProtected)).flatMap (fun o =>
    (new.filter (fun c => c.isProtected && c.owner == o.owner)).foldl
      (fun rs c => rs.flatMap (fun r => cutRange r (c.base, c.size))) [(o.base, o.size)])

/-- A load of the structure makes the parity of the floorplan-owned registers anew (R147). -/
def freshParity (d : Dev) : Dev :=
  let own := fun (a : Nat) => match rowOf a with | some r => r.byte0 &&& r.mask .fp != 0 | none => false
  { d with badParity := d.badParity.filter (!own ·) }

/-- LOAD_APPLY_DONE: the structure stands ready and the zero-fill begins (R74, R77). Software sees the whole previous
structure until DONE (R62), so nothing of the new one shows before. -/
def loadApplied (d : Dev) : Dev :=
  if d.loader.phase ≠ .applying then d
  else
    let b := d.loader.image
    let new := (merge b d.fp (!d.configured)).floorplan
    let zero := if d.configured then zeroFor d.fp.clearings new.clearings else [(0, 0x40000000)]
    (d.setLoader (fun l => { l with phase := .zerofill, applied := b, zero := zero })).setFld R.CH_LOAD_STATUS_ZEROFILL 1

/-- Write bursts of the zero-fill in one stack: a clearing's bursts fall evenly on the two stacks of its half. -/
def zeroBursts (rs : List (Nat × Nat)) (n : Nat) : Nat :=
  (rs.map (fun r => ((List.range 2).filter (fun h => h == n / 2)).foldl (fun a h =>
    let lo := max r.1 (h * 0x20000000)
    let hi := min (r.1 + r.2) ((h + 1) * 0x20000000)
    a + (hi - lo) / 128) 0)).sum

/-- The zero-fill's writes: counts, and words that were uncorrectable hold good check bits again (R77, R172, R186). -/
def zeroCounts (d : Dev) (rs : List (Nat × Nat)) : Dev :=
  let d := (List.range 4).foldl (fun d n =>
    let k := zeroBursts rs n
    if k = 0 then d else d.count64 (R.FS_WR_BURSTS n 0) (R.FS_WR_BURSTS n 1) k (R.FS_ERR_STATUS_STAT_SAT n)) d
  let out := fun (a : Nat) => !rs.any (fun r => decide (r.1 ≤ a ∧ a < r.1 + r.2))
  { d with fs := { d.fs with
    errors := d.fs.errors.filter (fun e => out e.1), writeBacks := d.fs.writeBacks.filter (fun w => out w.word) } }

/-- Streams whose clearing is no longer valid are stored with EN = 0 and ERR 1 (R444). -/
def checkStreams (d : Dev) : Dev :=
  (List.range 16).foldl (fun d m =>
    if d.flag (R.SH_STR_CTRL_EN m) && (d.strClearing m).isNone then
      d.setFlds [(R.SH_STR_CTRL_EN m, 0), (R.SH_STR_STATE_ERR m, 1)] else d) d

/-- The bits that the structure in force holds at 0: ENABLE of an engine that no record maps (R197, R228), DSC_CTRL.EN
of a link whose head has no DSC_ALLOWED (R343). -/
def ownedAtZero (d : Dev) : Dev :=
  let d := (List.range 64).foldl (fun d l => if (d.fp.leRec l).isSome then d else
    [R.LE_CTRL l, R.LE_CTRL_STG l].foldl (fun d a => d.when' (bit (d.get a).toNat 0) (fun d => d.setFld ⟨a, 0, 0⟩ 0)) d) d
  (List.range 8).foldl (fun d n =>
    d.when' (d.flag (R.DP_DSC_CTRL_EN n) && !bit (d.fp.cap n).flags 0) (fun d => d.setFld (R.DP_DSC_CTRL_EN n) 0)) d

/-- The structure of the image is in force, as a whole: every section, the fields it holds at 0, its identity (R62,
R72, R78, R181). -/
def install (d : Dev) : Dev :=
  let b := d.loader.image
  let d := { d with fp := (merge b d.fp (!d.configured)).floorplan }
  (d.freshParity.ownedAtZero.setFlds [(R.CH_IMG_ID_IMAGE_ID, field b 0x18 4), (R.CH_IMG_HDR_CRC_HDR_CRC, field b 0x3C 4)])

/-- ZEROFILL_DONE: the ranges are zero, the new structure is in force, and DONE is set, with CONFIGURED and KEY_LOCKED
for a FULL image (R62, R77). -/
def zeroFilled (d : Dev) (m : List Host.Cell) : Dev × List Host.Cell :=
  if d.loader.phase ≠ .zerofill then (d, m)
  else
    let rs := d.loader.zero
    let d := (d.zeroCounts rs).install
    let d := if imgKind d.loader.image = 1 then
        d.setFlds [(R.CH_LOAD_STATUS_CONFIGURED, 1), (R.CH_LOAD_STATUS_KEY_LOCKED, 1)] else d
    let d := d.setLoader (fun l => { l with phase := .idle })
    (((d.checkStreams.loadEvent 1).gvRefresh.icUpdate none).loadFree.flrNow, zeroRanges m rs)

/-! FLR (R11, R79). -/

/-- FLR: before stage 5 has finished it ends a PCI Express load with E_ABORTED, which CH_LOAD_STATUS and CH_LOAD_ERR
show after the reset (log entry 22); after that it waits for the load's end. A chain load is not affected. -/
def flr (d : Dev) : Dev :=
  if d.loader.phase = .idle ∨ d.loader.source ≠ .pcie then d.flrCore
  else if d.abortable then d.flrCore.loadFail aborted
  else d.setLoader (fun l => { l with flrWaiting := true })

end Dev

end Sys2Proof.Machine
end

