-- ==== Sys2Proof/Machine/Chain.lean ====
section
/-!
DEFINITION. Power, CRST and the configuration chain (R80 to R99, R513, R514): resets of the whole unit, address
assignment, the staggered start, chain frames, the two shared lines.
-/
namespace Sys2Proof.Machine
namespace Dev

def setChain (d : Dev) (f : ChainSt → ChainSt) : Dev := { d with chain := f d.chain }

/-- Is the unit in POR or in the CRST state (R82, R516)? -/
def inReset (d : Dev) : Bool := d.chain.power != .running || d.chain.crstLow || d.chain.tripHold

/-! Resets of the whole unit. -/

/-- Everything a CRST resets (R11, R99): all but the POR-class fields, the OTP shadow, the wake latches, the DRAM's
contents and the random draw of R414. -/
def crstCore (d : Dev) : Dev :=
  let r := (d.resetRegs 2 (fun _ => true)).resetRx 2 (fun _ => true)
  let d : Dev := { Dev.reset with
    regs := r.regs
    rx := r.rx
    freeCount := d.freeCount
    out := d.out
    badParity := r.badParity
    otp := d.otp
    shadow := d.shadow
    board := d.board
    srsts := d.srsts
    chain := { ChainSt.reset with power := d.chain.power, crstLow := d.chain.crstLow, tripHold := d.chain.tripHold }
    fs := { FsSt.reset with errors := d.fs.errors }
    sh := { ShSt.reset with ivPrefix := d.sh.ivPrefix, ivCount := d.sh.ivCount } }
  d.event R.SY_RESET_CAUSE [1]

/-- POR: everything is at reset, and the IV of R414 is drawn anew (R11, R99). The fuses hold; the sensors go on. -/
def por (d : Dev) : Dev :=
  { Dev.reset with
    freeCount := d.freeCount + 1
    out := d.out
    otp := d.otp
    board := { BoardSt.reset with logicC := d.board.logicC, stackC := d.board.stackC }
    chain := { ChainSt.reset with crstLow := d.chain.crstLow }
    sh := { ShSt.reset with ivPrefix := d.freeCount } }

/-- CRST: a low level on CRST_N that lasts lowNs (R514). Below 1 µs it is ignored; between 1 µs and 10 µs either
outcome may occur. During POR it is only noted (R522). -/
def crst (d : Dev) (lowNs : Nat) : Dev :=
  let take := fun (d : Dev) =>
    let d := d.setChain (fun c => { c with crstLow := true })
    if d.chain.power = .por then d else d.crstCore
  if lowNs < 1000 then d
  else if lowNs < 10000 then
    (if Config.crstTaken d.freeCount then take d.fresh else d.fresh)
  else take d

/-- The release of R82: the sample of CADDR_IN is due, and the slot of the start is taken from CH_STAGGER (R109). -/
def release (d : Dev) : Dev :=
  let slot := d.fld R.CH_STAGGER_SLOT_MS
  d.setChain (fun c => { c with addr := .released, slotMs := slot })

/-- POR_RELEASE: the OTP shadow begins to load (R513). -/
def porRelease (d : Dev) : Dev := if d.chain.power = .por then d.setChain (fun c => { c with power := .otpLoading }) else d

/-- OTP_SHADOW_LOADED (R393, R513, R82). -/
def otpLoaded (d : Dev) : Dev :=
  if d.chain.power ≠ .otpLoading then d
  else
    let d := ({ d with shadow := d.otp }).setChain (fun c => { c with power := .running })
    if d.chain.crstLow then d else d.release

/-- Every sensor below its release limit (R516). -/
def coolEnough (d : Dev) : Bool := d.board.logicC.all (fun c => decide (c < 100)) && d.board.stackC.all (fun c => decide (c < 90))

/-- CRST_RELEASE: the rising edge of CRST_N (R82, R516). -/
def crstRelease (d : Dev) : Dev :=
  if !d.chain.crstLow then d
  else
    let d := d.setChain (fun c => { c with crstLow := false })
    let d := if d.chain.tripHold && d.coolEnough then d.setChain (fun c => { c with tripHold := false }) else d
    if d.inReset then d else d.release

/-! Address assignment (R82 to R87). -/

/-- Is the number of ones in the low n bits odd? -/
def oddOnes (w n : Nat) : Bool := ((List.range n).filter (bit w)).length % 2 == 1

/-- The ten bits of a token that carries an address: a start bit, the seven bits of ADDR, odd parity over them, a stop
bit of 0 (R83). -/
def tokenOf (a : Nat) : BitVec 10 := BitVec.ofNat 10 (1 + 2 * (a % 128) + b2n (!oddOnes (a % 128) 7) * 2 ^ 8)

/-- A token leaves on CADDR_OUT, which rests at its stop bit's 0 (R83). -/
def sendToken (d : Dev) (a : Nat) : Dev :=
  (d.emit (.addressToken (tokenOf a))).setChain (fun c => { c with caddrOut := bit (tokenOf a).toNat 9 })

/-- The unit takes an address and starts the next token (R84, R106). The address is the low byte of the reset value of
TS_CLOCK_ID_LO (R12, R477). -/
def takeAddress (d : Dev) (a : Nat) : Dev :=
  let d := d.setChain (fun c => { c with addr := .done })
  let d := d.setFlds [(R.CH_CHAIN_ADDR_ADDR, a), (R.CH_CHAIN_ADDR_ENUM_DONE, 1), (⟨R.TS_CLOCK_ID_LO, 7, 0⟩, a)]
  d.sendToken (a + 1)

/-- Enumeration fails (R85): address 0, ENUM_ERR. -/
def enumFail (d : Dev) (code : Nat) : Dev :=
  (d.setChain (fun c => { c with addr := .done })).setFlds [(R.CH_CHAIN_STATUS_ENUM_ERR, code), (R.CH_CHAIN_ADDR_ENUM_DONE, 1)]

/-- CADDR_SAMPLE (R82). -/
def caddrSample (d : Dev) (high : Bool) : Dev :=
  if d.chain.addr ≠ .released then d
  else if high then d.takeAddress 1
  else d.setChain (fun c => { c with addr := .waitToken })

/-- ADDRESS_TOKEN: ten bits, bit 0 first (R83 to R85). Without a start bit it is no token. An ADDR of 0 or 1 is no
address that R84 lets a unit take. -/
def addressToken (d : Dev) (t : Nat) : Dev :=
  if d.chain.addr ≠ .waitToken ∨ !bit t 0 then d
  else
    let a := bits t 7 1
    if !oddOnes (bits t 8 1) 8 || bit t 9 then d.enumFail 3
    else if 64 ≤ a then (d.enumFail 1).sendToken 64
    else if 2 ≤ a then d.takeAddress a
    else d

/-- ENUM_TIMEOUT (R85). -/
def enumTimeout (d : Dev) : Dev := if d.chain.addr = .waitToken then d.enumFail 2 else d

/-! The staggered start (R87, R95, R96, R115). -/

/-- May a step start now? The control and PCI Express steps run from the release; the others need an address. -/
def stepAllowed (d : Dev) (p : PowerStep) : Bool :=
  !d.inReset && d.chain.addr != .held &&
    (match p with
     | .control => true
     | .pcie => true
     | _ => d.unitAddr != 0)

/-- STAGGER_STEP_START (R95). -/
def stepStart (d : Dev) (p : PowerStep) : Dev :=
  if d.stepAllowed p && !d.chain.started.contains p then d.setChain (fun c => { c with started := c.started ++ [p] }) else d

/-- What completing a step shows (R115, R187). -/
def stepShow (d : Dev) (p : PowerStep) : Dev :=
  let up := fun (d : Dev) (b : Nat) => d.setFld ⟨R.SY_BRINGUP, b, b⟩ 1
  let stack := fun (n : Nat) => (up d (4 + n)).setFld (R.FS_STATE_TRAINED n) 1
  match p with
  | .control => (d.setChain (fun c => { c with controlUp := true })).wakeStart
  | .pcie => up d 12
  | .fs0 => stack 0
  | .fs1 => stack 1
  | .fs2 => stack 2
  | .fs3 => stack 3
  | .ring => up d 8
  | .cartridge => up d 9
  | .display => up d 10

/-- STAGGER_STEP_DONE: READY follows the last step of a unit with an address (R95, R96). -/
def stepDone (d : Dev) (p : PowerStep) : Dev :=
  if !d.chain.started.contains p then d
  else
    let d := (d.setChain (fun c => { c with started := c.started.filter (· != p) })).stepShow p
    let all := bits (d.get R.SY_BRINGUP).toNat 12 4 == 0x17F && d.chain.controlUp
    if all && d.unitAddr != 0 then d.setFld R.SY_BRINGUP_READY 1 else d

/-! Chain frames (R89 to R94). -/

/-- A load cause of R94 drives CERR_N low. -/
def cerr (d : Dev) : Dev := d.setChain (fun c => { c with cerrLoad := true })

/-- A frame's header is for this unit: DEST is its address, or 0 with an address held (R92). -/
def frameForUs (d : Dev) (dest : Nat) : Bool := d.unitAddr != 0 && (dest == d.unitAddr || dest == 0)

/-- Is a frame that this unit loads being received? -/
def frameOpen (d : Dev) : Bool := d.loader.phase == .receiving && d.loader.source != .pcie

/-- SYNC as its 32 bits (R90). -/
def syncWord : Nat := 0x5AA53CC3

/-- Hunt for SYNC on each bit (R91): the bits after it, or the last 32 bits seen. -/
def hunt : Nat → List Bool → Nat ⊕ List Bool
  | last, [] => .inl last
  | last, b :: t =>
    let now := (2 * last + b2n b) % 2 ^ 32
    if now = syncWord then .inr t else hunt now t

/-- Eight bits as a byte, the most significant first (R90). -/
def byteOfBits (l : List Bool) : Byte := BitVec.ofNat 8 (l.foldl (fun a b => 2 * a + b2n b) 0)

/-- The bits of bytes as they are sent (R90). -/
def bitsOf (l : List Byte) : List Bool := l.flatMap (fun b => (List.range 8).map (fun k => bit b.toNat (7 - k)))

/-- The first n bytes of a bit list of at least 8 n bits. -/
def bytesOf : Nat → List Bool → List Byte
  | 0, _ => []
  | n + 1, l => byteOfBits (l.take 8) :: bytesOf n (l.drop 8)

/-- Does a frame end at TOTAL_LEN: are MAGIC, HDR_CRC and TOTAL_LEN of its image header valid (R91)? -/
def headerTells (h : List Byte) : Bool :=
  field h 0 4 == 0x49504641 && field h 0x3C 4 == crc32 (slice h 0 0x3C) && imgTotal h % 8 == 0 &&
    decide (128 ≤ imgTotal h ∧ imgTotal h ≤ 32768) && decide (64 + 16 * imgSections h ≤ imgTotal h)

def track (d : Dev) (x : ChainRx) : Dev := d.setChain (fun c => { c with rx := x })

/-- Hunting starts anew, from the next bit (R91). -/
def huntAgain (d : Dev) : Dev := d.track (.hunt 0xFFFFFFFF)

/-- CMD, DEST and their complements have come (R91, R92): no frame; or a frame that this unit tracks, and loads where
it is for it and the unit and its loader are free to. -/
def frameHeader (d : Dev) (cmd dest cmdInv destInv : Byte) : Dev :=
  if cmdInv ≠ ~~~cmd ∨ destInv ≠ ~~~dest ∨ cmd ≠ 1 then (d.event R.CH_CHAIN_STATUS [2]).huntAgain
  else
    let d := (d.count R.CH_CHAIN_FRAMES_SEEN 1 R.CH_CHAIN_STATUS_STAT_SAT).track (.image false [] 0 [])
    if !d.frameForUs dest.toNat then d
    else if !d.ready then (d.event R.CH_CHAIN_STATUS [3]).cerr
    else if d.chSafe then d.loadEvent 3
    else
      let src := if dest = 0 then LoadSource.broadcast else .unicast
      if d.loader.phase ≠ .idle then d.loadErr src (headerErr 0x73)
      else
        let d := (d.count R.CH_CHAIN_FRAMES_LOADED 1 R.CH_CHAIN_STATUS_STAT_SAT).loadOpen src
        (d.setChain (fun c => { c with cerrLoad := false })).track (.image true [] 0 [])

/-- Image bytes of a tracked frame, no more than it still takes (R91): `head` holds those of the header that have
come, `left` how many are to come once the header is complete. A frame that this unit loads passes them to its
loader. -/
def frameBytes (d : Dev) (load : Bool) (head : List Byte) (left : Nat) (bytes : List Byte) : Dev :=
  let d := d.when' (load && d.frameOpen) (fun d => d.loadBytes bytes)
  if head.length < 64 then
    let head := head ++ bytes
    if head.length < 64 then d.track (.image load head 0 [])
    else if headerTells head then d.track (.image load head (imgTotal head - 64) [])
    else d.huntAgain
  else if left = bytes.length then d.huntAgain
  else d.track (.image load head (left - bytes.length) [])

/-- Track bits of the chain (R91). Each round finds SYNC, takes a frame's header, or takes its image bytes; `fuel` is
more than the rounds that the bits allow. -/
def trackBits (d : Dev) : Nat → List Bool → Dev
  | 0, _ => d
  | _, [] => d
  | fuel + 1, l =>
    match d.chain.rx with
    | .hunt last =>
      match hunt last l with
      | .inl last => d.track (.hunt last)
      | .inr rest => trackBits (d.track (.header [])) fuel rest
    | .header got =>
      let all := got ++ l.take (32 - got.length)
      if all.length < 32 then d.track (.header all)
      else
        match bytesOf 4 all with
        | [cmd, dest, cmdInv, destInv] => trackBits (d.frameHeader cmd dest cmdInv destInv) fuel (l.drop (32 - got.length))
        | _ => d
    | .image load head left got =>
      let want := if head.length < 64 then 64 - head.length else left
      let all := got ++ l
      let n := min want (all.length / 8)
      if n = 0 then d.track (.image load head left all)
      else trackBits (d.frameBytes load head left (bytesOf n all)) fuel (all.drop (8 * n))

/-- The bits of a chain frame: SYNC, CMD, DEST, their complements, the image (R90). -/
def frameBits (cmd dest cmdInv destInv : Byte) (image : List Byte) : List Bool :=
  bitsOf ([0x5A, 0xA5, 0x3C, 0xC3, cmd, dest, cmdInv, destInv] ++ image)

/-- CHAIN_FRAME: the frame's bits come, are driven on CDOUT one for one, and are tracked (R89 to R92). In reset CDOUT
is 1 (R80). -/
def chainFrame (d : Dev) (cmd dest cmdInv destInv : Byte) (image : List Byte) : Dev :=
  if d.inReset then d
  else
    let l := frameBits cmd dest cmdInv destInv image
    let d := (d.emit (.chainBits l)).setChain (fun c => { c with cdout := l.getLastD true })
    d.trackBits (l.length + 1) l

/-- CHAIN_STALL: no CCLK edge for 10 ms. A frame that this unit loads ends with STALL and E_ABORTED; a unit that
tracks a frame hunts again (R94). -/
def chainStall (d : Dev) : Dev :=
  let d := d.when' d.frameOpen (fun d => ((d.event R.CH_CHAIN_STATUS [4]).cerr).loadFail aborted)
  match d.chain.rx with
  | .hunt _ => d
  | _ => d.huntAgain

/-- CERR_RELEASE (R94, R108). -/
def cerrRelease (d : Dev) : Dev := d.setChain (fun c => { c with cerrLoad := false })

/-- Does this unit drive CERR_N low (R85, R94)? It is released while CRST_N is low (R80). -/
def cerrDrive (d : Dev) : Bool := !d.inReset && (d.flag R.CH_CHAIN_STATUS_ENUM_ERR || d.chain.cerrLoad)

/-- Does this unit pull CDONE low (R80, R87, R93)? -/
def cdoneLow (d : Dev) : Bool :=
  d.inReset ||
    (if d.unitAddr = 0 then !d.flag R.CH_CHAIN_STATUS_ENUM_ERR
     else !d.ready || (d.loader.phase != .idle && d.loader.source != .pcie))

end Dev

end Sys2Proof.Machine
end

