-- ==== Sys2Proof/Machine/Electrical.lean ====
section
/-!
DEFINITION. Thermal response, management port and test port (R516 to R519).
-/
namespace Sys2Proof.Machine
namespace Dev

def setBoard (d : Dev) (f : BoardSt → BoardSt) : Dev := { d with board := f d.board }

/-- The hottest logic sensor. -/
def hottest (l : List Int) : Int := l.foldl max (l.headD 0)

/-- THERMAL_UPDATE: the nine logic sensors are read (R516, R517). In POR nothing is updated. -/
def thermalUpdate (d : Dev) (temps : List Int) : Dev :=
  let d := d.setBoard (fun b => { b with logicC := temps })
  if d.chain.power = .por then d
  else
    let t := hottest temps
    d.setFlds [(R.SY_THERMAL_TJ_C, unsigned 8 t), (R.SY_THERMAL_WARN, b2n (decide ((d.fld R.SY_THERMAL_WARN_C : Int) ≤ t)))]

/-- THERMAL_TRIP: TRIPPED, and the CRST state, held (R516). POR governs (R522). -/
def thermalTrip (d : Dev) : Dev :=
  if d.chain.power = .por then d
  else ((d.setFld R.SY_THERMAL_TRIPPED 1).setChain (fun c => { c with tripHold := true })).crstCore

/-- HOT: the temperature of stack n (R187, R191, R516). -/
def stackHot (d : Dev) (n : Nat) (c : Int) : Dev :=
  (d.setBoard (fun b => { b with stackC := b.stackC.set n c })).stackTemp n c

/-- A byte of the management port (R518). -/
def mgmtByte (d : Dev) (p : Nat) : Byte :=
  BitVec.ofNat 8 (match p with
    | 0x00 => 0x84
    | 0x01 => 0x16
    | 0x02 => 0xB1
    | 0x03 => d.unitAddr
    | 0x04 => b2n d.ready + 2 * b2n d.configured + 4 * d.fld R.SY_THERMAL_WARN + 8 * d.fld R.SY_THERMAL_TRIPPED +
        16 * b2n d.cerrDrive
    | 0x05 => d.fld R.SY_THERMAL_TJ_C
    | 0x06 => unsigned 8 (d.board.stackC.getD 0 0)
    | 0x07 => unsigned 8 (d.board.stackC.getD 1 0)
    | 0x08 => unsigned 8 (d.board.stackC.getD 2 0)
    | 0x09 => unsigned 8 (d.board.stackC.getD 3 0)
    | _ => 0xFF)

/-- MGMT_WRITE: the pointer is the first data byte modulo 16 (R518). The start condition sets wake latch 54. -/
def mgmtWrite (d : Dev) (data : List Byte) : Dev :=
  if d.chain.power = .por then d
  else
    let d := d.wakeEdge 54
    match data with
    | [] => d
    | b :: _ => d.setBoard (fun x => { x with ptr := b.toNat % 16 })

/-- MGMT_READ (R518). -/
def mgmtRead (d : Dev) : Dev :=
  if d.chain.power = .por then d
  else
    let d := d.wakeEdge 54
    (d.emit (.mgmtByte (d.mgmtByte d.board.ptr))).setBoard (fun b => { b with ptr := (b.ptr + 1) % 16 })

/-! The test port (R519). -/

/-- Select an instruction, with what its data register captures. -/
def tapSelect (d : Dev) (t : TapInstr) (shift : Nat) : Dev := d.setBoard (fun b => { b with tap := t, shift := shift })

/-- IDCODE (R519). -/
def idcode : Nat := 0xB841654F

/-- The boundary register as a number, cell 0 in bit 0. -/
def cellsNat (l : List Bool) : Nat := l.foldr (fun b a => b2n b + 2 * a) 0

/-- TAP_RESET: IDCODE is selected. -/
def tapReset (d : Dev) : Dev := d.tapSelect .idcode idcode

/-- EXTEST. -/
def tapExtest (d : Dev) : Dev := d.tapSelect .extest (cellsNat d.board.boundary)

/-- SAMPLE/PRELOAD: the cells capture the pins, and what is shifted in preloads the boundary register. -/
def tapSample (d : Dev) (pins data : BitVec 180) : Dev :=
  (d.tapSelect .samplePreload pins.toNat).setBoard
    (fun b => { b with boundary := (List.range 180).map (fun i => data.getLsbD i) })

/-- Do the pins follow the boundary register (R519)? -/
def tapDrives (d : Dev) : Bool := d.board.tap == .extest || d.board.tap == .clamp || d.board.tap == .highz

end Dev

end Sys2Proof.Machine
end

