-- ==== Sys2Proof/Machine/RegIface.lean ====
section
/-!
DEFINITION. The register interface (chapter 04): what a read returns, how a written value is stored, locks, bus
errors, sequence clearing, indirect reads, configuration parity. What a write of a register does in its block is in
`RegWrite.lean`.
-/
namespace Sys2Proof.Machine

/-- Is the register access-effect (R125)? -/
def accessEffect (addr : Nat) : Bool :=
  let rel := addr % 0x10000
  match blockOfSlot (addr / 0x10000) with
  | some (.FS, _) => rel == 0xFF4
  | some (.RP, _) => rel == 0xFF4
  | some (.CP, _) => rel == 0xFF4
  | some (.IC, _) => rel == 0xFF4 || (decide (0x200 ≤ rel ∧ rel < 0x300) && (rel % 16 == 4 || rel % 16 == 8))
  | some (.CH, _) => rel == 4
  | _ => false

/-- Is the register of a row an RS register (R142)? -/
def RegRow.isRs (r : RegRow) : Bool := r.fields.any (·.ty == .seq)

/-- v held within lo and hi. -/
def clampNat (lo hi v : Nat) : Nat := max lo (min hi v)

/-- An S8 value held within lo and hi, as its pattern. -/
def clampS8 (lo hi : Int) (v : Nat) : Nat := unsigned 8 (max lo (min hi (signed 8 v)))

/-- The bits of IC_PEND_w and IC_EN_w that belong to assigned sources (R495). -/
def assignedMask (w : Nat) : Nat := (List.range 32).foldl (fun a b => a + b2n (assigned (32 * w + b)) * 2 ^ b) 0

/-- The value that a write of v to the RW field at bit `lo` of a register stores, where the spec bounds it (R109,
R192, R206, R236, R285, R293, R328, R329, R337, R403, R433, R437, R445, R448, R477, R479, R480, R500, R517). -/
def storeAdjust (b : Block) (rel lo v : Nat) : Nat :=
  match b with
  | .SY => if rel = 0xC0 then min v 114 else v
  | .CH => if rel = 0x2C then min v 12 else v
  | .GV => if rel = 0x04 ∧ lo = 0 then max v 0x10 else if rel = 0x08 then max v 8 else v
  | .CL => if rel = 0 then max v 1 else v
  | .IC => if rel < 0x100 then v &&& assignedMask (rel % 0x80 / 4) else if 0x400 ≤ rel ∧ rel < 0x480 ∧ lo = 0 then max v 1 else v
  | .TS =>
    if rel = 0 ∧ lo = 16 then clampNat 1 1000 v
    else if rel = 0x300 ∨ rel = 0x340 then
      (match lo with
       | 24 => clampNat 2 10 v | 16 => clampS8 (-3) 3 v | 8 => clampS8 (-3) 2 v | 0 => clampS8 (-7) 0 v | _ => v)
    else v
  | .EV => if rel % 64 = 0 ∧ rel < 0xC00 ∧ lo = 16 then min v 23 else v
  | .SH =>
    if rel = 0 then (if lo = 16 then max v 10 else v)
    else if rel = 0x0C then (if lo = 0 then min v 23 else v)
    else if 0x100 ≤ rel ∧ rel < 0x180 then
      (match rel % 16 with | 0 => min v 100000 | 4 => min v 100000 | 12 => max v 9236 | _ => v)
    else if 0x180 ≤ rel ∧ rel < 0x198 then max v 64
    else v
  | .CP => if rel = 0x1C then clampNat 10 60000 v else v
  | .CN => if rel < 0x200 ∧ lo = 16 then min v 0x8000 else v
  | .HD =>
    if rel % 0x100 = 0x18 ∧ rel < 0x200 then clampNat 1 64 v
    else if (rel = 0x240 ∨ rel = 0x280) ∧ lo = 8 then max v 1
    else v
  | .DP => if rel = 0x38 ∧ lo = 16 then clampNat 400 3200 v else v
  | .LE => if rel % 0x100 = 0x44 ∧ rel < 0x200 then min v 0x8000 else v
  | _ => v

namespace Dev

/-- Can the block of a slot not be used yet (R87, R96)? -/
def slotHeld (d : Dev) (slot : Nat) : Bool :=
  match blockOfSlot slot with | some (b, _) => d.blockHeld b | none => false

/-! Reads. -/

/-- The register that an offset below 0x0080_0000 reaches: the 3D LUT window shows the bank PAGE names (R261). -/
def physical (d : Dev) (addr : Nat) : Nat :=
  match blockOfSlot (addr / 0x10000) with
  | some (.HD, n) => if decide (0x8000 ≤ addr % 0x10000) && d.flag (R.HD_L3_PAGE_PAGE n) then addr + l3Bank else addr
  | _ => addr

/-- The fields of a clearing entry (R196). -/
def clearingView (d : Dev) (c k : Nat) : List (Nat × Nat × Nat) :=
  match d.clearings.find? (·.number == c) with
  | none => [(31, 0, 0)]
  | some e =>
    match k with
    | 0 => [(31, 31, 1), (19, 16, e.owner), (8, 8, e.half), (7, 0, e.attr)]
    | 1 => [(31, 0, e.base)]
    | 2 => [(31, 0, e.size)]
    | _ => [(15, 0, e.ringTag)]

/-- The engines that feed heads over the bridge, in slot order (R240). -/
def bridgeEngines (d : Dev) : List Nat := (List.range 64).filter d.fp.bridged

/-- Four bytes as a word, lowest first. -/
def packBytes (l : List Nat) : Nat := l.foldr (fun b a => b % 256 + 256 * a) 0

/-- The wiring registers of a canopy half (R256). -/
def canopyView (d : Dev) (x rel : Nat) : List (Nat × Nat × Nat) :=
  if 0x200 ≤ rel ∧ rel < 0x280 then
    match d.fp.nodeRec (32 * x + (rel - 0x200) / 4) with
    | some r => [(24, 24, 1), (18, 16, r.head), (15, 8, r.inB), (7, 0, r.inA)]
    | none => [(24, 24, 0), (18, 16, 0), (15, 0, 0xFFFF)]
  else if rel = 0x300 then
    [(31, 0, packBytes ((List.range 4).map (fun i =>
      let c := d.fp.cap (4 * x + i)
      if c.mode = 1 then c.root else 0xFF)))]
  else if rel = 0x310 ∨ rel = 0x314 then
    [(31, 0, packBytes ((List.range 4).map (fun i =>
      match d.bridgeEngines[(rel - 0x310) + i]? with
      | some l => 0x80 + l
      | none => 0)))]
  else []

/-- The target state registers (R498, R499). -/
def targetView (d : Dev) (t : Nat) : List (Nat × Nat × Nat) :=
  let x := d.icTarget t
  [(31, 31, b2n x.fault), (30, 30, b2n x.line), (28, 24, x.stack.length),
   (23, 16, match x.stack with | e :: _ => e.prio | [] => 0),
   (9, 0, if x.fault then x.faultSrc else match x.stack with | e :: _ => e.src | [] => 0x3FF)]

/-- KY's fuse-state registers, from the OTP shadow (R396, R406). -/
def keyView (d : Dev) (rel : Nat) : List (Nat × Nat × Nat) :=
  if rel = 0 then [(1, 1, b2n d.shadow.progDisable), (0, 0, b2n d.shadow.requireSigned)]
  else if rel = 0x100 then [(25, 0, d.shadow.programmed)]
  else if rel = 0x104 then [(23, 0, d.shadow.revoked)]
  else if 0x400 ≤ rel ∧ rel < 0x600 then
    [(31, 0, field (d.shadow.page ((rel - 0x400) / 64)) ((rel - 0x400) % 64) 4)]
  else []

/-- The age of a calendar's seconds hint in ms (R478). -/
def hintAge (d : Dev) (x : Nat) : Nat :=
  match (d.cal x).hint with
  | none => 0xFFFF
  | some h => min 0xFFFF (rawSince d.raw h.raw / 800000)

/-- Has an engine an output pixel within its head's active raster, in a format that is not reserved (R197, R201,
R221)? -/
def engineVisible (d : Dev) (l h : Nat) : Bool :=
  let c := d.leCfg l 0
  let t := d.raster h
  !c.planes.isEmpty && decide ((c.visible t.hact).1 < (c.visible t.hact).2) &&
    decide ((-c.dstY).toNat < min c.dstH ((t.vact : Int) - c.dstY).toNat)

/-- Does an engine fetch for a running head (LEnn_STATUS.ACTIVE)? -/
def engineActive (d : Dev) (l : Nat) : Bool :=
  d.flag (R.LE_CTRL_ENABLE l) && !d.flattened l &&
    (match d.fp.leRec l with | some r => d.headRunning r.head && d.engineVisible l r.head | none => false)

/-- The fields that the device shows rather than stores: what a block reads elsewhere (structure in force, pins,
levels, counters, fuses, safe states). Triples: high bit, low bit, value. -/
def views (d : Dev) (b : Block) (n rel : Nat) : List (Nat × Nat × Nat) :=
  let safe := fun (k : Nat) => [(k, k, b2n (d.isSafe (b.base + n)))]
  match b with
  | .CH => if rel = 0x24 then
      [(10, 10, b2n (!(d.cdoneLow || Config.otherCdoneLow d.raw))),
       (9, 9, b2n (d.cerrDrive || Config.otherCerrLow d.raw)), (8, 8, b2n d.cerrDrive)] else []
  | .GV => if rel = 0x10 then safe 8 else []
  | .CL =>
    if rel = 8 then [(14, 0, d.fs.inflight.length)]
    else if 0x1000 ≤ rel ∧ rel < 0x2000 then d.clearingView ((rel - 0x1000) / 16) (rel % 16 / 4) else []
  | .FS => if rel = 0 then safe 1 else []
  | .IC =>
    if rel = 0x100 then safe 8
    else if rel = 0x108 then
      [(15, 0, (List.range 16).foldl (fun a t => a + b2n (d.icTarget t).fault * 2 ^ t) 0)]
    else if 0x200 ≤ rel ∧ rel < 0x300 ∧ rel % 16 = 12 then d.targetView ((rel - 0x200) / 16)
    else if 0x404 ≤ rel ∧ rel < 0x480 then [(15, 15, b2n (d.coal ((rel - 0x400) / 4)).isOpen)]
    else if 0x1000 ≤ rel ∧ rel < 0x2000 then
      let s := (rel - 0x1000) / 4
      [(24, 24, b2n (d.levelOf s)), (19, 16, d.fp.target s)]
    else []
  | .TS =>
    if rel = 0x10 then [(31, 0, d.raw)]
    else if rel = 0x14 then [(31, 0, d.raw / 2 ^ 32)]
    else if rel = 0x140 ∨ rel = 0x1C0 then [(15, 0, d.hintAge (if rel = 0x140 then 0 else 1))]
    else []
  | .SH =>
    if rel = 4 then safe 17
    else if rel = 0x210 ∨ rel = 0x250 then
      let p := (rel - 0x210) / 0x40
      if d.flag (R.SH_ALM_STATE_RUNNING p) then [(7, 0, (d.almNow p).1)] else []
    else []
  | .RP => if rel = 4 then safe 18 else []
  | .AS => if rel = 4 then safe 8 else []
  | .KY => d.keyView rel
  | .BX => if rel = 4 then safe 19 else []
  | .CN => d.canopyView n rel
  | .HD => if rel = 0x208 then [(23, 21, d.lockState n)] else if rel = 0x21C ∧ (d.head n).ticking then
      [(13, 0, d.pixelNow n)] else []
  | .DP =>
    if 0x100 ≤ rel ∧ rel < 0x180 ∧ d.flag (R.DP_DSC_CTRL_EN n) then
      [(31, 0, leNat ((List.range 4).map (fun i => d.ppsByte n (rel - 0x100 + i))))]
    else []
  | .LE =>
    if rel = 0x200 then [(16, 16, b2n (d.engineActive n))]
    else if rel = 0x20C then [(15, 0, match d.fp.leRec n with | some r => r.cacheKib | none => 0)]
    else if rel = 0x210 then
      (match d.fp.leRec n with
       | some r => [(8, 8, b2n (d.fp.bridged n)), (7, 7, 1), (2, 0, r.head)]
       | none => [(8, 0, 0)])
    else []
  | _ => []

/-- What a read of the register at a BAR0 offset returns, its effects apart (R8, R12). -/
def regRead (d : Dev) (addr : Nat) : Word :=
  let w := (d.get (d.physical addr)).toNat
  match blockOfSlot (addr / 0x10000) with
  | some (b, n) => BitVec.ofNat 32 ((d.views b n (addr % 0x10000)).foldl (fun w v => setBits w v.1 v.2.1 v.2.2) w)
  | none => 0

/-! Locks (R145, R146). -/

/-- The RW bits of a register that are locked now: ENABLE of an engine that no record maps (R197), RATE and LANES of
an enabled link (R338), PIXCLK and the DSC settings of a head that is not stopped (R307, R343), DSC without
DSC_ALLOWED. -/
def lockedBits (d : Dev) (b : Block) (n rel : Nat) : Nat :=
  match b with
  | .HD => if rel = 0x210 ∧ d.headRunning n then 0xFFFFF else 0
  | .DP =>
    if rel = 0 then (if d.flag (R.DP_LINK_CTRL_ENABLE n) then 0x33 else 0)
    else if rel = 0x70 then (if d.headRunning n then 0xFFFFFFFF else if bit (d.fp.cap n).flags 0 then 0 else 1)
    else if rel = 0x74 then (if d.headRunning n then 0xFFFFFFFF else 0)
    else 0
  | .LE => if (rel = 0 ∨ rel = 0x100) ∧ (d.fp.leRec n).isNone then 1 else 0
  | _ => 0

/-- A write reached a locked field with a value that differs from the stored one (R145). `log`: the BAR0 offset. -/
def lockViolation (d : Dev) (log : Nat) : Dev :=
  let d := if d.flag R.SY_FAULT_STATUS_LOCK_VIOLATION then d else d.setFld R.SY_LOCK_ADDR_ADDR log
  d.count R.SY_LOCK_COUNT_COUNT 1 R.SY_FAULT_STATUS_STAT_SAT [R.SY_FAULT_STATUS_LOCK_VIOLATION]

/-- The bits of a register that a write cannot change and must agree with: WO, floorplan-owned and locked RW bits. -/
def heldBits (d : Dev) (r : RegRow) (b : Block) (n rel : Nat) : Nat :=
  (r.mask .wo ||| r.mask .fp) ||| (r.mask .rw &&& d.lockedBits b n rel)

/-- The word that a write of the bits in `m` of `w` leaves in the RW fields of a row, every other bit as stored. A
field that the write does not touch keeps its value; one that it touches is stored within its bounds. -/
def newWord (r : RegRow) (b : Block) (rel held old w m : Nat) : Nat :=
  r.fields.foldl (fun acc f =>
    let fm := bits m f.hi f.lo
    let free := fm &&& (2 ^ (f.hi + 1 - f.lo) - 1 - bits held f.hi f.lo)
    if f.ty = .rw ∧ free ≠ 0 then
      let ov := bits old f.hi f.lo
      let v := (ov &&& (2 ^ (f.hi + 1 - f.lo) - 1 - free)) ||| (bits w f.hi f.lo &&& free)
      setBits acc f.hi f.lo (storeAdjust b rel f.lo v)
    else acc) old

/-! Bus errors (R121 to R127). -/

/-- SY_BUSERR_INFO codes (R158). -/
def barCode : Bar → Nat
  | .bar0 => 0 | .bar2 => 1 | .bar4 => 2 | .ring => 3

/-- SIZE. The table has no code for a 32-bit word with byte enables that are not contiguous; the model records 2, 32
bits (DESIGN CHOICE, log entry 86). -/
def sizeCode : AccessKind → Nat
  | .w8 => 0 | .w16 => 1 | .w24 => 4 | .w32 => 2 | .sparse _ => 2 | .long _ => 3

/-- One bus error (R126): counted, and recorded if BUS_ERROR was clear. -/
def busError (d : Dev) (a : BusAccess) (off cause : Nat) : Dev :=
  let d := if d.flag R.SY_FAULT_STATUS_BUS_ERROR then d else
    d.setFlds [(R.SY_BUSERR_INFO_BAR, barCode a.bar), (R.SY_BUSERR_INFO_WRITE, b2n a.write),
      (R.SY_BUSERR_INFO_SIZE, sizeCode a.kind), (R.SY_BUSERR_INFO_CAUSE, cause), (R.SY_BUSERR_ADDR_ADDR, off)]
  d.count R.SY_BUSERR_COUNT_COUNT 1 R.SY_FAULT_STATUS_STAT_SAT [R.SY_FAULT_STATUS_BUS_ERROR]

end Dev

/-- The BAR0 offset that an offset in BAR0 or from the ring reaches: bit 23 is ignored (R118). -/
def decodeBar0 (off : Nat) : Nat := off % 0x800000

/-- Slot, register offset and bit of a BAR2 offset (R139), its slot's top bit ignored (R120). -/
def decodeBar2 (off : Nat) : Nat × Nat := (bits off 23 17 * 0x10000 + bits off 16 7 * 4, bits off 6 2)

/-- Is the offset in the clearing windows of CL (R122)? -/
def inWindow (addr : Nat) : Bool := addr / 0x10000 == 3 && decide (0x8000 ≤ addr % 0x10000)

/-- Is the access misaligned, or are its byte enables forbidden (R123)? A request of more than 64 bits is a train of
32-bit accesses (R124). -/
def badLanes (k : AccessKind) (off : Nat) : Bool :=
  match k with
  | .w8 => false
  | .w16 => off % 2 == 1
  | .w24 => true
  | .w32 => off % 4 != 0
  | .sparse _ => true
  | .long n => if n = 2 then off % 8 != 0 else off % 4 != 0

def narrow (k : AccessKind) : Bool := match k with | .w8 => true | .w16 => true | _ => false

/-- The cause of the bus error that one part of an access raises, in the order of R127; none: no bus error. -/
def busCause (a : BusAccess) (off : Nat) : Option Nat :=
  match a.bar with
  | .bar4 =>
    if badLanes a.kind a.offset then some 4
    else if a.write && (a.kind == .w8 || (a.kind == .w16 && off % 4 != 0)) then some 3 else none
  | .bar2 =>
    let p := decodeBar2 off
    if (blockOfSlot (p.1 / 0x10000)).isNone then some 1
    else if badLanes a.kind a.offset then some 4
    else match rowOf p.1 with
      | none => some 2
      | some r =>
        if accessEffect p.1 || (a.write && r.isRs) then some 5
        else if a.write && narrow a.kind then some 3 else none
  | _ =>
    let addr := decodeBar0 off
    if inWindow addr then none
    else if (blockOfSlot (addr / 0x10000)).isNone then some 1
    else if badLanes a.kind a.offset then some 4
    else match rowOf (addr / 4 * 4) with
      | none => some 2
      | some _ =>
        if accessEffect (addr / 4 * 4) && narrow a.kind then some 6
        else if a.write && narrow a.kind then some 3 else none

namespace Dev

/-! Sequence clearing (R142, R143). -/

/-- Clear event bits of an RS register. Clearing CFG_PARITY releases T15 (R148). -/
def clearEvents (d : Dev) (addr evs : Nat) : Dev :=
  let d := d.set addr (d.get addr &&& ~~~ (BitVec.ofNat 32 evs))
  if addr = R.SY_FAULT_STATUS then d.icUpdate none else d

/-- A write to an RS register (R143). `log`: the BAR0 offset. -/
def rsWrite (d : Dev) (r : RegRow) (addr log : Nat) (w : Word) : Dev :=
  if (bits w.toNat 31 24) = bits (d.get addr).toNat 31 24 then
    let evs := w.toNat &&& r.mask .rs
    if evs = 0 then d else d.clearEvents addr evs
  else
    (d.setFld R.SY_STALE_ADDR_ADDR log).count R.SY_STALE_CLEAR_STALE_CLEAR 1 R.SY_FAULT_STATUS_STAT_SAT

/-! Indirect reads (R132, R133). -/

/-- Does the block of a slot own RX registers (R131)? -/
def hasRx (slot : Nat) : Bool := match blockOfSlot slot with | some (b, _) => !b.rxRows.isEmpty | none => false

def indAddr (slot : Nat) : Fld := ⟨slot * 0x10000 + 0xFF0, 15, 2⟩
def indStride (slot : Nat) : Fld := ⟨slot * 0x10000 + 0xFF0, 23, 16⟩

/-- Start the fetch of a slot's oldest held read, from the address that IND_ADDR now holds. -/
def indBegin (slot a : Nat) : List IndRead → List IndRead
  | [] => []
  | r :: t => if r.slot = slot then { r with addr := some (r.addr.getD a) } :: t else r :: indBegin slot a t

/-- IND_DATA_READ: the read is held while its word is fetched (R132). -/
def indRead (d : Dev) (slot : Nat) (answer : Bool) : Dev :=
  if hasRx slot then
    { d with indFetch := indBegin slot (4 * d.fld (indAddr slot)) (d.indFetch ++ [⟨slot, none, answer⟩]) }
  else d

/-- A fetch ends: the completion leaves with its word, and ADDR advances (R132). -/
def indEnd (d : Dev) (slot : Nat) (w : Word) (timeout noaddr : Bool) : Dev :=
  match d.indFetch.find? (·.slot == slot) with
  | none => d
  | some r =>
    let d := d.setFlds [(⟨slot * 0x10000 + 0xFF8, 1, 1⟩, b2n timeout), (⟨slot * 0x10000 + 0xFF8, 0, 0⟩, b2n noaddr)]
    let d := d.when' r.answer (fun d => d.emit (.readData (slot * 0x10000 + 0xFF4) w))
    let d := d.setFld (indAddr slot) (d.fld (indAddr slot) + d.fld (indStride slot))
    { d with indFetch := indBegin slot (4 * d.fld (indAddr slot)) (d.indFetch.eraseP (·.slot == slot)) }

/-- Is the island of a slot's RX registers held in reset (R133)? IC's lie in AON, which runs. -/
def rxHeld (d : Dev) (slot : Nat) : Bool := d.slotHeld slot && slot != Block.IC.base

/-- IND_FETCH_DONE: the word at the fetched address, or all ones with NOADDR (R133). An island held in reset gives no
word: its fetch ends with IND_FETCH_TIMEOUT. -/
def indDone (d : Dev) (slot : Nat) : Dev :=
  match d.indFetch.find? (·.slot == slot) with
  | some ⟨_, some a, _⟩ =>
    if d.rxHeld slot then d
    else match rxRow (slot * 0x10000 + a) with
      | some _ => d.indEnd slot (d.getRx slot a) false false
      | none => d.indEnd slot 0xFFFFFFFF false true
  | _ => d

/-- IND_FETCH_TIMEOUT (R133). -/
def indTimeout (d : Dev) (slot : Nat) : Dev := d.indEnd slot 0xFFFFFFFF true false

/-! Configuration parity (R147 to R150). -/

/-- A block enters its safe state (R149): what it stops at once. Its outputs follow the safe state elsewhere. -/
def enterSafe (d : Dev) (slot : Nat) : Dev :=
  if d.isSafe slot then d
  else
    let d := { d with safe := d.safe ++ [slot] }
    match blockOfSlot slot with
    | some (.GV, _) => d.stopSurfaces (fun _ => true)
    | some (.CH, _) => d.loadSafe
    | some (.BX, n) => d.bxSafe n
    | some (.CP, n) => d.asPortLost n 1
    | some (.AS, _) => d.asSafe
    | some (.SH, _) => (List.range 4).foldl (fun d k => if d.rqBusy k then d.endChannel k 12 else d) d
    | some (.TS, _) => (List.range 2).foldl (fun d x => if d.calState x = 2 then d.enterState x 3 else d) d
    | some (.EV, _) => (List.range 48).foldl settlePin d
    | some (.IC, _) => d.icUpdate none
    | _ => d

/-- The sweep finds a mismatch in a register (R148). -/
def parityFault (d : Dev) (a : Nat) : Dev :=
  let slot := slotOf a
  let d := { d with faulted := d.faulted.filter (· != a) ++ [a] }
  let d := d.enterSafe slot
  let d := if d.flag R.SY_FAULT_STATUS_CFG_PARITY then d else
    d.setFlds [(R.SY_PARITY_LOC_SLOT, slot), (R.SY_PARITY_LOC_OFFSET, a % 0x10000)]
  let d := d.count R.SY_PARITY_COUNT_COUNT 1 R.SY_FAULT_STATUS_STAT_SAT [R.SY_FAULT_STATUS_CFG_PARITY]
  let d := if paritySource slot = 2 then d else d.edge (paritySource slot)
  d.icUpdate none

/-- PARITY_SWEEP: one 1 ms period of the sweep checks every register, so a mismatch that stands is found again (R148). -/
def paritySweep (d : Dev) : Dev := d.badParity.foldl parityFault d

/-- PARITY_INJECT: the stored parity of byte 0 of the register that TARGET names is inverted (R150). A register that
holds parity, but none in byte 0, is reported all the same (DESIGN CHOICE, log entry 28). -/
def parityInject (d : Dev) : Dev :=
  let a := d.physical (d.fld R.SY_PARITY_CTRL_TARGET * 4)
  match rowOf a with
  | some r =>
    if !r.hasParity then d
    else if d.badParity.contains a then { d with badParity := d.badParity.filter (· != a) }
    else { d with badParity := d.badParity ++ [a] }
  | none => d

end Dev

end Sys2Proof.Machine
end

