-- ==== Sys2Proof/Machine/RegWrite.lean ====
section
/-!
DEFINITION. What a write of a register does (R129): the fields that are stored, and the effect in the block that the
owning chapter gives. Every way in (host, bit alias, compatibility window, ring) ends here.
-/
namespace Sys2Proof.Machine

/-- The RW bits that a write's own effect stores, because a chapter makes the stored value depend on the block's state
or ties more to it than the store. -/
def ownBits (b : Block) (rel : Nat) : Nat :=
  match b with
  | .CH => if rel = 4 then 0xFFFFFFFF else 0
  | .IC => if rel < 0x80 ∨ (0x200 ≤ rel ∧ rel < 0x300 ∧ rel % 16 = 8) then 0xFFFFFFFF else 0
  | .TS =>
    if rel = 0 then 1
    else if rel = 0x110 ∨ rel = 0x190 ∨ rel = 0x138 ∨ rel = 0x1B8 then 0xFFFFFFFF else 0
  | .EV => if rel % 64 = 0 then 7 else 0
  | .SH => if 0x400 ≤ rel ∧ rel < 0x600 ∧ rel % 0x20 = 0 then 1 else 0
  | .CP => if rel = 0 then 1 else 0
  | .HD => if rel = 0x218 then 1 else 0
  | .DP => if rel = 0 ∨ rel = 0x40 then 0x100 else 0
  | _ => 0

/-- Do a block's registers shape pixels, so that the lines in progress go on to the pixel at the output before a write
(R129, R221)? -/
def Block.shown : Block → Bool
  | .LE => true
  | .CN => true
  | .HD => true
  | _ => false

/-- A write as its effect sees it: the register's stored word before, the word asked for in the RW fields, the bits
written, the WP bits written as 1. -/
structure Written where
  old : Nat
  new : Nat
  mask : Nat
  trig : Nat
  deriving DecidableEq, Repr

namespace Written

/-- Did the write touch a bit? -/
def hits (x : Written) (k : Nat) : Bool := bit x.mask k

/-- Did the write trigger WP bit k? -/
def fires (x : Written) (k : Nat) : Bool := bit x.trig k

/-- The triggered WP bits below n, lowest first. -/
def fired (x : Written) (n : Nat) : List Nat := (List.range n).filter x.fires

end Written

namespace Dev

/-- Soft resets of several blocks by one write; the refused ones raise SRST_REFUSED once (R101, R142). -/
def srstMany (d : Dev) (bs : List SoftBlock) : Dev :=
  let no := bs.filter d.srstRefused
  let d := (bs.filter (fun b => !no.contains b)).foldl srst d
  if no.isEmpty then d else d.event R.SY_RESET_CAUSE [3]

/-- SY (R111 to R113, R150). -/
def writeSY (d : Dev) (rel : Nat) (x : Written) : Dev :=
  if rel = 0x44 then (x.fired 8).foldl hrst d
  else if rel = 0x48 then d.srstMany ((x.fired 20).filterMap (softBlocks[·]?))
  else if rel = 0x4C then d.srstMany ((x.fired 32).filterMap (fun k => softBlocks[20 + k]?))
  else if rel = 0x50 then d.srstMany ((x.fired 32).filterMap (fun k => softBlocks[52 + k]?))
  else if rel = 0xA8 then d.when' (x.fires 31) parityInject
  else d

/-- CH (R65 to R68, R108). ABORT acts before START. -/
def writeCH (d : Dev) (rel : Nat) (x : Written) : Dev :=
  if rel = 0 then (d.when' (x.fires 1) loadAbort).when' (x.fires 0) loadStart
  else if rel = 4 then d.loadData (BitVec.ofNat 32 x.new)
  else if rel = 0x28 then d.when' (x.fires 0) cerrRelease
  else d

/-- GV (R275, R283, R285). -/
def writeGV (d : Dev) (rel : Nat) (x : Written) : Dev :=
  if rel = 0 then d.when' (x.hits 0 && !bit x.new 0) flatDisable
  else if rel = 4 then d.gvRefresh
  else if rel = 0x0C then (x.fired 4).foldl relearn d
  else d

/-- CL (R193). -/
def writeCL (d : Dev) (rel : Nat) (x : Written) : Dev := if rel = 0x0C then d.when' (x.fires 0) tagHwReset else d

/-- FSn (R190). -/
def writeFS (d : Dev) (n rel : Nat) (x : Written) : Dev :=
  if rel = 0x60 then d.when' (x.fires 0) (fun d => d.latReset n) else d

/-- IC (R484 to R493, R500). -/
def writeIC (d : Dev) (rel : Nat) (x : Written) : Dev :=
  if rel < 0x80 then d.icPendWrite (rel / 4) (BitVec.ofNat 32 x.new)
  else if rel < 0x100 then d.icUpdate none
  else if rel = 0x110 then ((x.fired 32).foldl openGroup d).icUpdate none
  else if 0x200 ≤ rel ∧ rel < 0x300 then
    let t := (rel - 0x200) / 16
    if rel % 16 = 0 then (d.when' (x.fires 8) (fun d => d.icTargetReset t)).icUpdate none
    else if rel % 16 = 8 then d.icComplete t x.new
    else d
  else if rel = 0x508 then (x.fired 32).foldl wakeClear d
  else if rel = 0x50C then (x.fired 32).foldl (fun d w => d.wakeClear (32 + w)) d
  else if 0x1000 ≤ rel ∧ rel < 0x2000 then d.icUpdate none
  else if 0x2000 ≤ rel ∧ rel < 0x3000 ∧ rel % 16 = 12 then d.releaseVectors
  else d

/-- One calendar's registers (R459, R463, R467, R478). SET acts before STEP. -/
def writeCal (d : Dev) (c rel : Nat) (x : Written) : Dev :=
  if rel = 0 then d.when' (x.old != x.new) (fun d => d.instanceStart c)
  else if rel = 0x10 then d.rateWrite c x.new
  else if rel = 0x1C then
    (d.when' (x.fires 0) (fun d => d.steppingCal c (·.calSet c))).when' (x.fires 1) (fun d => d.steppingCal c (·.calStep c))
  else if rel = 0x38 then d.hintWrite c x.new
  else if rel = 0x50 then d.bmca c
  else d

/-- TS (R458 to R467). -/
def writeTS (d : Dev) (rel : Nat) (x : Written) : Dev :=
  if rel = 0 then d.when' (x.hits 0) (fun d => d.activeWrite (x.new % 2))
  else if rel = 8 then d.when' (x.fires 0) snap
  else if 0x100 ≤ rel ∧ rel < 0x180 then d.writeCal 0 (rel - 0x100) x
  else if 0x180 ≤ rel ∧ rel < 0x200 then d.writeCal 1 (rel - 0x180) x
  else if rel = 0x300 ∨ rel = 0x340 then d.when' (bit x.old 31 != bit x.new 31) (fun d => d.portEnable ((rel - 0x300) / 0x40))
  else d

/-- Event pins (R469 to R473). MODE acts first, then DISARM, ARM and POP. -/
def writeEV (d : Dev) (rel : Nat) (x : Written) : Dev :=
  let n := rel / 64
  if rel % 64 = 0 then
    let d := d.when' (x.mask % 8 != 0) (fun d => d.evMode n (x.new % 8))
    let d := d.settlePin n
    let d := d.when' (x.fires 31) (fun d => d.evDisarm n)
    let d := d.when' (x.fires 30) (fun d => d.evArm n)
    d.when' (x.fires 29) (fun d => d.evPop n)
  else d

/-- SH (R420 to R440). CANCEL acts before CHANGE, ABORT before GO. -/
def writeSH (d : Dev) (rel : Nat) (x : Written) : Dev :=
  if rel = 0x0C then d.when' (x.fires 31) noticeTx
  else if rel = 0x10 then d.when' (x.fires 31) rmtGo
  else if 0x100 ≤ rel ∧ rel < 0x180 then d.resetBuckets ((rel - 0x100) / 16)
  else if rel = 0x200 ∨ rel = 0x240 then
    let p := (rel - 0x200) / 64
    (d.when' (x.fires 30) (fun d => d.almCancel p)).when' (x.fires 31) (fun d => d.almChange p)
  else if 0x400 ≤ rel ∧ rel < 0x600 ∧ rel % 0x20 = 0 then
    d.when' (x.hits 0) (fun d => d.strEnable ((rel - 0x400) / 0x20) (bit x.new 0))
  else if 0x600 ≤ rel ∧ rel < 0x700 ∧ rel % 0x20 = 0 then
    d.when' (x.fires 1) (fun d => d.sourceTrigger ((rel - 0x600) / 0x20))
  else if 0x700 ≤ rel ∧ rel < 0x780 ∧ rel % 0x20 = 0 then
    let k := (rel - 0x700) / 0x20
    (d.when' (x.fires 1) (fun d => d.rqAbort k)).when' (x.fires 0) (fun d => d.rqGo k)
  else d

/-- RPn (R409, R446). -/
def writeRP (d : Dev) (n rel : Nat) (x : Written) : Dev :=
  if rel = 0 then d.when' (x.fires 8 || !bit x.new 0) (fun d => d.rpLinkDown n) else d

/-- AS (R387, R400). -/
def writeAS (d : Dev) (rel : Nat) (x : Written) : Dev :=
  if 0x400 ≤ rel ∧ rel < 0x800 ∧ rel % 0x80 = 0 then
    let k := (rel - 0x400) / 0x80
    if x.fires 0 && x.fires 1 then d.asAbortGo k
    else (d.when' (x.fires 1) (fun d => d.asAbort k)).when' (x.fires 0) (fun d => d.asGo k)
  else d

/-- A port step that may end the port's jobs (R378). -/
def cpThen (d : Dev) (n : Nat) (f : Dev → Dev × Option Nat) : Dev :=
  let r := f d
  match r.2 with
  | some code => r.1.asPortLost n code
  | none => r.1

/-- CPn (R375, R402). -/
def writeCP (d : Dev) (n rel : Nat) (x : Written) : Dev :=
  if rel = 0 then
    let d := d.when' (x.hits 0) (fun d => d.cpThen n (fun d => d.cpEnable n (bit x.new 0)))
    (d.when' (x.fires 1) (fun d => d.cpRestart n)).when' (x.fires 2) (fun d => d.logRefresh n)
  else d

/-- BXn (R353, R365). ABORT acts before RESUME. -/
def writeBX (d : Dev) (n rel : Nat) (x : Written) : Dev :=
  if rel = 0 then
    ((d.when' (x.fires 2) (fun d => d.bxAbort n)).when' (x.fires 1) (fun d => d.bxResume n)).bxShow n
  else if rel = 0x0C then d.when' (x.fires 0) (fun d => d.bxSubmit n)
  else d

/-- A staged register of head n's bank has been written (R220, R301): an armed commit is checked again. -/
def stagedWrite (d : Dev) (n : Nat) (engines : List Nat) : Dev := d.recheck n engines

/-- Blend nodes (R238, R280, R301). -/
def writeCN (d : Dev) (n rel : Nat) (_ : Written) : Dev :=
  if rel < 0x80 then d.liveChange (0x40 + 32 * n + rel / 4)
  else if 0x100 ≤ rel ∧ rel < 0x180 then
    (match d.fp.nodeRec (32 * n + (rel - 0x100) / 4) with
     | some r => d.stagedWrite r.head []
     | none => d)
  else d

/-- HDn (R244, R264, R295 to R319). START acts before STOP, CANCEL before ARM. -/
def writeHD (d : Dev) (n rel : Nat) (x : Written) (addr : Nat) (locked : Bool) : Dev :=
  if (0x100 ≤ rel ∧ rel < 0x200) ∨ (0xD00 ≤ rel ∧ rel < 0xD40) then d.stagedWrite n []
  else if rel = 0x200 then
    (d.when' (x.fires 0) (fun d => d.headStart n)).when' (x.fires 1) (fun d => d.headStop n)
  else if rel = 0x204 then
    (d.when' (x.fires 1) (fun d => d.headCancel n)).when' (x.fires 0) (fun d => d.headArm n)
  else if rel = 0x218 then d.when' (x.hits 0) (fun d => d.leaderWrite n (bit x.new 0))
  else if rel = 0x240 then d.freezeEnable n (bit x.old 0)
  else if rel = 0x244 ∨ rel = 0x248 then d.updHead n (fun s => { s with moved := true })
  else if rel = 0x280 ∨ rel = 0x284 then d.tlockWritten n locked
  else if rel < 0x20 then d.when' (d.headRunning n) (fun d => d.reviveRes n)
  else if d.touchesBgOut n addr then d.updateBgOut n
  else d

/-- DPn (R334 to R347). STOP_AUTH acts before AUTH. -/
def writeDP (d : Dev) (n rel : Nat) (x : Written) : Dev :=
  if rel = 0 then d.when' (x.hits 8) (fun d => d.linkEnable n (bit x.new 8))
  else if rel = 4 then d.when' (x.fires 0) (fun d => d.train n)
  else if rel = 0x20 then d.when' (x.fires 31) (fun d => d.auxGo n)
  else if rel = 0x40 then d.when' (x.hits 8) (fun d => d.hpdEnable n (bit x.new 8))
  else if rel = 0x80 then
    (d.when' (x.fires 1) (fun d => d.hdcpStop n)).when' (x.fires 0) (fun d => d.hdcpStart n)
  else if rel = 0x200 then d.when' (x.fires 31) srmLoad
  else d

/-- ENABLE of engine n is turned on in a frame of its head: the frame counts (R231), and lines whose rows are missing
are transparent black (R221). -/
def engineOn (d : Dev) (n h : Nat) : Dev :=
  d.when' (d.head h).ticking (fun d => d.updEngine n (fun e => { e with fedLate := true, enabled := true }))

/-- A live write to engine n (R221, R264, R277, R280). -/
def engineWritten (d : Dev) (n rel : Nat) (on : Bool) : Dev :=
  match d.fp.leRec n with
  | none => d.liveChange n
  | some r =>
    let d := (d.liveChange n).when' on (fun d => d.engineOn n r.head)
    d.when' (decide (rel < 0x64) && d.headRunning r.head) (fun d => d.reviveRes r.head)

/-- LEnn (R220 to R222, R280). -/
def writeLE (d : Dev) (n rel : Nat) (x : Written) : Dev :=
  if rel < 0x64 ∨ 0x1000 ≤ rel then d.engineWritten n rel (rel == 0 && !bit x.old 0 && bit x.new 0)
  else if 0x100 ≤ rel ∧ rel < 0x164 then
    match d.fp.leRec n with
    | none => d
    | some r =>
      let d := d.when' (rel == 0x100 && (d.head r.head).image.isSome && !(d.head r.head).dirtyWritten.contains n)
        (fun d => d.updHead r.head (fun s => { s with dirtyWritten := s.dirtyWritten ++ [n] }))
      d.stagedWrite r.head [n]
  else d

/-- The effect of a write in its block, after the RW fields have been stored. -/
def writeEffect (d : Dev) (b : Block) (n rel : Nat) (x : Written) (addr : Nat) (locked : Bool) : Dev :=
  match b with
  | .SY => d.writeSY rel x
  | .CH => d.writeCH rel x
  | .GV => d.writeGV rel x
  | .CL => d.writeCL rel x
  | .FS => d.writeFS n rel x
  | .IC => d.writeIC rel x
  | .TS => d.writeTS rel x
  | .EV => d.writeEV rel x
  | .SH => d.writeSH rel x
  | .RP => d.writeRP n rel x
  | .AS => d.writeAS rel x
  | .KY => d.when' (rel == 0x200 && x.fires 31) kyGo
  | .CP => d.writeCP n rel x
  | .BX => d.writeBX n rel x
  | .CN => d.writeCN n rel x
  | .HD => d.writeHD n rel x addr locked
  | .DP => d.writeDP n rel x
  | .LE => d.writeLE n rel x

/-- A write of the bits `m` of `w` to the register at a BAR0 offset that is no RS register (R8, R129, R145). `log`:
the offset that a lock violation records. -/
def regWrite (d : Dev) (addr log w m : Nat) : Dev :=
  match blockOfSlot (addr / 0x10000) with
  | none => d
  | some (b, n) =>
    let rel := addr % 0x10000
    match rowIn b n rel with
    | none => d
    | some r =>
      if d.blockHeld b then d
      else
        let d := if b.shown then d.catchUp else d
        let held := d.heldBits r b n rel
        let phys := d.physical addr
        let old := (d.get phys).toNat
        let new := newWord r b rel held old w m
        let own := ownBits b rel
        let lock := b == .HD && d.flag (R.HD_TLOCK_CTRL_EN n) && d.tlockPeriod n != 0
        let clash := ((d.regRead addr).toNat ^^^ w) &&& (m &&& held)
        let d := if clash = 0 then d else d.lockViolation log
        let d := if r.mask .rw &&& m = 0 then d
          else (d.set phys (BitVec.ofNat 32 ((new &&& (0xFFFFFFFF - own)) ||| (old &&& own)))).renew phys (r.mask .rw &&& m)
        if (r.mask .rw ||| r.mask .wp) &&& m = 0 then d
        else d.writeEffect b n rel ⟨old, new, m, w &&& (m &&& r.mask .wp)⟩ phys lock

/-- A 32-bit write of the register at a BAR0 offset (R129, R143). -/
def writeWord (d : Dev) (addr log : Nat) (w : Word) : Dev :=
  match rowOf addr with
  | none => d
  | some r =>
    if !r.isRs then d.regWrite addr log w.toNat 0xFFFFFFFF
    else if d.slotHeld (addr / 0x10000) then d
    else d.rsWrite r addr log w

/-! The bit-alias space (R139 to R141). -/

/-- A write of v to an alias word. -/
def aliasWrite (d : Dev) (off : Nat) (v : Bool) : Dev :=
  let p := decodeBar2 off
  d.regWrite p.1 (bits off 24 17 * 0x10000 + bits off 16 7 * 4) (b2n v * 2 ^ p.2) (2 ^ p.2)

/-! The compatibility window (R151 to R156). -/

/-- The register that a BAR4 word maps, and the place of its 16 bits; none: not mapped (R151). -/
def compatTarget (d : Dev) (off : Nat) : Option (Nat × Nat) :=
  let k := off / 0x10000
  if k = 0 ∨ 4 < k then none
  else
    let n := k - 1
    let engine := (d.fp.engines n).head?
    match off % 0x10000 / 4 with
    | 0 => some (R.HD_TIMING_HACT n 1, 0)
    | 1 => some (R.HD_TIMING_VACT n 1, 0)
    | 2 => some (R.HD_BG_COLOR n 1, 0)
    | 3 => some (R.HD_BG_COLOR n 1, 16)
    | 4 => engine.map (fun l => (R.LE_SRC_BASE l 1 0, 0))
    | 5 => engine.map (fun l => (R.LE_SRC_BASE l 1 0, 16))
    | 8 => some (R.HD_COMMIT n, 0)
    | 9 => some (R.HD_STATUS n, 0)
    | _ => none

/-- An access to an unlisted BAR4 word is counted (R153). -/
def compatMiss (d : Dev) : Dev := d.count R.SY_COMPAT_MISS_COUNT 1 R.SY_FAULT_STATUS_STAT_SAT

/-- A write to a BAR4 word: 16 bits of data under a mask of 16 (R153 to R155). -/
def compatWrite (d : Dev) (off data mask : Nat) : Dev :=
  if off < 8 then d
  else match d.compatTarget off with
    | none => d.compatMiss
    | some (addr, lo) =>
      if mask = 0 then d
      else match rowOf addr with
        | none => d
        | some r =>
          if r.isRs && d.slotHeld (addr / 0x10000) then d
          else if r.isRs then
            let evs := (data &&& mask) <<< lo &&& r.mask .rs
            if evs = 0 then d else d.clearEvents addr evs
          else d.regWrite addr addr (data <<< lo) (mask <<< lo)

/-- A read of a BAR4 word (R151 to R153). -/
def compatRead (d : Dev) (off : Nat) : Dev × Nat :=
  if off < 4 then (d, 0x4208)
  else if off < 8 then (d, 0x8416)
  else match d.compatTarget off with
    | none => (d.compatMiss, 0)
    | some (addr, lo) => (d, bits (d.regRead addr).toNat (lo + 15) lo)

/-! Accesses (R116 to R127). -/

/-- A read of the register at a BAR0 offset, with its effect (R125): the word that its completion carries, or none for
the held read of an IND_DATA register (`answer`: does the request complete with data?). -/
def readWord (d : Dev) (addr : Nat) (answer : Bool) : Dev × Option Word :=
  if addr % 0x10000 = 0xFF4 then (d.indRead (addr / 0x10000) answer, none)
  else if addr / 0x10000 = 8 ∧ accessEffect addr ∧ addr % 16 = 4 then
    let r := d.claim ((addr % 0x10000 - 0x200) / 16)
    (r.1, some r.2)
  else (d, some (d.regRead addr))

/-- One part of a write that raises no bus error. -/
def writePart (d : Dev) (a : BusAccess) (off : Nat) (w : Word) : Dev :=
  match a.bar with
  | .bar2 => d.aliasWrite off (bit w.toNat 0)
  | .bar4 =>
    let mask := if a.kind == .w16 then 0xFFFF else bits w.toNat 31 16
    d.compatWrite (off % 0x100000) (w.toNat % 0x10000) mask
  | _ =>
    let addr := decodeBar0 off
    if inWindow addr then d.hostWindowWrite (addr % 0x10000) (toLe 4 w.toNat) (List.replicate 4 true)
    else d.writeWord addr (off % 0x1000000) w

/-- The lanes that a read returns (R123). -/
def lanes8 (k : AccessKind) (off w : Nat) : Nat :=
  match k with
  | .w8 => bits w (8 * (off % 4) + 7) (8 * (off % 4))
  | .w16 => bits w (8 * (off % 4) + 15) (8 * (off % 4))
  | _ => w

/-- One part of a read that raises no bus error. -/
def readPart (d : Dev) (a : BusAccess) (off : Nat) (answer : Bool) : Dev × Option Word :=
  let lane := fun (w : Nat) => BitVec.ofNat 32 (lanes8 a.kind off w)
  match a.bar with
  | .bar2 =>
    let p := decodeBar2 off
    (d, some (lane (b2n (bit (d.regRead p.1).toNat p.2))))
  | .bar4 =>
    let r := d.compatRead (off % 0x100000 / 4 * 4)
    (r.1, some (lane r.2))
  | _ =>
    let addr := decodeBar0 off
    if inWindow addr then (d.hostWindowRead (addr % 0x10000) 4, none)
    else
      let r := d.readWord (addr / 4 * 4) answer
      (r.1, r.2.map (fun w => lane w.toNat))

/-- The 32-bit parts of an access. A 64-bit access that is not at a multiple of 8 is one bus error as it stands
(R123). -/
def partCount (a : BusAccess) : Nat :=
  match a.kind with
  | .long n => if badLanes a.kind a.offset then 1 else n
  | _ => 1

/-- The bytes that an access to a clearing window moves. -/
def windowLen (a : BusAccess) : Nat :=
  match a.kind with
  | .w8 => 1 | .w16 => 2 | .w24 => 3 | .w32 => 4 | .sparse _ => 4 | .long n => 4 * n

/-- Go on with the accesses to CL that wait in order, as far as there are tags for them (R183, R184). -/
def hostPump : Nat → Dev → Dev
  | 0, d => d
  | fuel + 1, d =>
    if d.fs.hostReady then
      match d.fs.hostQueue with
      | [] => d
      | i :: t =>
        let d := { d with fs := { d.fs with hostQueue := t } }
        hostPump fuel (match i with | .reg a off w => d.writePart a off w | _ => d.hostPart i)
    else d

/-- Go on with the whole queue, and with the window reads that this finishes (R185). -/
def hostGo (d : Dev) : Dev := (hostPump d.fs.hostQueue.length d).finishHostReads

/-- HOST_WINDOW_READ (R183): before CL can be used a read completes with an abort (R87, R96). -/
def windowRead (d : Dev) (off len : Nat) : Dev :=
  if d.blockHeld .CL then d.emit (.windowAbort off) else (d.hostWindowRead off len).hostGo

/-- HOST_WINDOW_WRITE (R183): before CL can be used a write is lost (R87, R96). -/
def windowWrite (d : Dev) (off : Nat) (bytes : List Byte) (en : List Bool) : Dev :=
  if d.blockHeld .CL then d else (d.hostWindowWrite off bytes en).hostGo

/-- An access to a clearing window: any width and alignment (R122, R183). -/
def windowAccess (d : Dev) (a : BusAccess) : Dev :=
  let rel := decodeBar0 a.offset % 0x10000
  if !a.write then d.windowRead rel (windowLen a)
  else
    let bytes := (a.data.flatMap (fun w => toLe 4 w.toNat)).take (windowLen a)
    match a.kind with
    | .sparse en => d.windowWrite rel bytes ((List.range 4).map en.getLsbD)
    | _ => d.windowWrite rel bytes (bytes.map (fun _ => true))

/-- Does part `off` of an access reach a register of CL? -/
def atClearings (a : BusAccess) (off : Nat) : Bool :=
  match a.bar with
  | .bar4 => false
  | .bar2 => (decodeBar2 off).1 / 0x10000 == 3
  | _ => decodeBar0 off / 0x10000 == 3

/-- One part of a write, in order behind the window parts before it where it reaches CL (R184). -/
def writeInOrder (d : Dev) (a : BusAccess) (off : Nat) (w : Word) : Dev :=
  if atClearings a off && !d.fs.hostQueue.isEmpty
  then { d with fs := { d.fs with hostQueue := d.fs.hostQueue ++ [.reg a off w] } }
  else d.writePart a off w

/-- The completion of a register read leaves. A read of a CL register waits for the window writes before it (R185). -/
def regDeliver (d : Dev) (a : BusAccess) (off : Nat) (w : Word) : Dev :=
  let busy := d.fs.hostWrites
  if atClearings a off && !busy.isEmpty then { d with fs := { d.fs with held := d.fs.held ++ [⟨a, off, busy⟩] } }
  else d.emit (.readData off w)

/-- Complete the held reads of CL registers whose earlier window writes have completed (R185). -/
def finishHeld (d : Dev) : Dev :=
  let busy := d.fs.hostWrites
  let ready := d.fs.held.filter (fun h => h.writes.all (fun n => !busy.contains n))
  let d := { d with fs := { d.fs with held := d.fs.held.filter (fun h => !h.writes.all (fun n => !busy.contains n)) } }
  ready.foldl (fun d h =>
    let r := d.readPart h.access h.offset true
    match r.2 with
    | some w => r.1.emit (.readData h.offset w)
    | none => r.1) d

/-- A host access: each part takes effect or raises its bus error (R124, R126). A read with a part in error returns no
data; the endpoint reports one Completer Abort. -/
def access (d : Dev) (a : BusAccess) : Dev :=
  if a.bar != .bar2 && a.bar != .bar4 && inWindow (decodeBar0 a.offset) then d.windowAccess a
  else
    let offs := (List.range (partCount a)).map (a.offset + 4 * ·)
    let bad := offs.filterMap (busCause a)
    let one := fun (d : Dev) (p : Nat × Nat) =>
      match busCause a p.1 with
      | some c => d.busError a p.1 c
      | none =>
        if a.write then d.writeInOrder a p.1 (a.data.getD p.2 0)
        else
          let r := d.readPart a p.1 bad.isEmpty
          match r.2 with
          | some w => if bad.isEmpty then r.1.regDeliver a p.1 w else r.1
          | none => r.1
    let d := offs.zipIdx.foldl one d
    match bad with
    | c :: _ => d.emit (.abort a c)
    | [] => d

end Dev

end Sys2Proof.Machine
end

