-- ==== Sys2Proof/Machine/RingRx.lean ====
section
/-!
DEFINITION. What a received ring frame does (chapter 13): the checks of a port, routing, remote clearings and
registers, responses, notices, tiles.
-/
namespace Sys2Proof.Machine

/-- A frame that arrives with nothing to correct. -/
def cleanRx : RxQuality := ⟨true, 0, 0, [0, 0, 0, 0]⟩

/-- Is (KIND, SUBTYPE) listed in R412? -/
def knownKind (k s : Nat) : Bool :=
  (k == 3 && s == 0) || (k == 4 && decide (s ≤ 2)) || (k == 5 && decide (s ≤ 2)) || (k == 6 && s == 0) || (k == 7 && s == 0)

/-- Are the fields and the payload of a frame as R411 and R412 have them? A field for which R412 gives the value 0
must be 0 (DEDUCED, log entry 99). -/
def fieldsOk (f : RingFrame) : Bool :=
  let k := f.kind.toNat
  let s := f.subtype.toNat
  let arg0 := f.arg0.toNat
  decide (f.dest.toNat ≤ 63) && decide (1 ≤ f.src.toNat ∧ f.src.toNat ≤ 63) && (f.arg1 == 0 || k == 7) &&
  (if k = 3 then decide (f.tag.toNat ≤ 15) && f.dataLen == arg0 / 65536 * (arg0 % 65536)
   else if k = 4 ∧ s = 0 then arg0 == 0
   else if k = 4 ∧ s = 1 then decide (1 ≤ arg0 ∧ arg0 ≤ 9152) && f.length == 0
   else if k = 4 then f.dataLen == (if f.status = 0 then arg0 else 0)
   else if k = 5 then decide (f.offset.toNat < 0x1000000) && f.tag == 0 && (s != 1 || arg0 == 0) && f.length == 0
   else if k = 7 then decide (arg0 ≤ 23) && f.tag == 0 && f.offset == 0 && f.length == 0
   else f.length == 0)

/-- The header check of R416. -/
def headerOk (f : RingFrame) : Bool :=
  f.version == 1 && knownKind f.kind.toNat f.subtype.toNat && f.payload.length == f.length.toNat &&
  decide (f.length.toNat ≤ 9152) && fieldsOk f

namespace Dev

/-! Remote clearings (R417 to R419). -/

/-- The visible clearing with a RING_TAG (R413, R417). -/
def ringClearing (d : Dev) (tag : Nat) : Option Clearing :=
  d.clearings.find? (fun c => c.ringVisible && c.ringTag == tag)

/-- Check the whole range of a remote access (R418, R419): its clearing, or the STATUS of R413. `owner`: the frame's
OWNER, for a write. Refusals of R179 and of the owner are logged in CL (R417). -/
def remoteCheck (d : Dev) (p tag off len : Nat) (owner : Option Nat) : Dev × (Clearing ⊕ Nat) :=
  match d.ringClearing tag with
  | none => (d, .inr 1)
  | some c =>
    let q := probe p (c.base + off) owner.isSome
    if d.ringClosed c then (d.logRefusal q (4, c.number), .inr 1)
    else if c.size < off + len ∨ (owner.isNone ∧ c.isProtected ∧ 9136 < len) then (d, .inr 3)
    else match d.refusal (probe p c.base owner.isSome) with
      | some why => (d.logRefusal q why, .inr 2)
      | none =>
        if (match owner with | some o => o != c.owner | none => false) then (d.logRefusal q (1, c.number), .inr 2)
        else (d, .inl c)

/-- Send a response to a request frame (R412): it copies TXN_ID, OFFSET and, but for a REG_RSP, TAG. -/
def respond (d : Dev) (q : RingFrame) (kind sub status : Nat) (arg0 : BitVec 32) (owner : Nat) (guarded : Bool)
    (data : List Byte) : Dev :=
  let f := d.newFrame kind sub q.src.toNat
  let f := { f with
    txn := q.txn, tag := if kind = 5 then 0 else q.tag, offset := q.offset, arg0 := arg0, status := BitVec.ofNat 8 status,
    owner := BitVec.ofNat 8 owner, flags := BitVec.ofNat 8 (4 * b2n guarded),
    length := BitVec.ofNat 16 (data.length + 16 * b2n guarded), payload := data }
  let d := if kind = 5 then d.updSh (fun s => { s with kept := s.kept.filter (·.1 != q.src.toNat) ++ [(q.src.toNat, f)] })
    else d
  (d.sendFrame f).1

/-- Answer a register request (R421, R422); data of a clearing carries its OWNER (R417). -/
def respondReg (d : Dev) (q : RingFrame) (status : Nat) (w : Word) (owner : Nat) : Dev :=
  d.respond q 5 2 status w owner false []

/-- A tile has been written: its bytes count for its band (R428). -/
def tileWritten (d : Dev) (f : RingFrame) : Dev :=
  let m := f.tag.toNat
  let band := f.offset.toNat / 65536 / d.strBandRows m
  (d.updBand m f.frame.toNat band (fun b => { b with bytes := b.bytes + f.payload.length })).shCount R.SH_TILES_RX_COUNT []

/-- A tile is discarded (R428): counted, with an event of SH_STATUS where one belongs to the reason. -/
def tileLost (d : Dev) (evs : List Nat) : Dev := d.shCount R.SH_STALE_COUNT_COUNT evs

/-- The end of a service whose bursts have all ended: its answer (R418, R419, R422), or the count of a tile, written
or refused (R428). -/
def serviceEnd (d : Dev) (s : Service) : Dev :=
  let q := s.request
  let status := if s.denied then 2 else if s.poison then 5 else 0
  let data := s.ranges.flatMap (fun r => gatherRange s.data r.1 r.2)
  if q.kind = 3 then (if s.denied then d.tileLost [] else d.tileWritten q)
  else if q.kind = 5 then
    d.respondReg q status (if status = 0 ∧ q.subtype = 1 then BitVec.ofNat 32 (leNat data) else 0)
      (if status = 0 ∧ q.subtype = 1 then s.owner else 0)
  else if q.subtype = 0 then d.respond q 6 0 status (BitVec.ofNat 32 s.bytes) 0 false []
  else if status = 0 then d.respond q 4 2 0 q.arg0 s.owner s.guarded data
  else d.respond q 4 2 status q.arg0 0 false []

/-- Keep a service. -/
def keepService (d : Dev) (s : Service) : Dev :=
  d.updSh (fun x => { x with services := x.services.filter (·.key != s.key) ++ [s] })

/-- Issue the next of a service's writes, which take effect one after another (R418); it ends with its last burst, or
with the first that is refused. -/
def serviceGo (d : Dev) (s : Service) : Dev :=
  if s.due ≠ 0 then d.keepService s
  else
    let d := d.updSh (fun x => { x with services := x.services.filter (·.key != s.key) })
    match s.todo with
    | [] => d.serviceEnd s
    | q :: t =>
      if s.denied then d.serviceEnd s
      else
        let r := d.fsAccept q
        if r.2 = .tagged ∨ r.2 = .waits then r.1.keepService { s with due := 1, todo := t }
        else r.1.serviceEnd { s with denied := true }

/-- Begin a service whose bursts issue together: `mk` builds them for its key. -/
def serviceStart (d : Dev) (s : Service) (mk : Nat → List Request) : Dev :=
  let key := d.sh.nextKey
  let d := d.updSh (fun x => { x with nextKey := key + 1 })
  let r := d.issueAll (mk key)
  r.1.serviceGo { s with key := key, due := r.2.1, denied := s.denied || r.2.2 }

/-- Begin a service whose writes take effect in order (R418). -/
def serviceOrdered (d : Dev) (s : Service) (mk : Nat → List Request) : Dev :=
  let key := d.sh.nextKey
  (d.updSh (fun x => { x with nextKey := key + 1 })).serviceGo { s with key := key, todo := mk key }

/-- A burst of a service has ended. -/
def serviceStep (d : Dev) (key : Nat) (f : Service → Service) : Dev :=
  match d.sh.services.find? (·.key == key) with
  | none => d
  | some s => d.serviceGo (f { s with due := s.due - 1 })

/-- A service of a request at port p over byte ranges. -/
def newService (p : Nat) (q : RingFrame) (ranges : List (Nat × Nat)) : Service :=
  ⟨0, p, q, ranges, [], 0, 0, [], false, false, false, 0⟩

/-- A received WRITE (R418). -/
def remoteWrite (d : Dev) (p : Nat) (f : RingFrame) : Dev :=
  let off := f.offset.toNat
  let r := d.remoteCheck p f.tag.toNat off f.payload.length (some f.owner.toNat)
  match r.2 with
  | .inr st => r.1.respond f 6 0 st 0 0 false []
  | .inl c =>
    if f.poison then r.1.respond f 6 0 5 0 0 false []
    else r.1.serviceOrdered (newService p f [])
      (fun k => writeRequests (portRequester p) (c.base + off) f.payload (.ringWrite k))

/-- A received READ_REQ (R419). -/
def remoteRead (d : Dev) (p : Nat) (f : RingFrame) : Dev :=
  let off := f.offset.toNat
  let len := f.arg0.toNat
  let r := d.remoteCheck p f.tag.toNat off len none
  match r.2 with
  | .inr st => r.1.respond f 4 2 st f.arg0 0 false []
  | .inl c =>
    r.1.serviceStart { newService p f [(c.base + off, len)] with guarded := c.isProtected, owner := c.owner }
      (fun k => readRequests (portRequester p) (c.base + off) len (.ringRead k))

/-! Remote registers (R421, R422). -/

/-- Why a part of a ring access through a window is refused: the STATUS of R413 with what CL logs (R413, R417). A
protected clearing is not read through a window, since a REG_RSP cannot be sealed (R414; DESIGN CHOICE, log entry
100). -/
def windowRefusal (d : Dev) (p : Nat) (f : RingFrame) (a : Nat × Option (Nat × Nat)) : Option (Nat × Nat × Nat) :=
  let wr := f.subtype == 0
  match a.2 with
  | some why => some (if why.1 = 0 then 1 else if why.1 = 3 then 3 else 2, why)
  | none => match d.clearingAt a.1 with
    | none => some (1, 0, 0)
    | some c =>
      if d.ringClosed c then some (1, 4, c.number)
      else match d.refusal (probe p a.1 wr) with
        | some why => some (2, why)
        | none => if (if wr then c.owner != f.owner.toNat else c.isProtected) then some (2, 1, c.number) else none

/-- A register request of a clearing window: 32 bits through the window, for the port's requester (R183, R413, R417,
R422). A write that ends at offset 0x1FFF advances PAGE if its last part is accepted (R184). -/
def remoteWindow (d : Dev) (p : Nat) (f : RingFrame) (rel : Nat) : Dev :=
  let parts := (windowParts 5 rel 4).map (fun q => (d.windowMap q.1 q.2.1, q.2.2))
  match parts.findSome? (fun q => (d.windowRefusal p f q.1).map (fun w => (q.1.1, w))) with
  | some (a, st, why) => (d.logRefusal (probe p (a % 2 ^ 30) (f.subtype == 0)) why).respondReg f st 0 0
  | none =>
    let ranges := parts.map (fun q => (q.1.1, q.2))
    let bytes := toLe 4 f.arg0.toNat
    if f.subtype = 0 then
      let writes := fun k => ((ranges.foldl (fun (r : List Request × List Byte) q =>
        (r.1 ++ writeRequests (portRequester p) q.1 (r.2.take q.2) (.ringWrite k), r.2.drop q.2)) ([], bytes)).1)
      let last := match ranges.getLast? with | some q => q.1 | none => 0
      let ends := (rel - 0x8000 + 4) % 0x2000 == 0 && !d.isSafe (Block.FS.base + stackOf last)
      let d := if ends then d.pageAdvance (.hostWrite ((rel - 0x8000) / 0x2000) true 0) else d
      d.serviceOrdered (newService p f ranges) writes
    else
      let owner := match ranges.head?.bind (fun q => d.clearingAt q.1) with | some c => c.owner | none => 0
      d.serviceStart { newService p f ranges with owner := owner }
        (fun k => ranges.flatMap (fun q => readRequests (portRequester p) q.1 q.2 (.ringRead k)))

/-- Is the BAR0 offset one of the three registers of a block's indirect access? -/
def isInd (addr : Nat) : Bool := hasRx (addr / 0x10000) && [0xFF0, 0xFF4, 0xFF8].contains (addr % 0x10000 / 4 * 4)

/-- A received REG_WRITE or REG_READ (R421, R422). -/
def remoteReg (d : Dev) (p : Nat) (f : RingFrame) : Dev :=
  match d.sh.kept.find? (fun k => k.1 == f.src.toNat && k.2.txn == f.txn && f.retry) with
  | some k => (d.sendFrame k.2).1
  | none =>
    let wr := f.subtype == 0
    let off := f.offset.toNat
    let a : BusAccess := ⟨.ring, wr, .w32, off, if wr then [f.arg0] else []⟩
    let addr := decodeBar0 off
    if inWindow addr then d.remoteWindow p f (addr % 0x10000)
    else match (busCause a off).or (if isInd addr then some 2 else none) with
      | some c => (d.busError a off c).respondReg f 4 0 0
      | none =>
        if wr then (d.writePart a off f.arg0).respondReg f 0 0 0
        else
          let r := d.readPart a off true
          r.1.respondReg f 0 (r.2.getD 0) 0

/-! Responses (R420 to R422). -/

/-- A received READ_RSP (R420), on port p. Its data lands in the clearing that holds the piece. -/
def readRspRx (d : Dev) (p : Nat) (f : RingFrame) : Dev :=
  match d.requestOf f.txn with
  | some ⟨.piece k id, q, _⟩ =>
    if q.kind ≠ 4 ∨ q.subtype ≠ 1 then d
    else
      let d := d.endRequest f.txn
      match (d.channel k).pieces.find? (·.id == id) with
      | none => d
      | some x =>
        let own := probe (d.channel k).port x.addr true
        if f.status ≠ 0 then d.pieceEnd k id f.status.toNat
        else match d.clearingAt x.addr with
          | none => d.pieceEnd k id 11
          | some c =>
            if c.owner ≠ f.owner.toNat then (d.logRefusal own (1, c.number)).pieceEnd k id 11
            else
              let r := d.issueAll (writeRequests own.who x.addr f.payload (.channelWrite k id))
              if r.2.1 = 0 then r.1.pieceEnd k id (if r.2.2 then 11 else 0)
              else
                let d := r.1.updPiece k id (fun x => { x with phase := .writing, port := p, due := r.2.1, poison := r.2.2 })
                if r.2.2 && x.cmd == (d.channel k).cmd then d.failChannel k 11 else d
  | _ => d

/-- A received WRITE_ACK (R420). -/
def writeAckRx (d : Dev) (f : RingFrame) : Dev :=
  match d.requestOf f.txn with
  | some ⟨.piece k id, q, _⟩ =>
    if q.kind = 4 ∧ q.subtype = 0 then (d.endRequest f.txn).pieceEnd k id f.status.toNat else d
  | _ => d

/-- A received REG_RSP (R422). -/
def regRspRx (d : Dev) (f : RingFrame) : Dev :=
  match d.requestOf f.txn with
  | some ⟨.mailbox, q, _⟩ =>
    let d := d.endRequest f.txn
    let d := if q.subtype = 1 ∧ f.status = 0 then d.put R.SH_RMT_DATA f.arg0 else d
    d.rmtEnd f.status.toNat
  | _ => d

/-! Notices and tiles (R423, R428, R430). -/

/-- A received NOTICE (R423). -/
def noticeRx (d : Dev) (f : RingFrame) : Dev :=
  let n := f.arg0.toNat
  let d := d.setFlds [(R.SH_NOTICE_SRCn_SRC n, f.src.toNat), (R.SH_NOTICE_TIMEn_TIME n, f.arg1.toNat)]
  ((d.wrapAdd (R.SH_NOTICE_SRCn_COUNT n) 1).event R.SH_NOTICE_STATUS [n]).evNotice n f.arg1.toNat

/-- Write a tile into its stream's buffer (R428). -/
def tileWrite (d : Dev) (p m : Nat) (f : RingFrame) (c : Clearing) : Dev :=
  let row := f.offset.toNat / 65536
  let w := f.arg0.toNat % 65536
  let at0 := d.strBase m + f.frame.toNat % 2 * d.fld (R.SH_STR_BUF_STRIDE_STRIDE m) + f.offset.toNat % 65536
  let writes := fun (k : Nat) => (List.range (f.arg0.toNat / 65536)).flatMap (fun i =>
    writeRequests (portRequester p) (at0 + (row + i) * d.fld (R.SH_STR_PITCH_PITCH m)) (slice f.payload (i * w) w)
      (.ringWrite k))
  let why := if d.ringClosed c then some (4, c.number)
    else (d.refusal (probe p at0 true)).or (if c.owner ≠ f.owner.toNat then some (1, c.number) else none)
  match why with
  | some why => (d.logRefusal (probe p at0 true) why).tileLost []
  | none => d.serviceStart (newService p f []) writes

/-- A received TILE (R428, R430). -/
def tileRx (d : Dev) (p : Nat) (f : RingFrame) : Dev :=
  let m := f.tag.toNat
  let row := f.offset.toNat / 65536
  let byte := f.offset.toNat % 65536
  let rows := f.arg0.toNat / 65536
  let band := row / d.strBandRows m
  if !d.flag (R.SH_STR_CTRL_EN m) || decide (d.strRows m < row + rows) ||
      decide (d.strRowBytes m < byte + f.arg0.toNat % 65536) || decide (0 < rows ∧ (row + rows - 1) / d.strBandRows m ≠ band)
  then (d.rpDrop p 2 (some f.src.toNat)).tileLost []
  else if f.poison then d.event R.SH_STATUS [3]
  else
    let k := (f.frame.toNat + 65536 - d.strFrame m) % 65536
    if 32768 ≤ k then d.tileLost [1]
    else if 2 ≤ k then d.tileLost [2]
    else if k = 0 && (match (d.stream m).now[band]? with | some b => b.closed | none => false) then d.tileLost [1]
    else match d.strClearing m with
      | some c => d.tileWrite p m f c
      | none => d.tileLost []

/-! Receipt (R410, R415, R416). -/

/-- This unit consumes a device frame: a protected one is opened first (R414). -/
def consume (d : Dev) (p : Nat) (f : RingFrame) : Dev :=
  let plain := if f.isProtected then
      (d.ownerKey f.owner.toNat).bind (fun key => gcmOpen key f.iv.toNat (RingFrame.aad f) f.payload)
    else some f.payload
  match plain with
  | none => d.rpDrop p 6 (some f.src.toNat)
  | some data =>
    let f := { f with payload := data }
    match f.kind.toNat, f.subtype.toNat with
    | 3, _ => d.tileRx p f
    | 4, 0 => d.remoteWrite p f
    | 4, 1 => d.remoteRead p f
    | 4, _ => d.readRspRx p f
    | 5, 2 => d.regRspRx f
    | 5, _ => d.remoteReg p f
    | 6, _ => d.writeAckRx f
    | _, _ => d.noticeRx f

/-- A frame goes on by the other port (R415, R432). -/
def forward (d : Dev) (p : Nat) (f : RingFrame) : Dev :=
  if !d.linkUp (1 - p) then d.rpDrop p 8 (some f.src.toNat)
  else if !d.hasRoom (1 - p) (.device f) then d.rpDrop p 4 (some f.src.toNat)
  else d.pushItem (1 - p) (.device f)

/-- A device frame at SH: the checks, then the routing of R415. -/
def deviceRx (d : Dev) (p : Nat) (f : RingFrame) : Dev :=
  let src := some f.src.toNat
  if !d.configured then d.rpDrop p 3 src
  else if !headerOk f then d.rpDrop p 2 src
  else
    let f := { f with hops := BitVec.ofNat 8 (f.hops.toNat - 1) }
    let own := d.unitAddr
    if f.dest = 0 ∧ f.src.toNat = own then d
    else if f.dest.toNat = own then d.consume p f
    else if f.dest = 0 then
      let d := if f.hops = 0 then d else d.forward p f
      d.consume p f
    else if f.hops = 0 then d.rpDrop p 5 src
    else d.forward p f

/-- A time message at TS (R462 to R465). A tagged one, or one of another type, is dropped; Signaling and Management
are ignored. -/
def timeRx (d : Dev) (p : Nat) (tagged : Bool) (m : TimeFrame) : Dev :=
  if tagged then d.dropMsg p
  else match m with
    | .sync m => d.steppingServo (fun d => d.syncRx p m)
    | .followUp m => d.steppingServo (fun d => d.followUpRx p m)
    | .announce m => d.announceRx p m
    | .pdelayReq m => d.pdelayReqRx p m
    | .pdelayResp m => d.pdelayRespRx p m
    | .pdelayRespFollowUp m => d.pdelayFollowUpRx p m
    | .ignored => d
    | .other => d.dropMsg p

/-- Is a request of the front end one that waits for a tag? -/
def awaitsTag (d : Dev) (p : Purpose) : Bool := d.fs.waiting.any (fun r => r.purpose == p)

/-- Bytes of the frames in port p's receive buffer (R410): those whose writes the frame store has not all taken yet
(DESIGN CHOICE, log entry 54). -/
def rxBuffered (d : Dev) (p : Nat) : Nat :=
  ((d.sh.services.filter (fun s => s.port == p && (!s.todo.isEmpty || d.awaitsTag (.ringWrite s.key)))).map
    (·.request.bytes)).sum +
  ((List.range 4).map (fun k => (((d.channel k).pieces.filter (fun x =>
    x.phase == .writing && x.port == p && d.awaitsTag (.channelWrite k x.id))).map (fun x => 64 + x.len)).sum)).sum

/-- Bytes of a received frame, from the destination address through the frame check sequence; a frame of another
EtherType takes no room, since it is dropped at once. -/
def wireBytes : WireFrame → Nat
  | .time _ m => m.bytes
  | .device f => f.bytes
  | .other => 0

/-- The RS-FEC counters of port p (R447). -/
def fecCount (d : Dev) (p : Nat) (q : RxQuality) : Dev :=
  let add := fun (d : Dev) (c : Nat × Nat) =>
    let old := (d.getRx (Block.RP.base + p) c.1).toNat
    let new := min (old + c.2) (2 ^ 32 - 1)
    let d := if c.2 = 0 then d else d.setRx (Block.RP.base + p) c.1 (BitVec.ofNat 32 new)
    if old < 2 ^ 32 - 1 ∧ new = 2 ^ 32 - 1 then d.event (R.RP_STATUS p) [5] else d
  ([(0, q.corrected), (4, q.uncorrected)] ++ (q.symbols.take 4).zipIdx.map (fun (s : Nat × Nat) => (0x10 + 4 * s.2, s.1))).foldl add d

/-- RP_FRAME_RX (R410). A port whose link is down receives nothing. -/
def frameRx (d : Dev) (p : Nat) (q : RxQuality) (w : WireFrame) : Dev :=
  if !d.linkUp p then d
  else
    let sat : Fld := ⟨R.RP_STATUS p, 5, 5⟩
    let d := (d.fecCount p q).count64 (R.RP_RX_FRAMES p 0) (R.RP_RX_FRAMES p 1) 1 sat
    if !q.fcsOk then d.tally [(R.RP_FCS_ERR_COUNT p, 1), (R.RP_DROP_COUNT_COUNT p, 1)] [] sat [⟨R.RP_STATUS p, 2, 2⟩]
    else if 524288 < d.rxBuffered p + wireBytes w then
      d.rpDrop p 4 (match w with | .device f => some f.src.toNat | _ => none)
    else match w with
      | .time tagged m => d.timeRx p tagged m
      | .device f => d.deviceRx p f
      | .other => d.rpDrop p 7 none

end Dev

end Sys2Proof.Machine
end

