-- ==== Sys2Proof/Machine/Completion.lean ====
section
/-!
DEFINITION. What the completion of a frame-store request, or its late refusal, does for the engine that made it: the
delivery of R168, the poison of R173, the refusals of R180 and R540.
-/
namespace Sys2Proof.Machine

/-- Run an effect of a block of the unit; a block that cannot be used yet does nothing (R87, R96). -/
def onBlock (b : Block) (f : Dev → Dev) (s : State) : Result := onDev (fun d => if d.blockHeld b then d else f d) s

/-- Run an effect of a block that also touches the frame-store bytes. -/
def onBlockStore (b : Block) (f : Dev → List Host.Cell → Dev × List Host.Cell) (s : State) : Result :=
  onStore (fun d m => if d.blockHeld b then (d, m) else f d m) s

end Sys2Proof.Machine

namespace Sys2Proof.Machine.Dev

/-- A burst delivered to layer engine l: counted, with POISON where it is poisoned (R223, R232). -/
def leDelivered (d : Dev) (l : Nat) (poisoned : Bool) : Dev :=
  d.count64 (R.LE_BURSTS l 0) (R.LE_BURSTS l 1) 1 (R.LE_STATUS_STAT_SAT l) (if poisoned then [R.LE_STATUS_POISON l] else [])

/-- CL refuses a fetch of layer engine l (R180, R223). -/
def leRefused (d : Dev) (l : Nat) : Dev :=
  d.count (R.LE_REFUSED_COUNT_COUNT l) 1 (R.LE_STATUS_STAT_SAT l) [R.LE_STATUS_FETCH_REFUSED l]

/-- A read burst reaches its requester. Lines in progress go on first where it feeds pixels. -/
def readArrived (d : Dev) (q : Request) (a : Answer) : Dev :=
  match q.purpose with
  | .leFetch l id => (d.catchUp.leDelivered l a.poisoned).fetchDone l id (if a.poisoned then .poisoned else .held a.bytes)
  | .flatRead k gen row i => d.catchUp.readerArrived k gen row i a.poisoned a.bytes
  | .flatVerify k gen row i => d.verifyArrived k gen row i a.poisoned a.bytes
  | .hostRead id part => d.hostPartDone id part a.poisoned a.bytes
  | .bxRead n cmd => d.bxReadDone n cmd q.addr a.poisoned a.bytes
  | .ringRead key => d.serviceStep key (fun s => { s with
      poison := s.poison || a.poisoned, data := s.data ++ [(q.addr, a.bytes)] })
  | .channelRead k id => d.channelReadDone k id q.addr a.poisoned a.bytes
  | .sourceRead s => d.sourceDone s q.addr false a.poisoned a.bytes
  | .plain => (match q.who with | .le l => d.leDelivered l.val a.poisoned | _ => d)
  | _ => d

/-- A write burst of a requester has completed. -/
def writeTaken (d : Dev) (q : Request) (w : BurstWrite) : Dev :=
  match q.purpose with
  | .bxWrite n _ => d.bxWriteDone n w
  | .asWrite _ j _ => d.asWriteDone j w
  | .ringWrite key => d.serviceStep key (fun s => { s with bytes := s.bytes + enabledBytes w })
  | .channelWrite k id => d.channelStep k id false
  | _ => d

/-- A request that waited for a tag is refused: by CL, or (`safe`) by its stack. -/
def refusedLate (d : Dev) (q : Request) (safe : Bool) : Dev :=
  match q.purpose with
  | .leFetch l id =>
    let d := d.catchUp.fetchDone l id .refused
    if safe then d else d.leRefused l
  | .flatRead k gen row i => d.catchUp.surfReadRefused k gen row i
  | .flatVerify k gen row i => d.surfReadRefused k gen row i
  | .flatWrite k gen => d.flatRefused k gen
  | .hostRead id _ => d.hostPartRefused id
  | .hostWrite .. => d
  | .bxRead n cmd => d.bxRefused n cmd q.addr
  | .bxWrite n cmd => d.bxRefused n cmd q.addr
  | .asWrite l j chunk => d.asRefused l j chunk
  | .ringWrite key => d.serviceStep key (fun s => { s with denied := true })
  | .ringRead key => d.serviceStep key (fun s => { s with denied := true })
  | .channelRead k id => d.channelStep k id true
  | .channelWrite k id => d.channelStep k id true
  | .sourceRead s => d.sourceDone s q.addr true false []
  | .plain => (match q.who with | .le l => if safe then d else d.leRefused l.val | _ => d)

/-- Requests that waited for a tag take the tags that are free, oldest first (R165). -/
def drainTags (d : Dev) : Nat → Dev
  | 0 => d
  | fuel + 1 =>
    match d.fsNextWaiting with
    | none => d
    | some (d, q, .refused) => drainTags (d.refusedLate q false) fuel
    | some (d, q, .stackSafe) => drainTags (d.refusedLate q true) fuel
    | some (d, _, _) => drainTags d fuel

/-- A tag has become free: the requests that wait for one go on, then the accesses to CL that wait in order, and the
reads that these writes held up complete (R165, R183 to R185). -/
def tagFreed (d : Dev) : Dev := (d.drainTags d.fs.waiting.length).hostGo.finishHeld

/-- A stack grants a request: an AS write pays for its chunk (R398). -/
def granted (d : Dev) (q : Request) : Dev :=
  match q.purpose with
  | .asWrite l _ chunk => d.asGranted l chunk q.addr
  | _ => d

/-- The scan-out latency of a completion, where it is a scan-out request (R168, R273). -/
def sampleLatency (d : Dev) (q : Request) (latency : Nat) : Dev :=
  if q.scanout then (d.latMax (stackOf q.addr) latency).gvSample (stackOf q.addr) latency else d

/-- FS_READ_COMPLETE (R165, R168, R169). -/
def readComplete (d : Dev) (m : List Host.Cell) (tag : Nat) (errs : List WordError) (latency : Nat) :
    Dev × List Host.Cell :=
  let r := d.grantFor m tag errs
  let d := r.2.2.foldl granted r.1
  match d.complete tag false with
  | none => (d, r.2.1)
  | some (d, q, a) => (((d.sampleLatency q latency).readArrived q a).tagFreed, r.2.1)

/-- FS_WRITE_COMPLETE (R165, R169, R174). -/
def writeComplete (d : Dev) (m : List Host.Cell) (tag : Nat) (errs : List WordError) : Dev × List Host.Cell :=
  let r := d.grantFor m tag errs
  let d := r.2.2.foldl granted r.1
  match d.complete tag true with
  | none => (d, r.2.1)
  | some (d, q, _) =>
    let d := match q.write with
      | some w => d.writeTaken q w
      | none => d
    (d.tagFreed, r.2.1)

/-- FS_REQUEST: a request at the front end (R178, R180, R540). -/
def request (d : Dev) (q : Request) : Dev :=
  match d.fsAccept q with
  | (d, .refused) => d.refusedLate q false
  | (d, .stackSafe) => d.refusedLate q true
  | (d, _) => d

end Sys2Proof.Machine.Dev
end

