-- ==== Sys2Proof/Machine/CmdAssets.lean ====
section
/-!
DEFINITION. The meanings of the commands of asset streamer and keys (chapter 12): one definition for each.
-/
namespace Sys2Proof.Machine

/-- AS_JOB_GO (R387). -/
def execAsJobGo (k : Fin 8) (s : State) : Result := onBlock .AS (fun d => d.asGo k.val) s

/-- AS_JOB_ABORT (R400). -/
def execAsJobAbort (k : Fin 8) (s : State) : Result := onBlock .AS (fun d => d.asAbort k.val) s

/-- AS_JOB_START (R387). -/
def execAsJobStart (s : State) : Result := onBlock .AS (fun d => d.asStart) s

/-- AS_MANIFEST_CHECKED (R388). -/
def execAsManifestChecked (l : Fin 4) (s : State) : Result := onBlock .AS (fun d => d.asChecked l.val) s

/-- AS_CHUNK_REAP (R398). -/
def execAsChunkReap (l : Fin 4) (s : State) : Result := onBlock .AS (fun d => d.asReap l.val) s

/-- AS_CHUNK_DECODED (R391). -/
def execAsChunkDecoded (l : Fin 4) (s : State) : Result := onBlock .AS (fun d => d.asDecoded l.val) s

/-- AS_JOB_END (R387). -/
def execAsJobEnd (l : Fin 4) (s : State) : Result := onBlock .AS (fun d => d.asJobEnd l.val) s

/-- AS_LANE_ZEROED (R389). -/
def execAsLaneZeroed (l : Fin 4) (s : State) : Result := onBlock .AS (fun d => d.asZeroed l.val) s

/-- KY_PROGRAM (R395). -/
def execKyProgram (s : State) : Result := onBlock .KY (fun d => d.kyProgram) s

/-- KY_REVOKE (R395). -/
def execKyRevoke (s : State) : Result := onBlock .KY (fun d => d.kyRevoke) s

/-- KY_SET_CFG (R395). -/
def execKySetCfg (s : State) : Result := onBlock .KY (fun d => d.kySetCfg) s

/-- PROG_DONE (R395). -/
def execProgDone (ok : Bool) (s : State) : Result := onBlock .KY (fun d => d.progDone ok) s

end Sys2Proof.Machine
end

