-- ==== Sys2Proof/Machine/CmdBoard.lean ====
section
/-!
DEFINITION. The meanings of the commands of temperatures, management port and test port (chapters 05, 16): one
definition for each.
-/
namespace Sys2Proof.Machine

/-- THERMAL_UPDATE (R517). -/
def execThermalUpdate (temps : List Int) (s : State) : Result := onDev (fun d => d.thermalUpdate temps) s

/-- THERMAL_TRIP (R516). -/
def execThermalTrip (s : State) : Result := onDev (fun d => d.thermalTrip) s

/-- HOT (R187). -/
def execHot (n : Fin 4) (celsius : Int) (s : State) : Result := onBlock .FS (fun d => d.stackHot n.val celsius) s

/-- MGMT_WRITE (R518). -/
def execMgmtWrite (bytes : List Byte) (s : State) : Result := onDev (fun d => d.mgmtWrite bytes) s

/-- MGMT_READ (R518). -/
def execMgmtRead (s : State) : Result := onDev (fun d => d.mgmtRead) s

/-- TAP_RESET (R519). -/
def execTapReset (s : State) : Result := onDev (fun d => d.tapReset) s

/-- EXTEST (R519). -/
def execExtest (s : State) : Result := onDev (fun d => d.tapExtest) s

/-- SAMPLE_PRELOAD (R519). -/
def execSamplePreload (pins : BitVec 180) (data : BitVec 180) (s : State) : Result :=
  onDev (fun d => d.tapSample pins data) s

/-- IDCODE (R519). -/
def execIdcode (s : State) : Result := onDev (fun d => d.tapSelect .idcode Dev.idcode) s

/-- CLAMP (R519). -/
def execClamp (s : State) : Result := onDev (fun d => d.tapSelect .clamp 0) s

/-- HIGHZ (R519). -/
def execHighz (s : State) : Result := onDev (fun d => d.tapSelect .highz 0) s

/-- BYPASS (R519). -/
def execBypass (s : State) : Result := onDev (fun d => d.tapSelect .bypass 0) s

end Sys2Proof.Machine
end

