-- ==== Sys2Proof/Machine/CmdCopy.lean ====
section
/-!
DEFINITION. The meanings of the commands of block copy (chapter 11): one definition for each.
-/
namespace Sys2Proof.Machine

/-- BX_SUBMIT (R353). -/
def execBxSubmit (n : Fin 2) (s : State) : Result := onBlock .BX (fun d => d.bxSubmit n.val) s

/-- BX_CMD_START (R355). -/
def execBxCmdStart (n : Fin 2) (s : State) : Result := onBlock .BX (fun d => d.bxStart n.val) s

/-- BX_BURST_ISSUE (R362). -/
def execBxBurstIssue (n : Fin 2) (s : State) : Result := onBlock .BX (fun d => d.bxBurst n.val) s

/-- BX_ROW_READS_DONE (R359). -/
def execBxRowReadsDone (n : Fin 2) (s : State) : Result := onBlock .BX (fun d => d.bxRowRead n.val) s

/-- BX_CMD_END (R355). -/
def execBxCmdEnd (n : Fin 2) (s : State) : Result := onBlock .BX (fun d => d.bxCmdEnd n.val) s

/-- BX_RESUME (R365). -/
def execBxResume (n : Fin 2) (s : State) : Result := onBlock .BX (fun d => d.bxResume n.val) s

/-- BX_ABORT (R365). -/
def execBxAbort (n : Fin 2) (s : State) : Result := onBlock .BX (fun d => d.bxAbort n.val) s

end Sys2Proof.Machine
end

