-- ==== Sys2Proof/Machine/CmdGovernor.lean ====
section
/-!
DEFINITION. The meanings of the commands of the governor (chapter 08): one definition for each.
-/
namespace Sys2Proof.Machine

/-- GV_EVALUATION_DONE (R268). -/
def execGvEvaluationDone (s : State) : Result := onBlock .GV (fun d => d.gvDone) s

/-- RELEARN (R275). -/
def execRelearn (k : Fin 4) (s : State) : Result := onBlock .GV (fun d => d.relearn k.val) s

/-- GV_FLAT_DISABLE (R283). -/
def execGvFlatDisable (s : State) : Result := onBlock .GV (fun d => d.flatDisable) s

/-- FLAT_CAPTURE_OVERFLOW (R279). -/
def execFlatCaptureOverflow (k : Fin 8) (s : State) : Result := onBlock .GV (fun d => d.captureOverflow k.val) s

/-- FLAT_VERIFY_DONE (R279). -/
def execFlatVerifyDone (k : Fin 8) (poisoned : Bool) (s : State) : Result :=
  onBlock .GV (fun d => d.verifyDone k.val poisoned) s

/-- FLAT_VERIFY_TIMEOUT (R279). -/
def execFlatVerifyTimeout (k : Fin 8) (s : State) : Result := onBlock .GV (fun d => d.verifyTimeout k.val) s

end Sys2Proof.Machine
end

