-- ==== Sys2Proof/Machine/CmdHeads.lean ====
section
/-!
DEFINITION. The meanings of the commands of heads and layer engines (chapters 06, 09): one definition for each.
-/
namespace Sys2Proof.Machine

/-- HEAD_LINE_START (R305). -/
def execHeadLineStart (n : Fin 8) (s : State) : Result := onBlock .HD (fun d => d.headLineStart n.val) s

/-- LE_ROW_FETCH (R217). -/
def execLeRowFetch (l : Fin 64) (s : State) : Result := onBlock .LE (fun d => d.rowFetch l.val) s

/-- EVE_LINE_START (R299). -/
def execEveLineStart (n : Fin 8) (s : State) : Result := onBlock .HD (fun d => d.eveLineStart n.val) s

/-- HARVEST_POINT (R297). -/
def execHarvestPoint (n : Fin 8) (s : State) : Result := onBlock .HD (fun d => d.harvest n.val) s

/-- HEAD_UNDERRUN (R309). -/
def execHeadUnderrun (n : Fin 8) (px : Nat) (s : State) : Result := onBlock .HD (fun d => d.headUnderrun n.val px) s

/-- HEAD_START (R295). -/
def execHeadStart (n : Fin 8) (s : State) : Result := onBlock .HD (fun d => d.headStart n.val) s

/-- HEAD_PLL_LOCKED (R295). -/
def execHeadPllLocked (n : Fin 8) (s : State) : Result := onBlock .HD (fun d => d.pllLocked n.val) s

/-- HEAD_TIMED_START (R320). -/
def execHeadTimedStart (n : Fin 8) (s : State) : Result := onBlock .HD (fun d => d.timedStart n.val) s

/-- HEAD_STOP (R296). -/
def execHeadStop (n : Fin 8) (s : State) : Result := onBlock .HD (fun d => d.headStop n.val) s

/-- HEAD_ARM (R298). -/
def execHeadArm (n : Fin 8) (s : State) : Result := onBlock .HD (fun d => d.headArm n.val) s

/-- HEAD_CANCEL (R302). -/
def execHeadCancel (n : Fin 8) (s : State) : Result := onBlock .HD (fun d => d.headCancel n.val) s

/-- STAGED_WRITE_RECHECK (R220). -/
def execStagedWriteRecheck (n : Fin 8) (engines : List (Fin 64)) (s : State) : Result :=
  onBlock .HD (fun d => d.stagedWrite n.val (engines.map (·.val))) s

/-- SPLIT_LEADER_WRITE (R315). -/
def execSplitLeaderWrite (n : Fin 8) (v : Bool) (s : State) : Result := onBlock .HD (fun d => d.leaderWrite n.val v) s

end Sys2Proof.Machine
end

