-- ==== Sys2Proof/Machine/CmdInterrupts.lean ====
section
/-!
DEFINITION. The meanings of the commands of interrupts, messages and wake inputs (chapter 15): one definition for
each.
-/
namespace Sys2Proof.Machine

/-- IC_SOURCE_EDGE (R482). -/
def execIcSourceEdge (src : Fin 1024) (s : State) : Result := onDev (fun d => d.sourceEdge src.val) s

/-- IC_CLAIM (R488). -/
def execIcClaim (t : Fin 16) (s : State) : Result := onBlock .IC (fun d => d.icClaim t.val) s

/-- IC_COMPLETE (R489). -/
def execIcComplete (t : Fin 16) (src : BitVec 10) (s : State) : Result :=
  onBlock .IC (fun d => d.icComplete t.val src.toNat) s

/-- IC_TARGET_RESET (R490). -/
def execIcTargetReset (t : Fin 16) (s : State) : Result := onBlock .IC (fun d => d.icTargetReset t.val) s

/-- IC_PEND_WRITE (R492). -/
def execIcPendWrite (w : Fin 32) (v : Word) (s : State) : Result := onBlock .IC (fun d => d.icPendWrite w.val v) s

/-- COAL_FLUSH (R493). -/
def execCoalFlush (g : Fin 32) (s : State) : Result := onBlock .IC (fun d => d.coalFlush g.val) s

/-- COAL_TIMER (R493). -/
def execCoalTimer (g : Fin 32) (s : State) : Result := onDev (fun d => d.coalTimer g.val) s

/-- WAKE_INPUT_EDGE (R494). -/
def execWakeInputEdge (w : Fin 64) (s : State) : Result := onDev (fun d => d.wakeEdge w.val) s

/-- WAKE_CLR (R500). -/
def execWakeClr (w : Fin 64) (s : State) : Result := onBlock .IC (fun d => d.wakeClear w.val) s

/-- MSIX_ENABLE_WRITE (R486). -/
def execMsixEnableWrite (en : Bool) (mask : Bool) (s : State) : Result := 
  onDev (fun d => if d.configRetry then d.emit .configRetry else d.msixWrite en mask) s

/-- MSIX_UNMASK (R486). -/
def execMsixUnmask (v : Option (Fin 16)) (s : State) : Result := 
  onDev (fun d =>
    if v.isSome && d.blockHeld .IC then d
    else if v.isNone && d.configRetry then d.emit .configRetry
    else d.msixUnmask (v.map (·.val))) s

end Sys2Proof.Machine
end

