-- ==== Sys2Proof/Machine/CmdLinks.lean ====
section
/-!
DEFINITION. The meanings of the commands of display links (chapter 10): one definition for each.
-/
namespace Sys2Proof.Machine

/-- TRAIN written with MODE and PATTERN (R339). -/
def Dev.trainAs (d : Dev) (n mode pattern : Nat) : Dev :=
  (d.setFlds [(R.DP_TRAIN_CTRL_MODE n, mode), (R.DP_TRAIN_CTRL_PATTERN n, pattern)]).train n

/-- LINK_ENABLE_WRITE (R338). -/
def execLinkEnableWrite (n : Fin 8) (en : Bool) (s : State) : Result := onBlock .DP (fun d => d.linkEnable n.val en) s

/-- LINK_TRAIN_AUTO (R339). -/
def execLinkTrainAuto (n : Fin 8) (s : State) : Result := onBlock .DP (fun d => d.trainAs n.val 0 0) s

/-- LINK_TRAIN_MANUAL_PATTERN (R339). -/
def execLinkTrainManualPattern (n : Fin 8) (pattern : Fin 8) (s : State) : Result :=
  onBlock .DP (fun d => d.trainAs n.val 1 pattern.val) s

/-- LINK_TRAIN_MANUAL_DECLARE (R339). -/
def execLinkTrainManualDeclare (n : Fin 8) (s : State) : Result := onBlock .DP (fun d => d.trainAs n.val 1 0) s

/-- AUTO_TRAINING_END (R339). -/
def execAutoTrainingEnd (n : Fin 8) (code : Fin 16) (drive : BitVec 16) (s : State) : Result :=
  onBlock .DP (fun d => d.autoEnd n.val code.val drive.toNat) s

/-- AUX_GO (R336). -/
def execAuxGo (n : Fin 8) (s : State) : Result := onBlock .DP (fun d => d.auxGo n.val) s

/-- AUX_DONE (R337). -/
def execAuxDone (n : Fin 8) (reply : Fin 16) (count : Fin 32) (data : List Byte) (s : State) : Result :=
  onBlock .DP (fun d => d.auxDone n.val reply.val count.val data) s

/-- AUX_REPLY_TIMEOUT (R337). -/
def execAuxReplyTimeout (n : Fin 8) (s : State) : Result := onBlock .DP (fun d => d.auxTimeout n.val) s

/-- HPD_EN_WRITE (R334). -/
def execHpdEnWrite (n : Fin 8) (en : Bool) (s : State) : Result := onBlock .DP (fun d => d.hpdEnable n.val en) s

/-- HPD_EDGE (R334). -/
def execHpdEdge (n : Fin 8) (level : Bool) (heldUs : Nat) (sink : SinkStatus) (s : State) : Result :=
  onBlock .DP (fun d => d.hpdEdge n.val level heldUs sink) s

/-- HPD_UNPLUG (R334). -/
def execHpdUnplug (n : Fin 8) (s : State) : Result := onBlock .DP (fun d => d.hpdUnplug n.val) s

/-- HPD_PLUG (R334). -/
def execHpdPlug (n : Fin 8) (s : State) : Result := onBlock .DP (fun d => d.hpdPlug n.val) s

/-- HDCP_AUTH_START (R344). -/
def execHdcpAuthStart (n : Fin 8) (s : State) : Result := onBlock .DP (fun d => d.hdcpStart n.val) s

/-- HDCP_STOP_AUTH (R344). -/
def execHdcpStopAuth (n : Fin 8) (s : State) : Result := onBlock .DP (fun d => d.hdcpStop n.val) s

/-- HDCP_AUTH_END (R344). -/
def execHdcpAuthEnd (n : Fin 8) (r : HdcpResult) (s : State) : Result := onBlock .DP (fun d => d.hdcpEnd n.val r) s

/-- HDCP_REAUTH_TIMER (R344). -/
def execHdcpReauthTimer (n : Fin 8) (s : State) : Result := onBlock .DP (fun d => d.hdcpReauth n.val) s

/-- STREAM_MANAGE_CONFIRMED (R345). -/
def execStreamManageConfirmed (n : Fin 8) (s : State) : Result := onBlock .DP (fun d => d.manageConfirmed n.val) s

/-- ENCRYPTION_ENABLE (R345). -/
def execEncryptionEnable (n : Fin 8) (s : State) : Result := onBlock .DP (fun d => d.encryptStart n.val) s

/-- SRM_LOAD (R347). -/
def execSrmLoad (s : State) : Result := onBlock .DP (fun d => d.srmLoad) s

end Sys2Proof.Machine
end

