-- ==== Sys2Proof/Machine/CmdLoad.lean ====
section
/-!
DEFINITION. The meanings of the commands of loading a floorplan image (chapter 02): one definition for each.
-/
namespace Sys2Proof.Machine

/-- CH_LOAD_START (R65). -/
def execChLoadStart (s : State) : Result := onDev (fun d => d.loadStart) s

/-- CH_LOAD_ABORT (R66). -/
def execChLoadAbort (s : State) : Result := onDev (fun d => d.loadAbort) s

/-- CH_LOAD_DATA_WRITE (R65). -/
def execChLoadDataWrite (w : Word) (s : State) : Result := onDev (fun d => d.loadData w) s

/-- LOAD_VALIDATION_END (R61). -/
def execLoadValidationEnd (s : State) : Result := onDev (fun d => d.loadValidated) s

/-- LOAD_APPLY_DONE (R74). -/
def execLoadApplyDone (s : State) : Result := onDev (fun d => d.loadApplied) s

/-- ZEROFILL_DONE (R77). -/
def execZerofillDone (s : State) : Result := onStore (fun d m => d.zeroFilled m) s

end Sys2Proof.Machine
end

