-- ==== Sys2Proof/Machine/CmdPorts.lean ====
section
/-!
DEFINITION. The meanings of the commands of cartridge ports (chapter 12): one definition for each.
-/
namespace Sys2Proof.Machine

/-- A step of port n's bring-up completes; a port that is READY serves the waiting lanes (R377, R392). -/
def Dev.cpStepDone (d : Dev) (n : Nat) (r : CpReply) : Dev :=
  let d := d.cpThen n (·.cpReply n r)
  if d.cpState n = 3 then d.asPump else d

/-- A Read's completion is reaped (R378). -/
def Dev.cpReadEnd (d : Dev) (n cid : Nat) (r : CpRead) : Dev :=
  match d.cpReadDone n cid r with
  | (d, some (c, ok)) => d.asReadDone n c ok r.bytes
  | (d, none) => d

/-- CP_ENABLE_WRITE (R375). -/
def execCpEnableWrite (n : Fin 4) (en : Bool) (s : State) : Result :=
  onBlock .CP (fun d => d.cpThen n.val (·.cpEnable n.val en)) s

/-- CP_RESTART (R375). -/
def execCpRestart (n : Fin 4) (s : State) : Result := onBlock .CP (fun d => d.cpRestart n.val) s

/-- LOG_REFRESH (R402). -/
def execLogRefresh (n : Fin 4) (s : State) : Result := onBlock .CP (fun d => d.logRefresh n.val) s

/-- CP_DETECT_RETRY (R375). -/
def execCpDetectRetry (n : Fin 4) (s : State) : Result := onBlock .CP (fun d => d.cpDetectRetry n.val) s

/-- LINK_UP (R375). -/
def execLinkUp (n : Fin 4) (gen : Fin 8) (width : Fin 32) (s : State) : Result :=
  onBlock .CP (fun d => d.cpLinkUp n.val gen.val width.val) s

/-- CP_INIT_STEP_DONE (R377). -/
def execCpInitStepDone (n : Fin 4) (reply : CpReply) (s : State) : Result :=
  onBlock .CP (fun d => d.cpStepDone n.val reply) s

/-- CP_INIT_TIMEOUT (R375). -/
def execCpInitTimeout (n : Fin 4) (s : State) : Result := onBlock .CP (fun d => d.cpInitTimeout n.val) s

/-- CP_READ_COMPLETION (R378). -/
def execCpReadCompletion (n : Fin 4) (cid : Nat) (result : CpRead) (s : State) : Result :=
  onBlock .CP (fun d => d.cpReadEnd n.val cid result) s

/-- CP_CMD_TIMEOUT (R378). -/
def execCpCmdTimeout (n : Fin 4) (s : State) : Result := onBlock .CP (fun d => d.cpThen n.val (·.cpCmdTimeout n.val)) s

/-- CP_FATAL (R378). -/
def execCpFatal (n : Fin 4) (s : State) : Result := onBlock .CP (fun d => d.cpThen n.val (·.cpFatal n.val)) s

/-- LINK_DOWN (R378). -/
def execLinkDown (n : Fin 4) (s : State) : Result := onBlock .CP (fun d => d.cpThen n.val (·.cpLinkDown n.val)) s

/-- CP_SHUTDOWN_DONE (R375). -/
def execCpShutdownDone (n : Fin 4) (s : State) : Result := onBlock .CP (fun d => d.cpShutdownDone n.val) s

end Sys2Proof.Machine
end

