-- ==== Sys2Proof/Machine/CmdPower.lean ====
section
/-!
DEFINITION. The meanings of the commands of power-up, resets and the configuration chain (chapter 03): one
definition for each.
-/
namespace Sys2Proof.Machine

/-- POR (R11). -/
def execPor (s : State) : Result := onDev (fun d => d.por) s

/-- POR_RELEASE (R513). -/
def execPorRelease (s : State) : Result := onDev (fun d => d.porRelease) s

/-- OTP_SHADOW_LOADED (R513). -/
def execOtpShadowLoaded (s : State) : Result := onDev (fun d => d.otpLoaded) s

/-- CRST (R514). -/
def execCrst (lowNs : Nat) (s : State) : Result := onDev (fun d => d.crst lowNs) s

/-- CRST_RELEASE (R82). -/
def execCrstRelease (s : State) : Result := onDev (fun d => d.crstRelease) s

/-- FLR (R11). -/
def execFlr (s : State) : Result := onDev (fun d => d.flr) s

/-- HRST (R100). -/
def execHrst (n : Fin 8) (s : State) : Result := onDev (fun d => d.hrst n.val) s

/-- HRST_COMPLETE (R100). -/
def execHrstComplete (n : Fin 8) (s : State) : Result := onDev (fun d => d.hrstComplete n.val) s

/-- SRST (R101). -/
def execSrst (b : SoftBlock) (s : State) : Result := onDev (fun d => d.srstMany [b]) s

/-- SRST_COMPLETE (R101). -/
def execSrstComplete (b : SoftBlock) (s : State) : Result := onDev (fun d => d.srstComplete b) s

/-- CADDR_SAMPLE (R82). -/
def execCaddrSample (high : Bool) (s : State) : Result := onDev (fun d => d.caddrSample high) s

/-- ADDRESS_TOKEN (R84). -/
def execAddressToken (token : BitVec 10) (s : State) : Result := onDev (fun d => d.addressToken token.toNat) s

/-- ENUM_TIMEOUT (R85). -/
def execEnumTimeout (s : State) : Result := onDev (fun d => d.enumTimeout) s

/-- STAGGER_STEP_START (R95). -/
def execStaggerStepStart (p : PowerStep) (s : State) : Result := onDev (fun d => d.stepStart p) s

/-- STAGGER_STEP_DONE (R95). -/
def execStaggerStepDone (p : PowerStep) (s : State) : Result := onDev (fun d => d.stepDone p) s

/-- CHAIN_FRAME (R92). -/
def execChainFrame (cmd : Byte) (dest : Byte) (cmdInv : Byte) (destInv : Byte) (image : List Byte) (s : State) : Result :=
  onDev (fun d => d.chainFrame cmd dest cmdInv destInv image) s

/-- CHAIN_STALL (R94). -/
def execChainStall (s : State) : Result := onDev (fun d => d.chainStall) s

/-- CERR_RELEASE (R108). -/
def execCerrRelease (s : State) : Result := onDev (fun d => d.cerrRelease) s

end Sys2Proof.Machine
end

