-- ==== Sys2Proof/Machine/CmdRegisters.lean ====
section
/-!
DEFINITION. The meanings of the commands of accesses to registers (chapter 04): one definition for each.
-/
namespace Sys2Proof.Machine

/-- REGISTER_WRITE (R129). -/
def execRegisterWrite (off : BitVec 24) (w : Word) (s : State) : Result :=
  onDev (fun d => d.access ⟨.bar0, true, .w32, off.toNat, [w]⟩) s

/-- BUS_ERROR_ACCESS (R126). -/
def execBusErrorAccess (a : BusAccess) (s : State) : Result := onDev (fun d => d.access a) s

/-- RS_CLEAR_WRITE (R143). -/
def execRsClearWrite (off : BitVec 24) (w : Word) (s : State) : Result :=
  onDev (fun d => d.access ⟨.bar0, true, .w32, off.toNat, [w]⟩) s

/-- BIT_ALIAS_WRITE (R141). -/
def execBitAliasWrite (off : BitVec 25) (w : Word) (s : State) : Result :=
  onDev (fun d => d.access ⟨.bar2, true, .w32, off.toNat, [w]⟩) s

/-- COMPAT_MASKED_WRITE (R154). -/
def execCompatMaskedWrite (off : BitVec 20) (w : Word) (s : State) : Result :=
  onDev (fun d => d.access ⟨.bar4, true, .w32, off.toNat, [w]⟩) s

/-- COMPAT_MISS (R153). -/
def execCompatMiss (write : Bool) (off : BitVec 20) (w : Word) (s : State) : Result :=
  onDev (fun d => d.access ⟨.bar4, write, .w32, off.toNat, [w]⟩) s

/-- IND_DATA_READ (R132). -/
def execIndDataRead (slot : Fin 128) (s : State) : Result :=
  onDev (fun d => d.access ⟨.bar0, false, .w32, slot.val * 0x10000 + 0xFF4, []⟩) s

/-- IND_FETCH_DONE (R133). -/
def execIndFetchDone (slot : Fin 128) (s : State) : Result := onDev (fun d => d.indDone slot.val) s

/-- IND_FETCH_TIMEOUT (R133). -/
def execIndFetchTimeout (slot : Fin 128) (s : State) : Result := onDev (fun d => d.indTimeout slot.val) s

/-- PARITY_SWEEP (R148). -/
def execParitySweep (s : State) : Result := onDev (fun d => d.paritySweep) s

/-- PARITY_INJECT (R150). -/
def execParityInject (s : State) : Result := onDev (fun d => d.parityInject) s

end Sys2Proof.Machine
end

