-- ==== Sys2Proof/Machine/CmdRing.lean ====
section
/-!
DEFINITION. The meanings of the commands of ring ports and SH (chapter 13): one definition for each.
-/
namespace Sys2Proof.Machine

/-- A device frame of a kind and subtype (R412). -/
def asKind (f : RingFrame) (kind subtype : Nat) : RingFrame :=
  { f with kind := BitVec.ofNat 8 kind, subtype := BitVec.ofNat 8 subtype }

/-- RP_LINK_UP (R409). -/
def execRpLinkUp (p : Fin 2) (s : State) : Result := onBlock .RP (fun d => d.rpLinkUp p.val) s

/-- RP_LINK_DOWN (R409). -/
def execRpLinkDown (p : Fin 2) (s : State) : Result := onBlock .RP (fun d => d.rpLinkDown p.val) s

/-- RP_RESTART (R446). -/
def execRpRestart (p : Fin 2) (s : State) : Result := onBlock .RP (fun d => d.rpLinkDown p.val) s

/-- RP_FRAME_RX (R415). -/
def execRpFrameRx (p : Fin 2) (quality : RxQuality) (frame : WireFrame) (s : State) : Result :=
  onBlock .RP (fun d => d.frameRx p.val quality frame) s

/-- RP_TX_SELECT (R436). -/
def execRpTxSelect (p : Fin 2) (s : State) : Result := onBlock .RP (fun d => d.txSelect p.val) s

/-- TILE (R428). -/
def execTile (p : Fin 2) (f : RingFrame) (s : State) : Result :=
  onBlock .RP (fun d => d.frameRx p.val cleanRx (.device (asKind f 3 0))) s

/-- WRITE (R418). -/
def execWrite (p : Fin 2) (f : RingFrame) (s : State) : Result :=
  onBlock .RP (fun d => d.frameRx p.val cleanRx (.device (asKind f 4 0))) s

/-- READ_REQ (R419). -/
def execReadReq (p : Fin 2) (f : RingFrame) (s : State) : Result :=
  onBlock .RP (fun d => d.frameRx p.val cleanRx (.device (asKind f 4 1))) s

/-- READ_RSP (R420). -/
def execReadRsp (p : Fin 2) (f : RingFrame) (s : State) : Result :=
  onBlock .RP (fun d => d.frameRx p.val cleanRx (.device (asKind f 4 2))) s

/-- WRITE_ACK (R420). -/
def execWriteAck (p : Fin 2) (f : RingFrame) (s : State) : Result :=
  onBlock .RP (fun d => d.frameRx p.val cleanRx (.device (asKind f 6 0))) s

/-- REG_WRITE (R422). -/
def execRegWrite (p : Fin 2) (f : RingFrame) (s : State) : Result :=
  onBlock .RP (fun d => d.frameRx p.val cleanRx (.device (asKind f 5 0))) s

/-- REG_READ (R422). -/
def execRegRead (p : Fin 2) (f : RingFrame) (s : State) : Result :=
  onBlock .RP (fun d => d.frameRx p.val cleanRx (.device (asKind f 5 1))) s

/-- REG_RSP (R422). -/
def execRegRsp (p : Fin 2) (f : RingFrame) (s : State) : Result :=
  onBlock .RP (fun d => d.frameRx p.val cleanRx (.device (asKind f 5 2))) s

/-- NOTICE (R423). -/
def execNotice (p : Fin 2) (f : RingFrame) (s : State) : Result :=
  onBlock .RP (fun d => d.frameRx p.val cleanRx (.device (asKind f 7 0))) s

/-- RING_REQUEST_TIMEOUT (R421). -/
def execRingRequestTimeout (txn : BitVec 16) (s : State) : Result := onBlock .SH (fun d => d.requestTimeout txn) s

/-- RQ_GO (R420). -/
def execRqGo (k : Fin 4) (s : State) : Result := onBlock .SH (fun d => d.rqGo k.val) s

/-- RQ_ABORT (R420). -/
def execRqAbort (k : Fin 4) (s : State) : Result := onBlock .SH (fun d => d.rqAbort k.val) s

/-- RMT_GO (R422). -/
def execRmtGo (s : State) : Result := onBlock .SH (fun d => d.rmtGo) s

/-- NOTICE_TX (R423). -/
def execNoticeTx (s : State) : Result := onBlock .SH (fun d => d.noticeTx) s

/-- SOURCE_SEND (R424). -/
def execSourceSend (k : Fin 8) (s : State) : Result := onBlock .SH (fun d => d.sourceTrigger k.val) s

/-- STREAM_ENABLE (R426). -/
def execStreamEnable (m : Fin 16) (en : Bool) (s : State) : Result := onBlock .SH (fun d => d.strEnable m.val en) s

/-- SHAPER_WRITE (R435). -/
def execShaperWrite (c : Fin 8) (r : Fin 4) (w : Word) (s : State) : Result :=
  onDev (fun d => d.access ⟨.bar0, true, .w32, R.SH_TC_CIR c.val + 4 * r.val, [w]⟩) s

/-- ALMANAC_CHANGE (R440). -/
def execAlmanacChange (p : Fin 2) (s : State) : Result := onBlock .SH (fun d => d.almChange p.val) s

/-- ALMANAC_CANCEL (R440). -/
def execAlmanacCancel (p : Fin 2) (s : State) : Result := onBlock .SH (fun d => d.almCancel p.val) s

/-- ALMANAC_START (R440). -/
def execAlmanacStart (p : Fin 2) (s : State) : Result := onBlock .SH (fun d => d.almStart p.val) s

/-- ALMANAC_ENTRY_BOUNDARY (R439). -/
def execAlmanacEntryBoundary (p : Fin 2) (s : State) : Result := onBlock .SH (fun d => d.almBoundary p.val) s

end Sys2Proof.Machine
end

