-- ==== Sys2Proof/Machine/CmdStore.lean ====
section
/-!
DEFINITION. The meanings of the commands of the frame store (chapter 05): one definition for each.
-/
namespace Sys2Proof.Machine

/-- FS_REQUEST (R178). -/
def execFsRequest (who : Requester) (burst : BitVec 24) (write : Option BurstWrite) (s : State) : Result :=
  onBlock .FS (fun d => d.request ⟨who, 64 * burst.toNat, write, .plain⟩) s

/-- FS_READ_COMPLETE (R165, R168, R172). -/
def execFsReadComplete (tag : Nat) (errs : List WordError) (latency : Nat) (s : State) : Result :=
  onBlockStore .FS (fun d m => d.readComplete m tag errs latency) s

/-- FS_WRITE_COMPLETE (R165, R174). -/
def execFsWriteComplete (tag : Nat) (errs : List WordError) (s : State) : Result :=
  onBlockStore .FS (fun d m => d.writeComplete m tag errs) s

/-- ECC_WRITEBACK (R176). -/
def execEccWriteback (n : Fin 4) (s : State) : Result := onBlockStore .FS (fun d m => d.writeBack m n.val) s

/-- SCRUB_STEP (R175). -/
def execScrubStep (n : Fin 4) (wrong : BitVec 144) (s : State) : Result :=
  onBlockStore .FS (fun d m => (d.scrub m n.val wrong, m)) s

/-- REFRESH_DEADLINE (R169). -/
def execRefreshDeadline (n : Fin 4) (s : State) : Result := onBlock .FS (fun d => d.refreshDue n.val) s

/-- HOST_WINDOW_READ (R183). -/
def execHostWindowRead (off : BitVec 15) (len : Nat) (s : State) : Result :=
  onDev (fun d => d.windowRead (0x8000 + off.toNat) len) s

/-- HOST_WINDOW_WRITE (R183). -/
def execHostWindowWrite (off : BitVec 15) (bytes : List Byte) (s : State) : Result :=
  onDev (fun d => d.windowWrite (0x8000 + off.toNat) bytes (bytes.map fun _ => true)) s

/-- TAG_HW_RESET (R193). -/
def execTagHwReset (s : State) : Result := onBlock .CL (fun d => d.tagHwReset) s

/-- LAT_RESET (R190). -/
def execLatReset (n : Fin 4) (s : State) : Result := onBlock .FS (fun d => d.latReset n.val) s

end Sys2Proof.Machine
end

