-- ==== Sys2Proof/Machine/CmdTime.lean ====
section
/-!
DEFINITION. The meanings of the commands of calendars, time messages and event pins (chapter 14): one definition for
each.
-/
namespace Sys2Proof.Machine

/-- TS_SNAP (R458). -/
def execTsSnap (s : State) : Result := onBlock .TS (fun d => d.snap) s

/-- CAL_SET (R459). -/
def execCalSet (x : Fin 2) (s : State) : Result := onBlock .TS (fun d => d.steppingCal x.val (·.calSet x.val)) s

/-- CAL_STEP (R459). -/
def execCalStep (x : Fin 2) (s : State) : Result := onBlock .TS (fun d => d.steppingCal x.val (·.calStep x.val)) s

/-- CAL_RATE_WRITE (R455). -/
def execCalRateWrite (x : Fin 2) (w : Word) (s : State) : Result := onBlock .TS (fun d => d.rateWrite x.val w.toNat) s

/-- ACTIVE_WRITE (R461). -/
def execActiveWrite (x : Fin 2) (s : State) : Result := onBlock .TS (fun d => d.activeWrite x.val) s

/-- ACTIVE_VIEW_SLEW_STEP (R460). -/
def execActiveViewSlewStep (s : State) : Result := onBlock .TS (fun d => d.slewStep) s

/-- HINT_WRITE (R467). -/
def execHintWrite (x : Fin 2) (w : Word) (s : State) : Result := onBlock .TS (fun d => d.hintWrite x.val w.toNat) s

/-- HINT_EXPIRE (R467). -/
def execHintExpire (x : Fin 2) (s : State) : Result := onBlock .TS (fun d => d.hintExpire x.val) s

/-- SYNC_RX (R464). -/
def execSyncRx (p : Fin 2) (msg : TimeMsg) (s : State) : Result :=
  onBlock .RP (fun d => d.frameRx p.val cleanRx (.time false (.sync msg))) s

/-- FOLLOW_UP_RX (R464). -/
def execFollowUpRx (p : Fin 2) (msg : TimeMsg) (s : State) : Result :=
  onBlock .RP (fun d => d.frameRx p.val cleanRx (.time false (.followUp msg))) s

/-- ANNOUNCE_RX (R463). -/
def execAnnounceRx (p : Fin 2) (msg : Announce) (s : State) : Result :=
  onBlock .RP (fun d => d.frameRx p.val cleanRx (.time false (.announce msg))) s

/-- PDELAY_REQ_RX (R462). -/
def execPdelayReqRx (p : Fin 2) (msg : TimeMsg) (s : State) : Result :=
  onBlock .RP (fun d => d.frameRx p.val cleanRx (.time false (.pdelayReq msg))) s

/-- PDELAY_RESP_RX (R464). -/
def execPdelayRespRx (p : Fin 2) (msg : TimeMsg) (s : State) : Result :=
  onBlock .RP (fun d => d.frameRx p.val cleanRx (.time false (.pdelayResp msg))) s

/-- PDELAY_RESP_FOLLOW_UP_RX (R464). -/
def execPdelayRespFollowUpRx (p : Fin 2) (msg : TimeMsg) (s : State) : Result :=
  onBlock .RP (fun d => d.frameRx p.val cleanRx (.time false (.pdelayRespFollowUp msg))) s

/-- SYNC_TX (R467). -/
def execSyncTx (x : Fin 2) (p : Fin 2) (s : State) : Result := onBlock .TS (fun d => d.syncTx x.val p.val) s

/-- ANNOUNCE_TX (R462). -/
def execAnnounceTx (x : Fin 2) (p : Fin 2) (s : State) : Result := onBlock .TS (fun d => d.announceTx x.val p.val) s

/-- PDELAY_REQ_TX (R462). -/
def execPdelayReqTx (x : Fin 2) (p : Fin 2) (s : State) : Result := onBlock .TS (fun d => d.pdelayReqTx x.val p.val) s

/-- ANNOUNCE_RECEIPT_TIMEOUT (R462). -/
def execAnnounceReceiptTimeout (x : Fin 2) (p : Fin 2) (s : State) : Result :=
  onBlock .TS (fun d => d.announceTimeout x.val p.val) s

/-- SYNC_LOSS_HOLDOVER (R466). -/
def execSyncLossHoldover (x : Fin 2) (s : State) : Result := onBlock .TS (fun d => d.syncLoss x.val) s

/-- EV_MODE_WRITE (R469). -/
def execEvModeWrite (n : Fin 48) (mode : Fin 8) (s : State) : Result := onBlock .EV (fun d => d.evMode n.val mode.val) s

/-- EV_ARM (R470). -/
def execEvArm (n : Fin 48) (s : State) : Result := onBlock .EV (fun d => d.evArm n.val) s

/-- EV_DISARM (R470). -/
def execEvDisarm (n : Fin 48) (s : State) : Result := onBlock .EV (fun d => d.evDisarm n.val) s

/-- EV_POP (R473). -/
def execEvPop (n : Fin 48) (s : State) : Result := onBlock .EV (fun d => d.evPop n.val) s

/-- EV_SCHEDULED_EDGE (R471). -/
def execEvScheduledEdge (n : Fin 48) (s : State) : Result := onBlock .EV (fun d => d.evEdge n.val) s

/-- EV_PIN_EDGE (R473). -/
def execEvPinEdge (pin : Fin 48) (level : Bool) (heldUs : Nat) (sink : SinkStatus) (s : State) : Result :=
  onBlock .EV (fun d => d.pinEdge pin.val level heldUs sink) s

end Sys2Proof.Machine
end

