-- ==== Sys2Proof/Machine/Dispatch.lean ====
section
/-!
DEFINITION. What each command does: one arm per constructor, each a direct call of the command's meaning.
-/
namespace Sys2Proof.Machine

def exec (i : Instr) (s : State) : Host.Outcome State Fault Refusal :=
  match i with
  | .por => Sys2Proof.Machine.execPor s
  | .porRelease => Sys2Proof.Machine.execPorRelease s
  | .otpShadowLoaded => Sys2Proof.Machine.execOtpShadowLoaded s
  | .crst lowNs => Sys2Proof.Machine.execCrst lowNs s
  | .crstRelease => Sys2Proof.Machine.execCrstRelease s
  | .flr => Sys2Proof.Machine.execFlr s
  | .hrst n => Sys2Proof.Machine.execHrst n s
  | .hrstComplete n => Sys2Proof.Machine.execHrstComplete n s
  | .srst b => Sys2Proof.Machine.execSrst b s
  | .srstComplete b => Sys2Proof.Machine.execSrstComplete b s
  | .caddrSample high => Sys2Proof.Machine.execCaddrSample high s
  | .addressToken token => Sys2Proof.Machine.execAddressToken token s
  | .enumTimeout => Sys2Proof.Machine.execEnumTimeout s
  | .staggerStepStart p => Sys2Proof.Machine.execStaggerStepStart p s
  | .staggerStepDone p => Sys2Proof.Machine.execStaggerStepDone p s
  | .chainFrame cmd dest cmdInv destInv image => Sys2Proof.Machine.execChainFrame cmd dest cmdInv destInv image s
  | .chainStall => Sys2Proof.Machine.execChainStall s
  | .cerrRelease => Sys2Proof.Machine.execCerrRelease s
  | .chLoadStart => Sys2Proof.Machine.execChLoadStart s
  | .chLoadAbort => Sys2Proof.Machine.execChLoadAbort s
  | .chLoadDataWrite w => Sys2Proof.Machine.execChLoadDataWrite w s
  | .loadValidationEnd => Sys2Proof.Machine.execLoadValidationEnd s
  | .loadApplyDone => Sys2Proof.Machine.execLoadApplyDone s
  | .zerofillDone => Sys2Proof.Machine.execZerofillDone s
  | .registerWrite off w => Sys2Proof.Machine.execRegisterWrite off w s
  | .busErrorAccess a => Sys2Proof.Machine.execBusErrorAccess a s
  | .rsClearWrite off w => Sys2Proof.Machine.execRsClearWrite off w s
  | .bitAliasWrite off w => Sys2Proof.Machine.execBitAliasWrite off w s
  | .compatMaskedWrite off w => Sys2Proof.Machine.execCompatMaskedWrite off w s
  | .compatMiss write off w => Sys2Proof.Machine.execCompatMiss write off w s
  | .indDataRead slot => Sys2Proof.Machine.execIndDataRead slot s
  | .indFetchDone slot => Sys2Proof.Machine.execIndFetchDone slot s
  | .indFetchTimeout slot => Sys2Proof.Machine.execIndFetchTimeout slot s
  | .paritySweep => Sys2Proof.Machine.execParitySweep s
  | .parityInject => Sys2Proof.Machine.execParityInject s
  | .fsRequest who burst write => Sys2Proof.Machine.execFsRequest who burst write s
  | .fsReadComplete tag errs latency => Sys2Proof.Machine.execFsReadComplete tag errs latency s
  | .fsWriteComplete tag errs => Sys2Proof.Machine.execFsWriteComplete tag errs s
  | .eccWriteback n => Sys2Proof.Machine.execEccWriteback n s
  | .scrubStep n wrong => Sys2Proof.Machine.execScrubStep n wrong s
  | .refreshDeadline n => Sys2Proof.Machine.execRefreshDeadline n s
  | .hostWindowRead off len => Sys2Proof.Machine.execHostWindowRead off len s
  | .hostWindowWrite off bytes => Sys2Proof.Machine.execHostWindowWrite off bytes s
  | .tagHwReset => Sys2Proof.Machine.execTagHwReset s
  | .latReset n => Sys2Proof.Machine.execLatReset n s
  | .headLineStart n => Sys2Proof.Machine.execHeadLineStart n s
  | .leRowFetch l => Sys2Proof.Machine.execLeRowFetch l s
  | .eveLineStart n => Sys2Proof.Machine.execEveLineStart n s
  | .harvestPoint n => Sys2Proof.Machine.execHarvestPoint n s
  | .headUnderrun n px => Sys2Proof.Machine.execHeadUnderrun n px s
  | .headStart n => Sys2Proof.Machine.execHeadStart n s
  | .headPllLocked n => Sys2Proof.Machine.execHeadPllLocked n s
  | .headTimedStart n => Sys2Proof.Machine.execHeadTimedStart n s
  | .headStop n => Sys2Proof.Machine.execHeadStop n s
  | .headArm n => Sys2Proof.Machine.execHeadArm n s
  | .headCancel n => Sys2Proof.Machine.execHeadCancel n s
  | .stagedWriteRecheck n engines => Sys2Proof.Machine.execStagedWriteRecheck n engines s
  | .splitLeaderWrite n v => Sys2Proof.Machine.execSplitLeaderWrite n v s
  | .gvEvaluationDone => Sys2Proof.Machine.execGvEvaluationDone s
  | .relearn k => Sys2Proof.Machine.execRelearn k s
  | .gvFlatDisable => Sys2Proof.Machine.execGvFlatDisable s
  | .flatCaptureOverflow k => Sys2Proof.Machine.execFlatCaptureOverflow k s
  | .flatVerifyDone k poisoned => Sys2Proof.Machine.execFlatVerifyDone k poisoned s
  | .flatVerifyTimeout k => Sys2Proof.Machine.execFlatVerifyTimeout k s
  | .linkEnableWrite n en => Sys2Proof.Machine.execLinkEnableWrite n en s
  | .linkTrainAuto n => Sys2Proof.Machine.execLinkTrainAuto n s
  | .linkTrainManualPattern n pattern => Sys2Proof.Machine.execLinkTrainManualPattern n pattern s
  | .linkTrainManualDeclare n => Sys2Proof.Machine.execLinkTrainManualDeclare n s
  | .autoTrainingEnd n code drive => Sys2Proof.Machine.execAutoTrainingEnd n code drive s
  | .auxGo n => Sys2Proof.Machine.execAuxGo n s
  | .auxDone n reply count data => Sys2Proof.Machine.execAuxDone n reply count data s
  | .auxReplyTimeout n => Sys2Proof.Machine.execAuxReplyTimeout n s
  | .hpdEnWrite n en => Sys2Proof.Machine.execHpdEnWrite n en s
  | .hpdEdge n level heldUs sink => Sys2Proof.Machine.execHpdEdge n level heldUs sink s
  | .hpdUnplug n => Sys2Proof.Machine.execHpdUnplug n s
  | .hpdPlug n => Sys2Proof.Machine.execHpdPlug n s
  | .hdcpAuthStart n => Sys2Proof.Machine.execHdcpAuthStart n s
  | .hdcpStopAuth n => Sys2Proof.Machine.execHdcpStopAuth n s
  | .hdcpAuthEnd n r => Sys2Proof.Machine.execHdcpAuthEnd n r s
  | .hdcpReauthTimer n => Sys2Proof.Machine.execHdcpReauthTimer n s
  | .streamManageConfirmed n => Sys2Proof.Machine.execStreamManageConfirmed n s
  | .encryptionEnable n => Sys2Proof.Machine.execEncryptionEnable n s
  | .srmLoad => Sys2Proof.Machine.execSrmLoad s
  | .bxSubmit n => Sys2Proof.Machine.execBxSubmit n s
  | .bxCmdStart n => Sys2Proof.Machine.execBxCmdStart n s
  | .bxBurstIssue n => Sys2Proof.Machine.execBxBurstIssue n s
  | .bxRowReadsDone n => Sys2Proof.Machine.execBxRowReadsDone n s
  | .bxCmdEnd n => Sys2Proof.Machine.execBxCmdEnd n s
  | .bxResume n => Sys2Proof.Machine.execBxResume n s
  | .bxAbort n => Sys2Proof.Machine.execBxAbort n s
  | .cpEnableWrite n en => Sys2Proof.Machine.execCpEnableWrite n en s
  | .cpRestart n => Sys2Proof.Machine.execCpRestart n s
  | .logRefresh n => Sys2Proof.Machine.execLogRefresh n s
  | .cpDetectRetry n => Sys2Proof.Machine.execCpDetectRetry n s
  | .linkUp n gen width => Sys2Proof.Machine.execLinkUp n gen width s
  | .cpInitStepDone n reply => Sys2Proof.Machine.execCpInitStepDone n reply s
  | .cpInitTimeout n => Sys2Proof.Machine.execCpInitTimeout n s
  | .cpReadCompletion n cid result => Sys2Proof.Machine.execCpReadCompletion n cid result s
  | .cpCmdTimeout n => Sys2Proof.Machine.execCpCmdTimeout n s
  | .cpFatal n => Sys2Proof.Machine.execCpFatal n s
  | .linkDown n => Sys2Proof.Machine.execLinkDown n s
  | .cpShutdownDone n => Sys2Proof.Machine.execCpShutdownDone n s
  | .asJobGo k => Sys2Proof.Machine.execAsJobGo k s
  | .asJobAbort k => Sys2Proof.Machine.execAsJobAbort k s
  | .asJobStart => Sys2Proof.Machine.execAsJobStart s
  | .asManifestChecked l => Sys2Proof.Machine.execAsManifestChecked l s
  | .asChunkReap l => Sys2Proof.Machine.execAsChunkReap l s
  | .asChunkDecoded l => Sys2Proof.Machine.execAsChunkDecoded l s
  | .asJobEnd l => Sys2Proof.Machine.execAsJobEnd l s
  | .asLaneZeroed l => Sys2Proof.Machine.execAsLaneZeroed l s
  | .kyProgram => Sys2Proof.Machine.execKyProgram s
  | .kyRevoke => Sys2Proof.Machine.execKyRevoke s
  | .kySetCfg => Sys2Proof.Machine.execKySetCfg s
  | .progDone ok => Sys2Proof.Machine.execProgDone ok s
  | .rpLinkUp p => Sys2Proof.Machine.execRpLinkUp p s
  | .rpLinkDown p => Sys2Proof.Machine.execRpLinkDown p s
  | .rpRestart p => Sys2Proof.Machine.execRpRestart p s
  | .rpFrameRx p fcsOk frame => Sys2Proof.Machine.execRpFrameRx p fcsOk frame s
  | .rpTxSelect p => Sys2Proof.Machine.execRpTxSelect p s
  | .tile p f => Sys2Proof.Machine.execTile p f s
  | .write p f => Sys2Proof.Machine.execWrite p f s
  | .readReq p f => Sys2Proof.Machine.execReadReq p f s
  | .readRsp p f => Sys2Proof.Machine.execReadRsp p f s
  | .writeAck p f => Sys2Proof.Machine.execWriteAck p f s
  | .regWrite p f => Sys2Proof.Machine.execRegWrite p f s
  | .regRead p f => Sys2Proof.Machine.execRegRead p f s
  | .regRsp p f => Sys2Proof.Machine.execRegRsp p f s
  | .notice p f => Sys2Proof.Machine.execNotice p f s
  | .ringRequestTimeout txn => Sys2Proof.Machine.execRingRequestTimeout txn s
  | .rqGo k => Sys2Proof.Machine.execRqGo k s
  | .rqAbort k => Sys2Proof.Machine.execRqAbort k s
  | .rmtGo => Sys2Proof.Machine.execRmtGo s
  | .noticeTx => Sys2Proof.Machine.execNoticeTx s
  | .sourceSend k => Sys2Proof.Machine.execSourceSend k s
  | .streamEnable m en => Sys2Proof.Machine.execStreamEnable m en s
  | .shaperWrite c r w => Sys2Proof.Machine.execShaperWrite c r w s
  | .almanacChange p => Sys2Proof.Machine.execAlmanacChange p s
  | .almanacCancel p => Sys2Proof.Machine.execAlmanacCancel p s
  | .almanacStart p => Sys2Proof.Machine.execAlmanacStart p s
  | .almanacEntryBoundary p => Sys2Proof.Machine.execAlmanacEntryBoundary p s
  | .tsSnap => Sys2Proof.Machine.execTsSnap s
  | .calSet x => Sys2Proof.Machine.execCalSet x s
  | .calStep x => Sys2Proof.Machine.execCalStep x s
  | .calRateWrite x w => Sys2Proof.Machine.execCalRateWrite x w s
  | .activeWrite x => Sys2Proof.Machine.execActiveWrite x s
  | .activeViewSlewStep => Sys2Proof.Machine.execActiveViewSlewStep s
  | .hintWrite x w => Sys2Proof.Machine.execHintWrite x w s
  | .hintExpire x => Sys2Proof.Machine.execHintExpire x s
  | .syncRx p msg => Sys2Proof.Machine.execSyncRx p msg s
  | .followUpRx p msg => Sys2Proof.Machine.execFollowUpRx p msg s
  | .announceRx p msg => Sys2Proof.Machine.execAnnounceRx p msg s
  | .pdelayReqRx p msg => Sys2Proof.Machine.execPdelayReqRx p msg s
  | .pdelayRespRx p msg => Sys2Proof.Machine.execPdelayRespRx p msg s
  | .pdelayRespFollowUpRx p msg => Sys2Proof.Machine.execPdelayRespFollowUpRx p msg s
  | .syncTx x p => Sys2Proof.Machine.execSyncTx x p s
  | .announceTx x p => Sys2Proof.Machine.execAnnounceTx x p s
  | .pdelayReqTx x p => Sys2Proof.Machine.execPdelayReqTx x p s
  | .announceReceiptTimeout x p => Sys2Proof.Machine.execAnnounceReceiptTimeout x p s
  | .syncLossHoldover x => Sys2Proof.Machine.execSyncLossHoldover x s
  | .evModeWrite n mode => Sys2Proof.Machine.execEvModeWrite n mode s
  | .evArm n => Sys2Proof.Machine.execEvArm n s
  | .evDisarm n => Sys2Proof.Machine.execEvDisarm n s
  | .evPop n => Sys2Proof.Machine.execEvPop n s
  | .evScheduledEdge n => Sys2Proof.Machine.execEvScheduledEdge n s
  | .evPinEdge pin level heldUs sink => Sys2Proof.Machine.execEvPinEdge pin level heldUs sink s
  | .icSourceEdge src => Sys2Proof.Machine.execIcSourceEdge src s
  | .icClaim t => Sys2Proof.Machine.execIcClaim t s
  | .icComplete t src => Sys2Proof.Machine.execIcComplete t src s
  | .icTargetReset t => Sys2Proof.Machine.execIcTargetReset t s
  | .icPendWrite w v => Sys2Proof.Machine.execIcPendWrite w v s
  | .coalFlush g => Sys2Proof.Machine.execCoalFlush g s
  | .coalTimer g => Sys2Proof.Machine.execCoalTimer g s
  | .wakeInputEdge w => Sys2Proof.Machine.execWakeInputEdge w s
  | .wakeClr w => Sys2Proof.Machine.execWakeClr w s
  | .msixEnableWrite en mask => Sys2Proof.Machine.execMsixEnableWrite en mask s
  | .msixUnmask v => Sys2Proof.Machine.execMsixUnmask v s
  | .thermalUpdate temps => Sys2Proof.Machine.execThermalUpdate temps s
  | .thermalTrip => Sys2Proof.Machine.execThermalTrip s
  | .hot n celsius => Sys2Proof.Machine.execHot n celsius s
  | .mgmtWrite bytes => Sys2Proof.Machine.execMgmtWrite bytes s
  | .mgmtRead => Sys2Proof.Machine.execMgmtRead s
  | .tapReset => Sys2Proof.Machine.execTapReset s
  | .extest => Sys2Proof.Machine.execExtest s
  | .samplePreload pins data => Sys2Proof.Machine.execSamplePreload pins data s
  | .idcode => Sys2Proof.Machine.execIdcode s
  | .clamp => Sys2Proof.Machine.execClamp s
  | .highz => Sys2Proof.Machine.execHighz s
  | .bypass => Sys2Proof.Machine.execBypass s

end Sys2Proof.Machine
end

