-- ==== Sys2Proof/Machine/Idle.lean ====
section
/-!
DEFINITION. What the block does while no command waits: one tick of clk TSC (R454).
-/
namespace Sys2Proof.Machine

/-- A tick: the raw counter adds 1 and wraps (R454), and the links go on (R337, R344). The counter stands while POR or
CRST is asserted. -/
def Dev.tick (d : Dev) : Dev :=
  if d.inReset then d else (List.range 8).foldl (fun d n => d.linkTick n) { d with raw := (d.raw + 1) % 2 ^ 64 }

/-- What an empty queue does. -/
def idle (s : State) : Result := onDev (fun d => d.tick) s

end Sys2Proof.Machine
end

