-- ==== Sys2Proof/Safety.lean ====
section
/-!
DEFINITION. What counts as a good state, a completed command and an unchanged rest, in the terms claims use.
-/
namespace Sys2Proof.Machine

/-- The invariant of every step: the frame store's cells are in their canonical form. -/
abbrev State.Inv (s : State) : Prop := Memory.wf s.mem

/-- A command completed: it answered a next state. -/
abbrev Completes (r : Host.Outcome State Fault Refusal) : Prop := ∃ t, r = .next t

/-- Two fields share no bit. -/
abbrev Fld.Apart (f g : Fld) : Prop := f.addr ≠ g.addr ∨ f.hi < g.lo ∨ g.hi < f.lo

/-- Only registers differ between two units, and the edges of event bits on their way to IC (R24). -/
def Dev.SameButRegs (d e : Dev) : Prop :=
  e = { d with
    regs := e.regs, badParity := e.badParity, ic := { d.ic with inflight := e.ic.inflight } }

/-- From s to t no register field changes that is apart from those listed. -/
def KeepsFlds (s t : State) (l : List Fld) : Prop :=
  ∀ f : Fld, (∀ g ∈ l, f.Apart g) → t.dev.fld f = s.dev.fld f

/-- The frame-store bytes and the queue do not change from s to t. -/
def KeepsStore (s t : State) : Prop := (∀ a, readByte t.mem a = readByte s.mem a) ∧ t.pending = s.pending

/-- From s to t nothing changes but the listed register fields. -/
def OnlyFlds (s t : State) (l : List Fld) : Prop :=
  KeepsStore s t ∧ s.dev.SameButRegs t.dev ∧ KeepsFlds s t l

/-- From s to t nothing changes but what head n's link holds, what the unit has sent, the number of free values taken
and the listed register fields. -/
def OnlyLink (s t : State) (n : Nat) (l : List Fld) : Prop :=
  KeepsStore s t ∧ s.dev.SameButRegs { t.dev with dp := s.dev.dp, out := s.dev.out, freeCount := s.dev.freeCount } ∧
    (∀ k, k ≠ n → t.dev.link k = s.dev.link k) ∧ KeepsFlds s t l

/-- From d to e the request q reaches the governor (R268), which has no request waiting for one of q's heads: it waits
behind the others while the governor is busy, and is the one under way where the governor was idle. -/
def Dev.Asks (d e : Dev) (q : GvRequest) : Prop :=
  (∀ p ∈ d.gv.waiting, ∀ h ∈ q.heads, h ∉ p.heads) →
    (d.gv.busy ≠ none → e.gv.busy = d.gv.busy ∧ e.gv.waiting = d.gv.waiting ++ [q]) ∧
    (d.gv.busy = none → d.gv.waiting = [] → e.gv.waiting = [] ∧ e.gv.busy.map (·.1) = some q)

/-- From d to e the copy engine n, whose active command then is c, issues the first burst that c has still to issue
(R359, R364): it goes to the frame store under the engine's lowest free tag, or waits behind the engine's others
for one; one that is refused ends the issue with code 0x10 unless the command has a code. With none to issue c
stands as it is. -/
def Dev.CopyIssues (d e : Dev) (n : Fin 2) (c : BxCmd) : Prop :=
  match c.todo with
  | [] => (e.bxe n).active = some c ∧ e.fs = d.fs
  | b :: rest =>
    let q : Request := ⟨.bx n, b.1, b.2, if b.2.isSome then .bxWrite n c.id else .bxRead n c.id⟩
    let free := d.fs.tagFree q = true ∧ d.fs.waiting.any q.sameSource = false
    let stays := d.refusal q ≠ none ∨ d.isSafe (Block.FS.base + stackOf q.addr) = true
    (free → ¬ stays → (e.bxe n).active = some { c with todo := rest } ∧ e.fs.waiting = d.fs.waiting ∧
      e.fs.inflight = d.fs.inflight ++ [⟨d.fs.lowestTag q, q, none⟩]) ∧
    (free → stays → e.fs.inflight = d.fs.inflight ∧ (e.bxe n).active =
        some { c with code := c.code.or (some 0x10), todo := [], rows := c.rowList.length, phase := .writing } ∧
      (d.fld ⟨R.BX_STATUS n, 1, 1⟩ = 0 → c.code = none → e.fld (R.BX_ERR_ADDR_ADDR n) = b.1 % 2 ^ 30)) ∧
    (¬ free → (e.bxe n).active = some { c with todo := rest } ∧ e.fs.inflight = d.fs.inflight ∧
      e.fs.waiting = d.fs.waiting ++ [q])

/-- From s to t nothing changes but what copy engine n and the frame store hold, and the listed register fields. -/
def OnlyCopy (s t : State) (n : Nat) (l : List Fld) : Prop :=
  KeepsStore s t ∧ s.dev.SameButRegs { t.dev with bx := s.dev.bx, fs := s.dev.fs } ∧
    (∀ k, k ≠ n → t.dev.bxe k = s.dev.bxe k) ∧ KeepsFlds s t l

/-- From s to t nothing changes but what cartridge port n and the streamer's lanes hold, what the unit has sent and
the listed register fields. -/
def OnlyPort (s t : State) (n : Nat) (l : List Fld) : Prop :=
  KeepsStore s t ∧ s.dev.SameButRegs { t.dev with cp := s.dev.cp, streamer := s.dev.streamer, out := s.dev.out } ∧
    (∀ k, k ≠ n → t.dev.cpOf k = s.dev.cpOf k) ∧ t.dev.streamer.queue = s.dev.streamer.queue ∧ KeepsFlds s t l

/-- From d to e the end of every job on cartridge port n is called for with a code, unless one was before; no other
lane changes. -/
def Dev.CallsJobs (d e : Dev) (n code : Nat) : Prop :=
  ∀ l < 4, e.lane l = if (d.lane l).job.isSome ∧ (d.lane l).port = n then
    { d.lane l with ending := some ((d.lane l).ending.getD code) } else d.lane l

/-- From s to t nothing changes but what the streamer holds, the purposes of requests and Reads under way and the
listed register fields. -/
def OnlyStreamer (s t : State) (l : List Fld) : Prop :=
  KeepsStore s t ∧ s.dev.SameButRegs { t.dev with streamer := s.dev.streamer, fs := s.dev.fs, cp := s.dev.cp } ∧
    t.dev.fs.inflight.map (fun i => (i.tag, i.req.addr, i.req.write)) =
      s.dev.fs.inflight.map (fun i => (i.tag, i.req.addr, i.req.write)) ∧
    t.dev.fs.waiting.map (fun r => (r.addr, r.write)) = s.dev.fs.waiting.map (fun r => (r.addr, r.write)) ∧
    KeepsFlds s t l

/-- Port p hands this unit the device frame f with the data `data` (R410, R414 to R416): the link is up, the receive
buffer has room, the unit is configured, the header sound, the frame sent to this unit alone, or to all and at its
last hop; a protected frame opens to `data`. -/
abbrev Dev.Accepts (d : Dev) (p : Nat) (f : RingFrame) (data : List Byte) : Prop :=
  d.linkUp p = true ∧ d.rxBuffered p + f.bytes ≤ 524288 ∧ d.configured = true ∧ headerOk f = true ∧
    (f.dest.toNat = d.unitAddr ∨ f.dest = 0 ∧ f.src.toNat ≠ d.unitAddr ∧ f.hops.toNat ≤ 1) ∧
    (if f.isProtected then (d.ownerKey f.owner.toNat).bind (fun key => gcmOpen key f.iv.toNat (RingFrame.aad f) f.payload)
      else some f.payload) = some data

/-- The frame as this unit consumes it: a hop fewer, its data opened. -/
def Dev.taken (f : RingFrame) (data : List Byte) : RingFrame :=
  { f with hops := BitVec.ofNat 8 (f.hops.toNat - 1), payload := data }

/-- From d to e the item g joins port n's queue of its class. -/
def Dev.Queues (d e : Dev) (n : Nat) (g : TxItem) : Prop :=
  (e.classOf n g.queue).queue = (d.classOf n g.queue).queue ++ [g]

/-- From d to e a frame g of this unit leaves (R415, R431, R432): it is queued on the port that leads to its DEST,
with CLASS, HOPS and TIME set; it waits where that port has no room; with both links down nothing is queued and
nothing waits anew. -/
def Dev.Leaves (d e : Dev) (g : RingFrame) : Prop :=
  match if d.configured then d.routeOf g.dest.toNat else none with
  | none => e.sh.waiting = d.sh.waiting ∧ ∀ n < 2, ∀ c < 8, (e.classOf n c).queue = (d.classOf n c).queue
  | some n => if d.canQueue n (.device g) then d.Queues e n (d.stampFrame g)
    else e.sh.waiting = d.sh.waiting ++ [(n, .device g)]

/-- This unit's answer of a kind, subtype and status to the request q, without data (R412). -/
def Dev.answer (d : Dev) (q : RingFrame) (kind sub status : Nat) (arg0 : Word) : RingFrame :=
  { d.newFrame kind sub q.src.toNat with
    txn := q.txn, tag := if kind = 5 then 0 else q.tag, offset := q.offset, arg0 := arg0,
    status := BitVec.ofNat 8 status }

/-- From d to e that answer leaves. -/
def Dev.Responds (d e : Dev) (q : RingFrame) (kind sub status : Nat) (arg0 : Word) : Prop :=
  d.Leaves e (d.answer q kind sub status arg0)

/-- From d to e channel k's command ends with an error (R420): STATE 3, the code, RQ_ERR; of the pieces `left` those
that still read are dropped, and no ABORT waits. -/
def Dev.FailsChannel (d e : Dev) (k code : Nat) (left : List Piece) : Prop :=
  e.fld (R.SH_RQ_STATE_STATE k) = 3 ∧ e.fld (R.SH_RQ_STATE_CODE k) = code % 2 ^ 8 ∧ e.fld ⟨R.SH_STATUS, 8, 8⟩ = 1 ∧
    e.channel k = { d.channel k with pieces := left.filter (·.phase != .reading), abort := false }

/-- The register fields in which a channel's command shows its end. -/
def endFlds (k : Nat) : List Fld :=
  [R.SH_RQ_STATE_STATE k, R.SH_RQ_STATE_CODE k, ⟨R.SH_STATUS, 8, 8⟩, ⟨R.SH_STATUS, 7, 7⟩, R.SH_STATUS_SEQ]

/-- From s to t piece x of channel k is gone with a code that is not 0 (R420), and, but for what SH holds and the
fields l, nothing else changes. The command it belongs to, under way and not aborted, fails with the code; one
that an ABORT ends does so with its last piece, with CODE 10; a command that has ended, and one that has issued
all its pieces, of which it is none, stay as they are. -/
def PieceFails (s t : State) (k : Nat) (x : Piece) (code : Nat) (l : List Fld) : Prop :=
  let c := s.dev.channel k
  let left := c.pieces.filter (·.id != x.id)
  let mine := x.cmd = c.cmd
  let only := fun l => OnlyFlds s { t with dev := { t.dev with sh := s.dev.sh } } l
  (s.dev.rqBusy k = false → t.dev.channel k = { c with pieces := left } ∧ only l) ∧
    (s.dev.rqBusy k = true → mine → c.abort = false → s.dev.FailsChannel t.dev k code left ∧ only (l ++ endFlds k)) ∧
    (s.dev.rqBusy k = true → c.abort = true → left.any (·.cmd == c.cmd) = false →
      s.dev.FailsChannel t.dev k 10 left ∧ only (l ++ endFlds k)) ∧
    (s.dev.rqBusy k = true → c.abort = true → left.any (·.cmd == c.cmd) = true →
      t.dev.channel k = { c with pieces := left } ∧ only l) ∧
    (s.dev.rqBusy k = true → ¬ mine → c.abort = false → s.dev.fld (R.SH_RQ_LENGTH_BYTES k) ≤ c.next →
      left.any (·.cmd == c.cmd) = true → (∀ y ∈ left, y.phase ≠ .reading) → t.dev.channel k = { c with pieces := left } ∧ only l)

/-- From s to t nothing changes but what TS keeps outside its registers, the number of free values taken and the
listed register fields. -/
def OnlyTime (s t : State) (l : List Fld) : Prop :=
  KeepsStore s t ∧ s.dev.SameButRegs { t.dev with ts := s.dev.ts, freeCount := s.dev.freeCount } ∧ KeepsFlds s t l

/-- The register fields that the servo of calendar x, or a change of its state, may change. -/
def servoFlds (x : Nat) : List Fld :=
  [R.TS_CAL_OFFSET_THETA x, R.TS_CAL_INTEG_I x, R.TS_CAL_RATE_RATE x, R.TS_CAL_STEP_COUNT_COUNT x,
    R.TS_CAL_HINT_AGE_VALID x, R.TS_CAL_STATE_STATE x, ⟨R.TS_STATUS, 2 * x, 2 * x⟩, ⟨R.TS_STATUS, 2 * x + 1, 2 * x + 1⟩,
    ⟨R.TS_STATUS, 4, 4⟩, ⟨R.TS_STATUS, 8, 8⟩, R.TS_STATUS_SEQ, R.TS_CTRL_ACTIVE, R.TS_STATUS_ACTIVE_NOW,
    R.TS_STATUS_SLEWING]

/-- The register fields that a decision of calendar x's instance may change. -/
def decisionFlds (x : Nat) : List Fld :=
  servoFlds x ++ [R.TS_CAL_STATE_PORT0 x, R.TS_CAL_STATE_PORT1 x, ⟨R.TS_CAL_GM_ID_LO x, 31, 0⟩, ⟨R.TS_CAL_GM_ID_HI x, 31, 0⟩,
    ⟨R.TS_STATUS, 7, 7⟩]

/-- From d to e the servo of calendar x acts on the offset theta of a Sync on port p (R464 to R466), in the state st,
after `good` samples in a row within LOCK_NS and `bad` beyond UNLOCK_NS. -/
def Dev.ServoActs (d e : Dev) (x p : Nat) (theta : Int) (st good bad : Nat) : Prop :=
  let mag := theta.natAbs
  let limit := fun (f : Fld) => d.fld f * nsUnits
  let steps := st = 1 ∧ limit (R.TS_CAL_LOCK_CFG_STEP_NS x) < mag
  let log := signed 8 (d.fld (R.TS_RP_CFG_LOG_SYNC p))
  let top : Int := 1000000 * 65536
  let i := max (-top) (min ((d.cal x).integ + gainTerm (d.fld (R.TS_CAL_GAIN_KI x)) theta log) top)
  let rho := max (-top) (min (-(gainTerm (d.fld (R.TS_CAL_GAIN_KP x)) theta log + i)) top)
  let locks := st = 1 ∧ mag ≤ limit (R.TS_CAL_LOCK_CFG_LOCK_NS x) ∧ 7 ≤ good
  let unlocks := st = 2 ∧ limit (R.TS_CAL_LOCK_CFG_UNLOCK_NS x) < mag ∧ 2 ≤ bad
  let acts := d.isSafe Block.TS.base = false
  let keeps := e.fld (R.TS_CAL_RATE_RATE x) = d.fld (R.TS_CAL_RATE_RATE x) ∧ (e.cal x).integ = (d.cal x).integ
  e.fld (R.TS_CAL_OFFSET_THETA x) = unsigned 32 (max (-(2 ^ 31)) (min (theta / 65536) (2 ^ 31 - 1))) ∧
    (¬ acts → e.calNow x = d.calNow x ∧ e.calState x = st ∧ keeps) ∧
    (acts → steps → (e.calNow x : Int) = ((d.calNow x : Int) - theta) % calWrap ∧ keeps ∧ (e.cal x).hint = none ∧
      e.fld (R.TS_CAL_HINT_AGE_VALID x) = 0 ∧
      e.fld (R.TS_CAL_STEP_COUNT_COUNT x) = min (d.fld (R.TS_CAL_STEP_COUNT_COUNT x) + 1) (2 ^ 32 - 1)) ∧
    (acts → ¬ steps → e.calNow x = d.calNow x ∧ (st ≠ 1 → st ≠ 2 → keeps) ∧
      (st = 1 ∨ st = 2 → (e.cal x).integ = i ∧ e.fld (R.TS_CAL_INTEG_I x) = unsigned 32 (i / 65536) ∧
        e.calRate x = clampRate (rho * 2 ^ 24 / 1000000000))) ∧
    (acts → e.calState x = (if locks then 2 else if unlocks then 1 else st) ∧
      (locks → e.fld ⟨R.TS_STATUS, 2 * x, 2 * x⟩ = 1) ∧ (unlocks → e.fld ⟨R.TS_STATUS, 2 * x + 1, 2 * x + 1⟩ = 1))

/-- From d to e calendar x's instance, whose MODE is not 0, has decided anew (R463, R466): the ports stand as the best
master clock algorithm gives, the grandmaster is the best master heard, this unit, or none, and the calendar's
state follows. -/
def Dev.Decides (d e : Dev) (x : Nat) : Prop :=
  let at' := fun (k : Nat) => e.portDecision x 0 = k ∨ e.portDecision x 1 = k
  let gm := fun (a : Option DataSet) => a.map (·.gm)
  e.portState x 0 = e.portDecision x 0 ∧ e.portState x 1 = e.portDecision x 1 ∧
    (at' 9 → e.calState x = (if d.calState x = 0 ∨ d.calState x = 4 then 1 else d.calState x) ∧
      (e.cal x).parent = Dev.pick (e.portBest x 0) (e.portBest x 1)) ∧
    (¬ at' 9 → at' 6 → e.calState x = 4 ∧ (e.cal x).parent = some (e.ownSet x)) ∧
    (¬ at' 9 → ¬ at' 6 → e.calState x = 0 ∧ (e.cal x).parent = none) ∧
    e.get64 (R.TS_CAL_GM_ID_LO x) (R.TS_CAL_GM_ID_HI x) = ((gm (e.cal x).parent).getD 0) % 2 ^ 64 ∧
    (gm (e.cal x).parent ≠ gm (d.cal x).parent → e.fld ⟨R.TS_STATUS, 7, 7⟩ = 1)

/-- From s to t nothing changes but what pin n holds, the number of free values taken and the listed register fields. -/
def OnlyPin (s t : State) (n : Nat) (l : List Fld) : Prop :=
  KeepsStore s t ∧ s.dev.SameButRegs { t.dev with ev := s.dev.ev, freeCount := s.dev.freeCount } ∧
    (∀ k, k ≠ n → t.dev.pin k = s.dev.pin k) ∧ KeepsFlds s t l

/-- From s to t nothing changes but what IC and its wake latches hold, what the unit has sent and the listed register
fields. -/
def OnlyIc (s t : State) (l : List Fld) : Prop :=
  KeepsStore s t ∧ s.dev.SameButRegs { t.dev with ic := s.dev.ic, rx := s.dev.rx, out := s.dev.out } ∧ KeepsFlds s t l

/-- From d to e IC computes its request lines anew (R485, R486, R493), one target's claim or completion among it or
none: each line is that of its target, an open group holds a pending source, a line that rises, or that the
target's claim or completion leaves at 1, is a delivery event, whose message goes out or, masked, leaves its
Pending bit, and a Pending bit falls with its line. `last` goes out after the messages. -/
def Dev.LinesFollow (d e : Dev) (touched : Option Nat) (last : List OutMsg) : Prop :=
  let event := fun t => (e.icTarget t).line && (!(d.icTarget t).line || touched == some t) && d.ic.msixEnable
  (∀ t < 16, (e.icTarget t).line = e.lineOf t) ∧
    (∀ g < 32, (e.coal g).isOpen = true → e.pendingSources.any (fun s => e.srcCoal s == g) = true) ∧
    e.out = d.out ++ ((List.range 14).filter (fun t => event t && !d.vectorMasked t)).map .msix ++ last ∧
    (∀ v < 14, e.pba v = (event v && d.vectorMasked v || (e.icTarget v).line && d.pba v)) ∧
    e.ic.msixEnable = d.ic.msixEnable ∧ e.ic.funcMask = d.ic.funcMask

/-- From d to e no target's stack or fault changes but that of target x. -/
def Dev.KeepsTargets (d e : Dev) (x : Option Nat) : Prop :=
  ∀ y < 16, x ≠ some y → (e.icTarget y).stack = (d.icTarget y).stack ∧ (e.icTarget y).fault = (d.icTarget y).fault ∧
    (e.icTarget y).faultSrc = (d.icTarget y).faultSrc

/-- From d to e no group changes but group x, and those that close, none of their sources being pending (R493). -/
def Dev.KeepsGroups (d e : Dev) (x : Option Nat) : Prop :=
  ∀ g < 32, x ≠ some g → e.coal g = d.coal g ∨
    (d.coal g).isOpen = true ∧ e.coal g = ⟨false, 0, none⟩ ∧ e.pendingSources.any (fun s => e.srcCoal s == g) = false

/-- From d to e a time message joins port p's queue of class 7, or waits while the port has no room (R431, R432). -/
def Dev.Sends (d e : Dev) (p : Nat) (i : TxItem) : Prop :=
  if d.canQueue p i then d.Queues e p i else e.sh.waiting = d.sh.waiting ++ [(p, i)]

/-- The front end and the stack refuse no part of a request (R179, R540). -/
abbrev Dev.Passes (d : Dev) (q : Request) : Prop :=
  d.refusal q = none ∧ d.isSafe (Block.FS.base + stackOf q.addr) = false

/-- From d to e the requests go to the frame store: each is in flight or waits for a tag. -/
def Dev.Issues (d e : Dev) (rs : List Request) : Prop :=
  e.fs.inflight.length + e.fs.waiting.length = d.fs.inflight.length + d.fs.waiting.length + rs.length ∧
    ∀ q ∈ rs, q ∈ e.fs.inflight.map (·.req) ∨ q ∈ e.fs.waiting

end Sys2Proof.Machine


namespace Sys2Proof
open Machine

/-- The fields that a soft reset of a block leaves showing what goes on: reservations of the heads, requests in
flight, a stack that is being retrained. -/
def SoftBlock.shows : SoftBlock → List Fld
  | .gv => ((List.range 4).flatMap fun s => [R.GV_RES_FSs_BPC s, R.GV_MODEL_FSs_ADMIT_NS s]) ++
      [R.GV_RES_LINK_E2W, R.GV_RES_LINK_W2E, R.GV_RES_TAGS_TAGS, R.GV_STATUS_TABLE, R.GV_STATUS_FORCED_ACTIVE]
  | .fs n => [R.FS_STATE_SELF_REFRESH n, R.FS_STATE_TRAINED n]
  | .bx n => [R.BX_STATUS_BUSY n]
  | .as => [R.AS_STATUS_LANE_BUSY]
  | _ => []

/-- The block that a command is of, for the commands that need their block to be usable (R87, R96). -/
def Instr.block : Instr → Option Block
  | .fsRequest _ _ _ | .fsReadComplete _ _ _ | .fsWriteComplete _ _ | .eccWriteback _ | .scrubStep _ _
  | .refreshDeadline _ | .latReset _ | .hot _ _ => some .FS
  | .tagHwReset => some .CL
  | .headLineStart _ | .eveLineStart _ | .harvestPoint _ | .headUnderrun _ _ | .headStart _ | .headPllLocked _
  | .headTimedStart _ | .headStop _ | .headArm _ | .headCancel _ | .stagedWriteRecheck _ _
  | .splitLeaderWrite _ _ => some .HD
  | .leRowFetch _ => some .LE
  | .gvEvaluationDone | .relearn _ | .gvFlatDisable | .flatCaptureOverflow _ | .flatVerifyDone _ _
  | .flatVerifyTimeout _ => some .GV
  | .linkEnableWrite _ _ | .linkTrainAuto _ | .linkTrainManualPattern _ _ | .linkTrainManualDeclare _
  | .autoTrainingEnd _ _ _ | .auxGo _ | .auxDone _ _ _ _ | .auxReplyTimeout _ | .hpdEnWrite _ _
  | .hpdEdge _ _ _ _ | .hpdUnplug _ | .hpdPlug _ | .hdcpAuthStart _ | .hdcpStopAuth _ | .hdcpAuthEnd _ _
  | .hdcpReauthTimer _ | .streamManageConfirmed _ | .encryptionEnable _ | .srmLoad => some .DP
  | .bxSubmit _ | .bxCmdStart _ | .bxBurstIssue _ | .bxRowReadsDone _ | .bxCmdEnd _ | .bxResume _ | .bxAbort _
    => some .BX
  | .cpEnableWrite _ _ | .cpRestart _ | .logRefresh _ | .cpDetectRetry _ | .linkUp _ _ _ | .cpInitStepDone _ _
  | .cpInitTimeout _ | .cpReadCompletion _ _ _ | .cpCmdTimeout _ | .cpFatal _ | .linkDown _ | .cpShutdownDone _
    => some .CP
  | .asJobGo _ | .asJobAbort _ | .asJobStart | .asManifestChecked _ | .asChunkReap _ | .asChunkDecoded _
  | .asJobEnd _ | .asLaneZeroed _ => some .AS
  | .kyProgram | .kyRevoke | .kySetCfg | .progDone _ => some .KY
  | .rpLinkUp _ | .rpLinkDown _ | .rpRestart _ | .rpFrameRx _ _ _ | .rpTxSelect _ | .tile _ _ | .write _ _
  | .readReq _ _ | .readRsp _ _ | .writeAck _ _ | .regWrite _ _ | .regRead _ _ | .regRsp _ _ | .notice _ _
  | .syncRx _ _ | .followUpRx _ _ | .announceRx _ _ | .pdelayReqRx _ _ | .pdelayRespRx _ _
  | .pdelayRespFollowUpRx _ _ => some .RP
  | .ringRequestTimeout _ | .rqGo _ | .rqAbort _ | .rmtGo | .noticeTx | .sourceSend _ | .streamEnable _ _
  | .almanacChange _ | .almanacCancel _ | .almanacStart _ | .almanacEntryBoundary _ => some .SH
  | .tsSnap | .calSet _ | .calStep _ | .calRateWrite _ _ | .activeWrite _ | .activeViewSlewStep
  | .hintWrite _ _ | .hintExpire _ | .syncTx _ _ | .announceTx _ _ | .pdelayReqTx _ _
  | .announceReceiptTimeout _ _ | .syncLossHoldover _ => some .TS
  | .evModeWrite _ _ | .evArm _ | .evDisarm _ | .evPop _ | .evScheduledEdge _ | .evPinEdge _ _ _ _ => some .EV
  | .icClaim _ | .icComplete _ _ | .icTargetReset _ | .icPendWrite _ _ | .coalFlush _ | .wakeClr _ => some .IC
  | _ => none

end Sys2Proof
end

