-- ==== Sys2Proof/Certificates/Slice0/Obligations.lean ====
section
/-!
DEFINITION. The statements about the model, one definition for each. `exec c s = .next t` says that the command c completes
at s and leaves t. `OnlyFlds s t l` says that nothing changes but the register fields listed.
-/
open Sys2Proof Sys2Proof.Machine


/-! ### The machine -/

/-- The queue gives the commands their order: a step runs the command at the front on the state with the queue's rest. -/
def Obligations.StepRunsFrontCommand : Prop :=
  ∀ (c : Instr) (rest : List Instr) (s : State), s.pending = c :: rest → step s = exec c { s with pending := rest }

/-- R454, R337, R344, and log entry 1 (the model's choice: with no command waiting, the block's clock ticks): the raw
counter adds 1 and wraps at 64 bits, and each link's waiting AUX transaction and its authentication may go on,
except in reset; where no link has either, nothing but the raw counter changes.

The model's readings and choices that it rests on: log entries 1 and 101. -/
def Obligations.EmptyQueueTicksRawCounter : Prop :=
  ∀ s : State, s.pending = [] →
    let ticked := { s.dev with raw := (s.dev.raw + 1) % 2 ^ 64 }
    (s.dev.inReset = true → step s = .next s) ∧
      (s.dev.inReset = false → step s = .next { s with dev := (List.range 8).foldl (fun d n => d.linkTick n) ticked } ∧
        ((∀ n < 8, (s.dev.link n).aux.all (·.sent) = true ∧ (s.dev.link n).auth ≠ .running) →
          step s = .next { s with dev := ticked }))

/-- Every command completes from every state, and takes nothing from the queue and puts nothing into it.

The model's readings and choices that it rests on: log entry 5. -/
def Obligations.EveryCommandCompletes : Prop :=
  ∀ (c : Instr) (s : State), ∃ t, exec c s = .next t ∧ t.pending = s.pending

/-- The state after power-on (R11, R12): every register holds its reset value, no structure is in force, the loader is
idle, POR is asserted, the frame store lists nothing and no command waits.

A POR (R11, R99), from every state: the unit is as State.reset has it, every register and every RX register at its
reset value, no structure, no load, no request, no address, with these exceptions. The fuses stay. What has left the
unit has left it. The level on CRST_N stays (R522), and the temperatures of the dies. The prefix of the ring IV is
drawn anew (R414): it is the number of free values drawn before. The frame-store bytes, undefined until the first FULL
image zeroes them (R99), stand in the model as they were, and the queue stays.

The model's readings and choices that it rests on: log entries 3, 4, 58 and 70. -/
def Obligations.PowerOnState : Prop :=
  (State.reset.Inv ∧ State.reset.mem = [] ∧ State.reset.pending = [] ∧ (∀ a, State.reset.dev.get a = resetWord a) ∧
    (∀ slot ind, State.reset.dev.getRx slot ind = 0) ∧ State.reset.dev.fp = Floorplan.blank ∧
    State.reset.dev.loader.phase = .idle ∧ State.reset.dev.chain.power = .por ∧ State.reset.dev.raw = 0) ∧
  (∀ s : State, ∃ t, exec .por s = .next t ∧ (∀ a, t.dev.get a = resetWord a) ∧ (∀ slot ind, t.dev.getRx slot ind = 0) ∧
    t.dev = { Dev.reset with
      otp := s.dev.otp
      out := s.dev.out
      chain := { ChainSt.reset with crstLow := s.dev.chain.crstLow }
      board := { BoardSt.reset with logicC := s.dev.board.logicC, stackC := s.dev.board.stackC }
      sh := { ShSt.reset with ivPrefix := s.dev.freeCount }
      freeCount := s.dev.freeCount + 1 } ∧
    t.mem = s.mem ∧ t.pending = s.pending)

/-- Every step keeps the frame store in its canonical form: rising addresses, no listed byte that reads as an unlisted
one. -/
def Obligations.EveryStepKeepsStoreCanonical : Prop :=
  ∀ s t : State, s.Inv → step s = .next t → t.Inv

/-- Only the completions of the frame store's reads and writes, which carry out the requests granted before them
(R166, R174), the write-back of a corrected word (R172) and the end of the zero-fill (R77) change bytes of the
frame store. -/
def Obligations.OnlyStoreCommandsChangeBytes : Prop :=
  ∀ (c : Instr) (s t : State), exec c s = .next t →
    (match c with
      | .fsReadComplete .. | .fsWriteComplete .. | .eccWriteback .. | .zerofillDone => false
      | _ => true) = true →
    t.mem = s.mem ∧ ∀ a, readByte t.mem a = readByte s.mem a


/-! ### Power, resets and the chain (chapters 01, 03, 16) -/

/-- POR_RELEASE starts the load of the OTP shadow; OTP_SHADOW_LOADED ends it and, with CRST_N high, starts the
sequence of R82: the sample of CADDR_IN is due, and the slot of the start is taken from CH_STAGGER (R82, R109,
R393, R513). In any other phase either one does nothing.

The rising edge of CRST_N (R82, R516). It lets a unit that a trip holds go if every logic sensor is below 100 °C
and every stack below 90 °C. It starts the sequence of R82 in a powered unit that nothing holds any longer: the
sample of CADDR_IN is due, the slot of the start is taken from CH_STAGGER (R109). With CRST_N high before, it does
nothing. -/
def Obligations.PowerSequence : Prop :=
  (∀ s : State,
    exec .porRelease s = .next (if s.dev.chain.power = .por then
      { s with dev := { s.dev with chain := { s.dev.chain with power := .otpLoading } } } else s) ∧
    (s.dev.chain.power ≠ .otpLoading → exec .otpShadowLoaded s = .next s) ∧
    (s.dev.chain.power = .otpLoading → exec .otpShadowLoaded s = .next { s with dev := { s.dev with
      shadow := s.dev.otp
      chain := if s.dev.chain.crstLow then { s.dev.chain with power := .running }
        else { s.dev.chain with power := .running, addr := .released, slotMs := s.dev.fld R.CH_STAGGER_SLOT_MS } } })) ∧
  (∀ s : State,
    (s.dev.chain.crstLow = false → exec .crstRelease s = .next s) ∧
    (s.dev.chain.crstLow = true → exec .crstRelease s =
      .next { s with dev := { s.dev with chain :=
        if s.dev.chain.power ≠ .running ∨ (s.dev.chain.tripHold = true ∧ s.dev.coolEnough = false) then
          { s.dev.chain with crstLow := false, tripHold := s.dev.chain.tripHold && !s.dev.coolEnough }
        else { s.dev.chain with
          crstLow := false, tripHold := false, addr := .released, slotMs := s.dev.fld R.CH_STAGGER_SLOT_MS } } }))

/-- CRST_N low for 10 µs or more puts a powered unit into the CRST state (R11, R99, R514): every field of class CRST,
FLR, HRST or SRST is back at its reset value and every other field keeps its value; SY_RESET_CAUSE.CRST is set and
its SEQ counts; the structure and the chain address go; the fuses, the OTP shadow and the frame-store bytes stay.
One below 1 µs is ignored. From 1 µs to 10 µs a free value says which of the two happens. In POR the level is only
noted (R522).

The model's readings and choices that it rests on: log entries 17 and 18. -/
def Obligations.CrstResetsItsClasses : Prop :=
  ∀ (lowNs : Nat) (s : State),
    (lowNs < 1000 → exec (.crst lowNs) s = .next s) ∧
    (1000 ≤ lowNs → lowNs < 10000 →
      exec (.crst lowNs) s = .next { s with dev := { s.dev with freeCount := s.dev.freeCount + 1 } } ∨
      exec (.crst lowNs) s = exec (.crst 10000) { s with dev := { s.dev with freeCount := s.dev.freeCount + 1 } }) ∧
    (10000 ≤ lowNs → s.dev.chain.power = .por → exec (.crst lowNs) s = .next
      { s with dev := { s.dev with chain := { s.dev.chain with crstLow := true } } }) ∧
    (10000 ≤ lowNs → s.dev.chain.power ≠ .por → ∃ t, exec (.crst lowNs) s = .next t ∧
      (∀ a r f, a ≠ R.SY_RESET_CAUSE → rowOf a = some r → f ∈ r.fields →
        t.dev.fld ⟨a, f.hi, f.lo⟩ = if f.cls.hitBy 2 then bits (resetWord a).toNat f.hi f.lo else s.dev.fld ⟨a, f.hi,
            f.lo⟩) ∧
      t.dev.fld R.SY_RESET_CAUSE_CRST = 1 ∧
      t.dev.fld R.SY_RESET_CAUSE_SEQ = (s.dev.fld R.SY_RESET_CAUSE_SEQ + 1) % 256 ∧
      t.dev.fp = Floorplan.blank ∧ t.dev.loader = LoaderSt.reset ∧ t.dev.chain.crstLow = true ∧
      t.dev.chain.addr = .held ∧ t.dev.raw = 0 ∧ t.dev.otp = s.dev.otp ∧ t.dev.shadow = s.dev.shadow ∧ KeepsStore s t)

/-- Address assignment (R82 to R86), CADDR_SAMPLE, ADDRESS_TOKEN and ENUM_TIMEOUT from every state. A unit whose
sample is due takes address 1 where CADDR_IN is high, and waits for a token where it is low. A unit that waits
takes the ADDR from 2 to 63 of a token with a start bit, odd parity over ADDR and the parity bit, and a stop bit
of 0. A unit that takes address A sends the token of A + 1 and shows A in CH_CHAIN_ADDR; TS_CLOCK_ID_LO ends in A
(R477). An ADDR of 64 or more gives ENUM_ERR 1 and the token of 64; a wrong parity or stop bit gives ENUM_ERR 3
and no token; no start bit in time gives ENUM_ERR 2 and no token. A unit with an ENUM_ERR keeps its address of 0
and drives CERR_N low. Without a start bit there is no token, and an ADDR of 0 or 1 is none that R84 lets a unit
take; neither changes anything, nor does any of the three that is not due. A token that the unit sends carries its
address in bits 7 to 1 between a start bit of 1, the odd parity bit and a stop bit of 0 (R83), and CADDR_OUT
stands at 0 after it.

The staggered start (R87, R95, R96, R115, R187), for every step. A step may start once the release of R82 has come;
all but the control and the PCI Express step need an address. A step that may run and does not run yet starts, and
nothing else changes; another start does nothing. When a step that runs completes, it no longer runs and its
SY_BRINGUP bit is 1; a stack is then trained. The control step makes the control island run. READY becomes 1 when
every step of a unit with an address has completed. The completion of a step that does not run does nothing.

Before READY only SY and CH can be used, in a unit with address 0 also IC (R87, R96): a command of another block
changes nothing.

The model's readings and choices that it rests on: log entries 8 and 25. -/
def Obligations.AddressesAndStaggeredStart : Prop :=
  ((∀ a, a < 128 → bit (Dev.tokenOf a).toNat 0 = true ∧ bits (Dev.tokenOf a).toNat 7 1 = a ∧
    Dev.oddOnes (bits (Dev.tokenOf a).toNat 8 1) 8 = true ∧ bit (Dev.tokenOf a).toNat 9 = false) ∧
  ∀ (s : State) (token : BitVec 10) (high : Bool),
    let takes := fun (c : Instr) (a : Nat) => ∃ t, exec c s = .next t ∧ t.dev.fld R.CH_CHAIN_ADDR_ADDR = a ∧
      t.dev.fld R.CH_CHAIN_ADDR_ENUM_DONE = 1 ∧ t.dev.fld ⟨R.TS_CLOCK_ID_LO, 7, 0⟩ = a ∧
      t.dev.out = s.dev.out ++ [.addressToken (Dev.tokenOf (a + 1))] ∧
      t.dev.chain = { s.dev.chain with addr := .done, caddrOut := false } ∧
      OnlyFlds s { t with dev := { t.dev with out := s.dev.out, chain := s.dev.chain } }
        [R.CH_CHAIN_ADDR_ADDR, R.CH_CHAIN_ADDR_ENUM_DONE, ⟨R.TS_CLOCK_ID_LO, 7, 0⟩]
    let fails := fun (c : Instr) (code : Nat) (tokens : List OutMsg) => ∃ t, exec c s = .next t ∧
      t.dev.fld R.CH_CHAIN_STATUS_ENUM_ERR = code ∧ t.dev.fld R.CH_CHAIN_ADDR_ENUM_DONE = 1 ∧
      t.dev.out = s.dev.out ++ tokens ∧ t.dev.chain.addr = .done ∧ (s.dev.inReset = false → t.dev.cerrDrive = true) ∧
      OnlyFlds s { t with dev := { t.dev with out := s.dev.out, chain := s.dev.chain } }
        [R.CH_CHAIN_STATUS_ENUM_ERR, R.CH_CHAIN_ADDR_ENUM_DONE]
    (s.dev.chain.addr = .released → takes (.caddrSample true) 1) ∧
    (s.dev.chain.addr = .released → exec (.caddrSample false) s =
      .next { s with dev := { s.dev with chain := { s.dev.chain with addr := .waitToken } } }) ∧
    (s.dev.chain.addr ≠ .released → exec (.caddrSample high) s = .next s) ∧
    (s.dev.chain.addr = .waitToken → bit token.toNat 0 = true → Dev.oddOnes (bits token.toNat 8 1) 8 = true →
      bit token.toNat 9 = false →
      (2 ≤ bits token.toNat 7 1 → bits token.toNat 7 1 ≤ 63 → takes (.addressToken token) (bits token.toNat 7 1)) ∧
      (64 ≤ bits token.toNat 7 1 → fails (.addressToken token) 1 [.addressToken (Dev.tokenOf 64)]) ∧
      (bits token.toNat 7 1 < 2 → exec (.addressToken token) s = .next s)) ∧
    (s.dev.chain.addr = .waitToken → bit token.toNat 0 = true →
      (Dev.oddOnes (bits token.toNat 8 1) 8 = false ∨ bit token.toNat 9 = true) → fails (.addressToken token) 3 []) ∧
    (s.dev.chain.addr = .waitToken → fails .enumTimeout 2 []) ∧
    (s.dev.chain.addr ≠ .waitToken ∨ bit token.toNat 0 = false → exec (.addressToken token) s = .next s) ∧
    (s.dev.chain.addr ≠ .waitToken → exec .enumTimeout s = .next s)) ∧
  (∀ (s : State) (p : PowerStep),
    (s.dev.stepAllowed p = (!s.dev.inReset && s.dev.chain.addr != .held &&
      (p == .control || p == .pcie || s.dev.unitAddr != 0))) ∧
    exec (.staggerStepStart p) s = .next (if s.dev.stepAllowed p = true ∧ p ∉ s.dev.chain.started then { s with dev :=
      { s.dev with chain := { s.dev.chain with started := s.dev.chain.started ++ [p] } } } else s) ∧
    (p ∉ s.dev.chain.started → exec (.staggerStepDone p) s = .next s) ∧
    (p ∈ s.dev.chain.started → ∃ t, exec (.staggerStepDone p) s = .next t ∧
      t.dev.chain = { s.dev.chain with
        started := s.dev.chain.started.filter (· != p), controlUp := s.dev.chain.controlUp || p == .control } ∧
      (∀ b, (p, b) ∈ [(PowerStep.fs0, 4), (.fs1, 5), (.fs2, 6), (.fs3, 7), (.ring, 8), (.cartridge, 9), (.display, 10),
        (.pcie, 12)] → t.dev.fld ⟨R.SY_BRINGUP, b, b⟩ = 1) ∧
      (∀ n, (p, n) ∈ [(PowerStep.fs0, 0), (.fs1, 1), (.fs2, 2), (.fs3, 3)] → t.dev.fld (R.FS_STATE_TRAINED n) = 1) ∧
      t.dev.fld R.SY_BRINGUP_READY = (if t.dev.fld R.SY_BRINGUP_PCIE_UP = 1 ∧ t.dev.fld R.SY_BRINGUP_SERDES_UP = 7 ∧
        t.dev.fld R.SY_BRINGUP_FS_UP = 15 ∧ t.dev.chain.controlUp = true ∧ s.dev.unitAddr ≠ 0 then 1
        else s.dev.fld R.SY_BRINGUP_READY) ∧
      OnlyFlds s { t with dev := { t.dev with chain := s.dev.chain } } [⟨R.SY_BRINGUP, 12, 12⟩, ⟨R.SY_BRINGUP, 10, 4⟩,
        R.SY_BRINGUP_READY, R.FS_STATE_TRAINED 0, R.FS_STATE_TRAINED 1, R.FS_STATE_TRAINED 2, R.FS_STATE_TRAINED 3])) ∧
  (∀ (c : Instr) (b : Block) (s : State), c.block = some b → s.dev.blockHeld b = true → exec c s = .next s)

/-- Chain frames (R80, R89 to R92), CHAIN_FRAME in every state. In reset the frame does nothing. Otherwise its bits,
SYNC, CMD, DEST, their complements and the image, most significant bit first, leave on CDOUT one for one, and the
unit tracks them from where it stands. A unit that hunts anew and gets a frame whose complements or CMD are wrong
sets HDR_BAD and hunts on. A sound frame counts in FRAMES_SEEN; one that is for this unit and comes before READY
sets EARLY and drives CERR_N low; one that comes while CH is in its safe state sets REJECTED; one that comes while
the loader is busy gives ERROR with E_LOADER_BUSY in CH_LOAD_ERR, the loader left alone; one that comes with the
loader free opens a load, counts in FRAMES_LOADED, releases CERR_N and gives the loader its bytes: the first 64,
and, where these are a valid header, the bytes up to TOTAL_LEN.

CHAIN_STALL and CERR_RELEASE (R94, R108), in every state. A stall makes a unit that tracks a frame hunt anew; a frame
that the unit loads ends with STALL, CERR_N driven low, and ERROR with E_ABORTED. CERR_RELEASE lets CERR_N go where a
load cause drove it.

The model's readings and choices that it rests on: log entry 24. -/
def Obligations.ChainFrameRules : Prop :=
  (∀ (s : State) (cmd dest cmdInv destInv : Byte) (image : List Byte),
    let l := Dev.bitsOf ([0x5A, 0xA5, 0x3C, 0xC3, cmd, dest, cmdInv, destInv] ++ image)
    let d := { s.dev with out := s.dev.out ++ [OutMsg.chainBits l], chain := { s.dev.chain with cdout := l.getLastD true } }
    let sound := cmd = 1 ∧ cmdInv = ~~~cmd ∧ destInv = ~~~dest
    let seen := d.count R.CH_CHAIN_FRAMES_SEEN 1 R.CH_CHAIN_STATUS_STAT_SAT
    let opened := ((seen.count R.CH_CHAIN_FRAMES_LOADED 1 R.CH_CHAIN_STATUS_STAT_SAT).loadOpen
      (if dest = 0 then .broadcast else .unicast)).setChain (fun c => { c with cerrLoad := false })
    (s.dev.inReset = true → exec (.chainFrame cmd dest cmdInv destInv image) s = .next s) ∧
    (s.dev.inReset = false → exec (.chainFrame cmd dest cmdInv destInv image) s =
      .next { s with dev := d.trackBits (l.length + 1) l }) ∧
    (s.dev.inReset = false → s.dev.chain.rx = .hunt 0xFFFFFFFF → image = [] →
      (¬ sound → exec (.chainFrame cmd dest cmdInv destInv image) s =
        .next { s with dev := d.event R.CH_CHAIN_STATUS [2] }) ∧
      (sound → s.dev.frameForUs dest.toNat = false → exec (.chainFrame cmd dest cmdInv destInv image) s =
        .next { s with dev := seen.track (.image false [] 0 []) }) ∧
      (sound → s.dev.frameForUs dest.toNat = true → s.dev.ready = false →
        exec (.chainFrame cmd dest cmdInv destInv image) s =
          .next { s with dev := ((seen.track (.image false [] 0 [])).event R.CH_CHAIN_STATUS [3]).cerr }) ∧
      (sound → s.dev.frameForUs dest.toNat = true → s.dev.ready = true → s.dev.chSafe = true →
        exec (.chainFrame cmd dest cmdInv destInv image) s =
          .next { s with dev := (seen.track (.image false [] 0 [])).event R.CH_LOAD_STATUS [3] }) ∧
      (sound → s.dev.frameForUs dest.toNat = true → s.dev.ready = true → s.dev.chSafe = false →
        s.dev.loader.phase ≠ .idle → exec (.chainFrame cmd dest cmdInv destInv image) s =
          .next { s with dev :=
            (seen.track (.image false [] 0 [])).loadErr (if dest = 0 then .broadcast else .unicast) (headerErr 0x73) })) ∧
    (s.dev.inReset = false → s.dev.chain.rx = .hunt 0xFFFFFFFF → sound → s.dev.frameForUs dest.toNat = true →
      s.dev.ready = true → s.dev.chSafe = false → s.dev.loader.phase = .idle →
      (image = [] → exec (.chainFrame cmd dest cmdInv destInv image) s =
        .next { s with dev := opened.track (.image true [] 0 []) }) ∧
      (image.length < 64 → image ≠ [] → exec (.chainFrame cmd dest cmdInv destInv image) s =
        .next { s with dev := (opened.loadBytes image).track (.image true image 0 []) }) ∧
      (64 < image.length → imgTotal image = image.length → Dev.headerTells (image.take 64) = true →
        checkHeader (image.take 64) s.dev.unitAddr s.dev.configured = none →
        ∃ t, exec (.chainFrame cmd dest cmdInv destInv image) s = .next t ∧ t.dev.loader.phase = .validating ∧
          t.dev.loader.image = image ∧ t.dev.fld R.CH_LOAD_STATUS_BUSY = 1 ∧
          t.dev.fld R.CH_LOAD_COUNT_BYTES = image.length ∧
          t.dev.fld R.CH_CHAIN_FRAMES_SEEN = min (s.dev.fld R.CH_CHAIN_FRAMES_SEEN + 1) 65535 ∧
          t.dev.fld R.CH_CHAIN_FRAMES_LOADED = min (s.dev.fld R.CH_CHAIN_FRAMES_LOADED + 1) 65535 ∧
          t.dev.chain.rx = .hunt 0xFFFFFFFF ∧ t.dev.chain.cerrLoad = false ∧ KeepsStore s t))) ∧
  (∀ s : State,
    (s.dev.frameOpen = false → exec .chainStall s = .next { s with dev := { s.dev with chain := { s.dev.chain with
      rx := match s.dev.chain.rx with
        | .hunt k => .hunt k
        | _ => .hunt 0xFFFFFFFF } } }) ∧
    (s.dev.frameOpen = true → ∃ t, exec .chainStall s = .next t ∧ (∃ k, t.dev.chain.rx = .hunt k) ∧ KeepsStore s t ∧
      (s.dev.loader.held = [] → s.dev.loader.flrWaiting = false → t.dev.chain.cerrLoad = true ∧
        t.dev.fld R.CH_CHAIN_STATUS_STALL = 1 ∧ t.dev.loader.phase = .idle ∧ t.dev.fld R.CH_LOAD_STATUS_ERROR = 1 ∧
        t.dev.fld R.CH_LOAD_STATUS_BUSY = 0 ∧ t.dev.fld R.CH_LOAD_ERR_CODE = 0x74 ∧
        OnlyFlds s { t with dev := { t.dev with chain := s.dev.chain, loader := s.dev.loader } }
          [R.CH_CHAIN_STATUS_STALL, R.CH_CHAIN_STATUS_SEQ, R.CH_LOAD_STATUS_ERROR, R.CH_LOAD_STATUS_SEQ,
            R.CH_LOAD_STATUS_BUSY, R.CH_LOAD_STATUS_ZEROFILL, R.CH_LOAD_ERR_CODE, R.CH_LOAD_ERR_SECTION,
            R.CH_LOAD_ERR_RECORD, R.CH_LOAD_ERR_SOURCE])) ∧
    exec .cerrRelease s = .next { s with dev := { s.dev with chain := { s.dev.chain with cerrLoad := false } } })

/-- HRST of head n (R99, R100), from every state: head n stands as at reset, stopped, with no start held for it; every
field of class HRST or SRST of head n, its LUT contents apart, and of link n is at its reset value, and the link's
own state; the bit of SY_RESET_BUSY shows the reset. Its LUT contents and every register outside the heads, the
links, the governor and SY_RESET_BUSY stay. HRST_COMPLETE gives the LUT contents their reset values and clears the
bit, and every other register stays; with the bit clear it does nothing.

SRST of every block that has one (R101, R103, R149), from every state. A refused one changes nothing but SRST_REFUSED
and its SEQ: that of a stack while a head runs, of a canopy half while one of its heads runs or a running head has a
bridge stream from it, of an engine that is enabled in a running head's tree. Any other gives every field of class
SRST of its block its reset value, but for the fields that show what goes on in the block or elsewhere
(SoftBlock.shows), ends the block's parity safe state, and shows SRST_BUSY. A stack then is in self-refresh and not
trained, and its latency model is at 0. An engine's cache is empty, and no register of another slot changes but
SY_RESET_BUSY, once the lines in progress have been drawn up to this moment. SRST_COMPLETE of a reset in progress ends
it: SRST_BUSY stays while another one is in progress, and a stack is trained and out of self-refresh; of any other
block it does nothing.

The model's readings and choices that it rests on: log entries 18, 19 and 27. -/
def Obligations.HeadAndBlockResets : Prop :=
  (∀ (s : State) (n : Fin 8),
    (∃ t, exec (.hrst n) s = .next t ∧ t.dev.fld ⟨R.SY_RESET_BUSY, n, n⟩ = 1 ∧ t.dev.run n = 0 ∧
       t.dev.head n = HeadSt.reset ∧
      t.dev.link n = DpSt.reset ∧ n.val ∉ t.dev.loader.held ∧
      (∀ a r f, (slotOf a = Block.HD.base + n ∧ Dev.lutOf n a = false) ∨ slotOf a = Block.DP.base + n → rowOf a = some r →
        f ∈ r.fields → f.cls.hitBy 4 = true → t.dev.fld ⟨a, f.hi, f.lo⟩ = bits (resetWord a).toNat f.hi f.lo) ∧
      (∀ a, Dev.lutOf n a = true → t.dev.get a = s.dev.get a) ∧
      (∀ a b k, blockOfSlot (slotOf a) = some (b, k) → b ∉ [Block.HD, .DP, .GV] → a ≠ R.SY_RESET_BUSY →
        t.dev.get a = s.dev.get a) ∧ KeepsStore s t) ∧
    (s.dev.fld ⟨R.SY_RESET_BUSY, n, n⟩ = 1 → ∃ t, exec (.hrstComplete n) s = .next t ∧
      t.dev.fld ⟨R.SY_RESET_BUSY, n, n⟩ = 0 ∧
      (∀ a r f, Dev.lutOf n a = true → rowOf a = some r → f ∈ r.fields → f.cls.hitBy 4 = true →
        t.dev.fld ⟨a, f.hi, f.lo⟩ = bits (resetWord a).toNat f.hi f.lo) ∧
      (∀ a, Dev.lutOf n a = false → a ≠ R.SY_RESET_BUSY → t.dev.get a = s.dev.get a) ∧
      s.dev.SameButRegs t.dev ∧ KeepsStore s t) ∧
    (s.dev.fld ⟨R.SY_RESET_BUSY, n, n⟩ = 0 → exec (.hrstComplete n) s = .next s)) ∧
  (∀ (s : State) (b : SoftBlock),
    (s.dev.srstRefused b = match b with
      | .fs _ => (List.range 8).any s.dev.headRunning
      | .cn x => (List.range 4).any (fun i => s.dev.headRunning (4 * x.val + i)) || s.dev.bridgeFrom x.val
      | .le n => s.dev.flag (R.LE_CTRL_ENABLE n.val) &&
          (match s.dev.fp.leRec n.val with | some r => s.dev.headRunning r.head | none => false)
      | _ => false) ∧
    (s.dev.srstRefused b = true → ∃ t, exec (.srst b) s = .next t ∧ t.dev.fld R.SY_RESET_CAUSE_SRST_REFUSED = 1 ∧
      OnlyFlds s t [R.SY_RESET_CAUSE_SRST_REFUSED, R.SY_RESET_CAUSE_SEQ]) ∧
    (s.dev.srstRefused b = false → ∃ t, exec (.srst b) s = .next t ∧
      t.dev.fld R.SY_RESET_BUSY_SRST_BUSY = 1 ∧ b ∈ t.dev.srsts ∧ b.slot ∉ t.dev.safe ∧
      (∀ a r f, slotOf a = b.slot → rowOf a = some r → f ∈ r.fields → f.cls.hitBy 5 = true →
        (∀ g ∈ b.shows, g.Apart ⟨a, f.hi, f.lo⟩) → t.dev.fld ⟨a, f.hi, f.lo⟩ = bits (resetWord a).toNat f.hi f.lo) ∧
      (∀ n, b = .fs n → t.dev.fld (R.FS_STATE_SELF_REFRESH n) = 1 ∧ t.dev.fld (R.FS_STATE_TRAINED n) = 0 ∧
        t.dev.fld (R.GV_MODEL_FSs_MODEL_NS n) = 0 ∧ t.dev.fld (R.GV_LEARN_FSs_FRAMES n) = 0) ∧
      (∀ n, b = .le n → (t.dev.engine n).cache = [] ∧
        (∀ a, slotOf a ≠ 64 + n → a ≠ R.SY_RESET_BUSY → t.dev.get a = s.dev.catchUp.get a)) ∧ KeepsStore s t) ∧
    (b ∈ s.dev.srsts → ∃ t, exec (.srstComplete b) s = .next t ∧ t.dev.srsts = s.dev.srsts.filter (· != b) ∧
      t.dev.fld R.SY_RESET_BUSY_SRST_BUSY = (if t.dev.srsts = [] then 0 else 1) ∧
      (∀ n, b = .fs n → t.dev.fld (R.FS_STATE_SELF_REFRESH n) = 0 ∧ t.dev.fld (R.FS_STATE_TRAINED n) = 1) ∧
      OnlyFlds s { t with dev := { t.dev with srsts := s.dev.srsts } } (R.SY_RESET_BUSY_SRST_BUSY :: (match b with
        | .fs n => [R.FS_STATE_SELF_REFRESH n, R.FS_STATE_TRAINED n]
        | _ => []))) ∧
    (b ∉ s.dev.srsts → exec (.srstComplete b) s = .next s))

/-- FLR (R11, R79, R99). With the loader idle or busy with a chain load: SY_RESET_CAUSE.FLR is set, every field of
class FLR, HRST or SRST of the heads, the links and the layer engines is back at its reset value, MSI-X is off,
the structure, the chain address and the frame-store bytes stay, and a chain load goes on. A PCI Express load
whose stage 5 has not finished ends as well, with ERROR and E_ABORTED. During stages 6 and 7 of a PCI Express load
the FLR waits for the load's end.

The model's readings and choices that it rests on: log entries 22 and 23. -/
def Obligations.FunctionLevelReset : Prop :=
  ∀ s : State,
    (s.dev.loader.phase = .idle ∨ s.dev.loader.source ≠ .pcie ∨ s.dev.abortable = true → s.dev.loader.flrWaiting = false →
      ∃ t, exec .flr s = .next t ∧ t.dev.fld R.SY_RESET_CAUSE_FLR = 1 ∧
      (∀ a r f b n, blockOfSlot (slotOf a) = some (b, n) → (b = .HD ∨ b = .DP ∨ b = .LE) → rowOf a = some r →
        f ∈ r.fields → f.cls.hitBy 3 = true → t.dev.fld ⟨a, f.hi, f.lo⟩ = bits (resetWord a).toNat f.hi f.lo) ∧
      t.dev.ic.msixEnable = false ∧ t.dev.fp = s.dev.fp ∧ t.dev.chain = s.dev.chain ∧ t.dev.unitAddr = s.dev.unitAddr ∧
      (s.dev.loader.phase = .idle ∨ s.dev.loader.source ≠ .pcie →
        t.dev.loader.phase = s.dev.loader.phase ∧ t.dev.loader.image = s.dev.loader.image) ∧
      (s.dev.abortable = true → s.dev.loader.source = .pcie → t.dev.loader.phase = .idle ∧
        t.dev.fld R.CH_LOAD_STATUS_ERROR = 1 ∧ t.dev.fld R.CH_LOAD_ERR_CODE = 0x74) ∧ KeepsStore s t) ∧
    (s.dev.loader.source = .pcie → s.dev.loader.phase = .applying ∨ s.dev.loader.phase = .zerofill →
      exec .flr s = .next { s with dev := { s.dev with loader := { s.dev.loader with flrWaiting := true } } })


/-! ### Loads of the structure (chapter 02) -/

/-- CH_LOAD_START opens a PCI Express load in an idle loader of a unit with an address, CH not in its safe state (R64,
R65, R87): BUSY is set and the byte count is 0, and nothing else changes. Otherwise the write is dropped and
REJECTED is set.

CH_LOAD_DATA_WRITE (R61, R65, R68, R71), in every state. While a PCI Express load is open the word's four bytes,
lowest first, follow the bytes received, and CH_LOAD_COUNT counts them. The write that completes the 64 bytes of the
header has them checked: the first check that fails ends the load with its code, SECTION and RECORD in CH_LOAD_ERR.
The bytes that reach TOTAL_LEN start the validation, and bytes past it are not kept. With no such load open the word
is dropped and REJECTED is set. With no start held for the load, nothing else changes.

CH_LOAD_ABORT ends a PCI Express load whose stage 5 has not finished with ERROR and E_ABORTED, and leaves the
structure in force (R66, R70); with no such load it does nothing. With no start held for the load, nothing else
changes.

The model's readings and choices that it rests on: log entries 12 and 88. -/
def Obligations.LoadReception : Prop :=
  (∀ s : State,
    (s.dev.loader.phase = .idle → s.dev.chSafe = false → s.dev.unitAddr ≠ 0 → ∃ t, exec .chLoadStart s = .next t ∧
      t.dev.loader = { s.dev.loader with phase := .receiving, source := .pcie, image := [] } ∧
      t.dev.fld R.CH_LOAD_STATUS_BUSY = 1 ∧ t.dev.fld R.CH_LOAD_COUNT_BYTES = 0 ∧
      OnlyFlds s { t with dev := { t.dev with loader := s.dev.loader } }
        [R.CH_LOAD_STATUS_BUSY, R.CH_LOAD_COUNT_BYTES]) ∧
    (s.dev.loader.phase ≠ .idle ∨ s.dev.chSafe = true ∨ s.dev.unitAddr = 0 → ∃ t, exec .chLoadStart s = .next t ∧
      t.dev.fld R.CH_LOAD_STATUS_REJECTED = 1 ∧ OnlyFlds s t [R.CH_LOAD_STATUS_REJECTED, R.CH_LOAD_STATUS_SEQ])) ∧
  (∀ (s : State) (w : Word) (e : LoadErr),
    let all := s.dev.loader.image ++ toLe 4 w.toNat
    (s.dev.loader.phase = .receiving → s.dev.loader.source = .pcie →
      (all.length < 64 → ∃ t, exec (.chLoadDataWrite w) s = .next t ∧
        t.dev.loader = { s.dev.loader with image := all } ∧ t.dev.fld R.CH_LOAD_COUNT_BYTES = all.length ∧
        OnlyFlds s { t with dev := { t.dev with loader := s.dev.loader } } [R.CH_LOAD_DATA_DATA, R.CH_LOAD_COUNT_BYTES]) ∧
      (64 ≤ all.length → (s.dev.loader.image.length < 64 → checkHeader all s.dev.unitAddr s.dev.configured = none) →
        ∃ t, exec (.chLoadDataWrite w) s = .next t ∧ t.dev.loader.image = all.take (imgTotal all) ∧
          t.dev.loader.phase = (if imgTotal all ≤ all.length then .validating else .receiving) ∧
          t.dev.loader.source = .pcie ∧ KeepsStore s t ∧ (s.dev.loader.held = [] →
            t.dev.fld R.CH_LOAD_COUNT_BYTES = min (imgTotal all) all.length % 2 ^ 32 ∧
            OnlyFlds s { t with dev := { t.dev with loader := s.dev.loader } } [R.CH_LOAD_DATA_DATA,
                R.CH_LOAD_COUNT_BYTES])) ∧
      (64 ≤ all.length → s.dev.loader.image.length < 64 → checkHeader all s.dev.unitAddr s.dev.configured = some e →
        ∃ t, exec (.chLoadDataWrite w) s = .next t ∧ t.dev.loader.phase = .idle ∧ t.dev.fp = s.dev.fp ∧ KeepsStore s t ∧
          (s.dev.loader.held = [] → t.dev.fld R.CH_LOAD_COUNT_BYTES = 64 ∧ t.dev.fld R.CH_LOAD_STATUS_ERROR = 1 ∧
            t.dev.fld R.CH_LOAD_STATUS_BUSY = 0 ∧ t.dev.fld R.CH_LOAD_ERR_CODE = e.code % 256 ∧
            t.dev.fld R.CH_LOAD_ERR_SECTION = e.sect % 256 ∧ t.dev.fld R.CH_LOAD_ERR_RECORD = e.record % 4096 ∧
            t.dev.fld R.CH_LOAD_ERR_SOURCE = 0 ∧
            OnlyFlds s { t with dev := { t.dev with loader := s.dev.loader } } [R.CH_LOAD_DATA_DATA,
              R.CH_LOAD_COUNT_BYTES, R.CH_LOAD_STATUS_ERROR, R.CH_LOAD_STATUS_SEQ, R.CH_LOAD_STATUS_BUSY,
              R.CH_LOAD_STATUS_ZEROFILL, R.CH_LOAD_ERR_CODE, R.CH_LOAD_ERR_SECTION, R.CH_LOAD_ERR_RECORD,
              R.CH_LOAD_ERR_SOURCE]))) ∧
    (s.dev.loader.phase ≠ .receiving ∨ s.dev.loader.source ≠ .pcie → ∃ t, exec (.chLoadDataWrite w) s = .next t ∧
      t.dev.fld R.CH_LOAD_STATUS_REJECTED = 1 ∧ OnlyFlds s t [R.CH_LOAD_STATUS_REJECTED, R.CH_LOAD_STATUS_SEQ])) ∧
  (∀ s : State,
    (s.dev.loader.source = .pcie → s.dev.abortable = true →
      ∃ t, exec .chLoadAbort s = .next t ∧ t.dev.loader.phase = .idle ∧ t.dev.loader.image = [] ∧ t.dev.fp = s.dev.fp ∧
        KeepsStore s t ∧ (s.dev.loader.held = [] →
        t.dev.fld R.CH_LOAD_STATUS_ERROR = 1 ∧ t.dev.fld R.CH_LOAD_STATUS_BUSY = 0 ∧ t.dev.fld R.CH_LOAD_ERR_CODE = 0x74 ∧
        t.dev.fld R.CH_LOAD_ERR_SOURCE = 0 ∧
        OnlyFlds s { t with dev := { t.dev with loader := s.dev.loader } } [R.CH_LOAD_STATUS_ERROR, R.CH_LOAD_STATUS_SEQ,
          R.CH_LOAD_STATUS_BUSY, R.CH_LOAD_STATUS_ZEROFILL, R.CH_LOAD_ERR_CODE, R.CH_LOAD_ERR_SECTION,
              R.CH_LOAD_ERR_RECORD,
          R.CH_LOAD_ERR_SOURCE])) ∧
    (¬ (s.dev.loader.source = .pcie ∧ s.dev.abortable = true) → exec .chLoadAbort s = .next s))

/-- LOAD_VALIDATION_END (R61, R62, R70), in every state: an image that passes every check of stages 1 to 5 is to be
applied; the first check that fails ends the load with ERROR and its code, SECTION and RECORD and leaves the
structure in force. The loader's source is shown, and the error of a chain load drives CERR_N low (R94). With no
image to validate nothing changes.

LOAD_APPLY_DONE (R62, R74, R77), in every state: the zero-fill begins, ZEROFILL shows it, and the ranges that R77
zeroes are fixed, all of the frame store at the first load. The previous structure stays in force as a whole, and
nothing else changes. With no apply in progress nothing changes.

ZEROFILL_DONE (R62, R72, R77, R78, R79, R197, R228), in every state: every byte of the ranges reads 0 and every other
byte keeps its value; the structure of the image is in force as a whole; the ENABLE bit of every engine that it does
not map is 0; CH_IMG_ID and CH_IMG_HDR_CRC name the image; the load is over. With no FLR waiting DONE is set, BUSY and
ZEROFILL are 0, and a FULL image sets CONFIGURED and KEY_LOCKED; an FLR that waited takes effect then. With no
zero-fill in progress nothing changes.

The model's readings and choices that it rests on: log entries 12, 13, 26, 68 and 88. -/
def Obligations.LoadCompletion : Prop :=
  (∀ (s : State) (e : LoadErr),
    let stages := checkImage s.dev.loader.image s.dev.fp (!s.dev.configured) s.dev.shadow s.dev.shadow.programmed
      s.dev.shadow.requireSigned
    (s.dev.loader.phase ≠ .validating → exec .loadValidationEnd s = .next s) ∧
    (s.dev.loader.phase = .validating → stages = none → s.dev.stage5 s.dev.loader.image = none →
      exec .loadValidationEnd s =
        .next { s with dev := { s.dev with loader := { s.dev.loader with phase := .applying } } }) ∧
    (s.dev.loader.phase = .validating → stages = some e ∨ (stages = none ∧ s.dev.stage5 s.dev.loader.image = some e) →
      ∃ t, exec .loadValidationEnd s = .next t ∧ t.dev.loader.phase = .idle ∧ t.dev.fp = s.dev.fp ∧ KeepsStore s t ∧
        t.dev.chain.cerrLoad = (s.dev.chain.cerrLoad || s.dev.loader.source != .pcie) ∧ (s.dev.loader.held = [] →
        t.dev.fld R.CH_LOAD_STATUS_ERROR = 1 ∧ t.dev.fld R.CH_LOAD_STATUS_BUSY = 0 ∧
        t.dev.fld R.CH_LOAD_ERR_CODE = e.code % 256 ∧ t.dev.fld R.CH_LOAD_ERR_SECTION = e.sect % 256 ∧
        t.dev.fld R.CH_LOAD_ERR_RECORD = e.record % 4096 ∧ t.dev.fld R.CH_LOAD_ERR_SOURCE = s.dev.loader.source.code ∧
        OnlyFlds s { t with dev := { t.dev with loader := s.dev.loader, chain := s.dev.chain } }
          [R.CH_LOAD_STATUS_ERROR, R.CH_LOAD_STATUS_SEQ, R.CH_LOAD_STATUS_BUSY, R.CH_LOAD_STATUS_ZEROFILL,
            R.CH_LOAD_ERR_CODE, R.CH_LOAD_ERR_SECTION, R.CH_LOAD_ERR_RECORD, R.CH_LOAD_ERR_SOURCE]))) ∧
  (∀ s : State, (s.dev.loader.phase ≠ .applying → exec .loadApplyDone s = .next s) ∧
    (s.dev.loader.phase = .applying → ∃ t, exec .loadApplyDone s = .next t ∧
      t.dev.loader = { s.dev.loader with
        phase := .zerofill, applied := s.dev.loader.image
        zero := if s.dev.configured then Dev.zeroFor s.dev.fp.clearings
            (merge s.dev.loader.image s.dev.fp false).floorplan.clearings
          else [(0, 0x40000000)] } ∧
      t.dev.fld R.CH_LOAD_STATUS_ZEROFILL = 1 ∧
      OnlyFlds s { t with dev := { t.dev with loader := s.dev.loader } } [R.CH_LOAD_STATUS_ZEROFILL])) ∧
  (∀ s : State, (s.dev.loader.phase ≠ .zerofill → exec .zerofillDone s = .next s) ∧
    (s.dev.loader.phase = .zerofill → ∃ t, exec .zerofillDone s = .next t ∧ t.pending = s.pending ∧
      (∀ a, readByte t.mem a =
        if s.dev.loader.zero.any (fun r => decide (r.1 ≤ a ∧ a < r.1 + r.2)) then 0 else readByte s.mem a) ∧
      t.dev.fp = (merge s.dev.loader.image s.dev.fp (!s.dev.configured)).floorplan ∧ t.dev.loader.phase = .idle ∧
      (∀ l : Fin 64, (t.dev.fp.leRec l).isNone → t.dev.fld (R.LE_CTRL_ENABLE l) = 0) ∧
      t.dev.fld R.CH_IMG_ID_IMAGE_ID = field s.dev.loader.image 0x18 4 ∧
      t.dev.fld R.CH_IMG_HDR_CRC_HDR_CRC = field s.dev.loader.image 0x3C 4 ∧
      (imgKind s.dev.loader.image = 1 → t.dev.fld R.CH_LOAD_STATUS_CONFIGURED = 1 ∧
        t.dev.fld R.CH_LOAD_STATUS_KEY_LOCKED = 1) ∧
      (s.dev.loader.flrWaiting = false → t.dev.fld R.CH_LOAD_STATUS_DONE = 1 ∧ t.dev.fld R.CH_LOAD_STATUS_BUSY = 0 ∧
        t.dev.fld R.CH_LOAD_STATUS_ZEROFILL = 0) ∧
      (s.dev.loader.flrWaiting = true → t.dev.fld R.SY_RESET_CAUSE_FLR = 1)))

/-! ### The register interface (chapter 04) -/

/-- A field reads what was stored in it, and a store to a field leaves every field apart from it (R14).

Event bits (R142): each bit named becomes 1, SEQ counts once whether or not the bits were set already, the other
fields of the register and every other register keep their values. -/
def Obligations.FieldStores : Prop :=
  (∀ (d : Dev) (f g : Fld) (v : Nat), g.lo ≤ g.hi → g.hi < 32 →
    (d.setFld g v).fld g = v % 2 ^ (g.hi + 1 - g.lo) ∧ (f.Apart g → (d.setFld g v).fld f = d.fld f)) ∧
  (∀ (d : Dev) (a b : Nat) (evs : List Nat), (∀ c ∈ b :: evs, c < 24) →
    (∀ c ∈ b :: evs, (d.event a (b :: evs)).fld ⟨a, c, c⟩ = 1) ∧
    (d.event a (b :: evs)).fld ⟨a, 31, 24⟩ = (d.fld ⟨a, 31, 24⟩ + 1) % 256 ∧
    (∀ c, c < 24 → c ∉ b :: evs → (d.event a (b :: evs)).fld ⟨a, c, c⟩ = d.fld ⟨a, c, c⟩) ∧
    (∀ x, x ≠ a → (d.event a (b :: evs)).get x = d.get x))

/-- A 32-bit write of any register in BAR0 that is no RS register, whose bits are all free to write (no WO,
floorplan-owned or locked bit), and to which no chapter gives an effect beyond its fields (R8, R129): every RW
field takes its bits of the value, bounded as the owning chapter bounds it (storeAdjust), and nothing else
changes; in the heads, the canopy and the layer engines the lines in progress are first drawn up to this moment. A
write of 0 to SY_PARITY_CTRL.INJECT triggers nothing (R130), and a write of SY_THERMAL holds its warning limit to
at most 114 °C (R517).

A write of any alias word of BAR2 (R139 to R141) whose register is no RS and no access-effect register, in a block
that can be used, with no window part waiting for CL's registers, and to which no chapter gives an effect beyond its
fields: where the word names a bit of an RW field that is free to write and that no chapter bounds, that bit takes bit
0 of the value and no other bit changes; where it names a bit of no RW field and none that is held, nothing changes.
In the heads, the canopy and the layer engines the lines in progress are first drawn up to this moment.

What a command of a block does is said of states in which that block can be used (log entry 8).

The model's readings and choices that it rests on: log entry 60. -/
def Obligations.RegisterWrites : Prop :=
  (∀ (s : State) (w : Word),
    (∀ (off : BitVec 24) (b : Block) (n : Nat) (r : RegRow), off.toNat % 4 = 0 →
      inWindow (decodeBar0 off.toNat) = false → (b = .CL → s.dev.fs.hostQueue = []) →
      blockOfSlot (decodeBar0 off.toNat / 0x10000) = some (b, n) → rowIn b n (decodeBar0 off.toNat % 0x10000) = some r →
      r.isRs = false → s.dev.blockHeld b = false → ownBits b (decodeBar0 off.toNat % 0x10000) = 0 →
      (∀ (d : Dev) (x : Written) (a : Nat) (l : Bool), d.writeEffect b n (decodeBar0 off.toNat % 0x10000) x a l = d) →
      let d := if b.shown then s.dev.catchUp else s.dev
      d.heldBits r b n (decodeBar0 off.toNat % 0x10000) = 0 → ∃ t, exec (.registerWrite off w) s = .next t ∧
        (∀ f ∈ r.fields, f.ty = .rw → t.dev.fld ⟨d.physical (decodeBar0 off.toNat), f.hi, f.lo⟩ =
          storeAdjust b (decodeBar0 off.toNat % 0x10000) f.lo (bits w.toNat f.hi f.lo) % 2 ^ (f.hi + 1 - f.lo)) ∧
        OnlyFlds { s with dev := d } t ((r.fields.filter (·.ty = .rw)).map
          fun f => ⟨d.physical (decodeBar0 off.toNat), f.hi, f.lo⟩)) ∧
    (bits w.toNat 31 31 = 0 → ∃ t, exec (.registerWrite 0xA8 w) s = .next t ∧
      t.dev.fld R.SY_PARITY_CTRL_TARGET = bits w.toNat 22 2 ∧ OnlyFlds s t [R.SY_PARITY_CTRL_TARGET]) ∧
    (∃ t, exec (.registerWrite 0xC0 w) s = .next t ∧
      t.dev.fld R.SY_THERMAL_WARN_C = min (bits w.toNat 15 8) 114 ∧ OnlyFlds s t [R.SY_THERMAL_WARN_C])) ∧
  (∀ (s : State) (off : BitVec 25) (w : Word) (b : Block) (n : Nat) (r : RegRow),
    let p := decodeBar2 off.toNat
    off.toNat % 4 = 0 → blockOfSlot (p.1 / 0x10000) = some (b, n) → rowIn b n (p.1 % 0x10000) = some r →
    r.isRs = false → accessEffect p.1 = false → (b = .CL → s.dev.fs.hostQueue = []) → s.dev.blockHeld b = false →
    ownBits b (p.1 % 0x10000) = 0 →
    (∀ (d : Dev) (x : Written) (a : Nat) (l : Bool), d.writeEffect b n (p.1 % 0x10000) x a l = d) →
    let d := if b.shown then s.dev.catchUp else s.dev
    d.heldBits r b n (p.1 % 0x10000) = 0 →
    ((∃ f ∈ r.fields, f.ty = .rw ∧ f.lo ≤ p.2 ∧ p.2 ≤ f.hi ∧ ∀ v, storeAdjust b (p.1 % 0x10000) f.lo v = v) →
      ∃ t, exec (.bitAliasWrite off w) s = .next t ∧
        t.dev.fld ⟨d.physical p.1, p.2, p.2⟩ = w.toNat % 2 ∧ OnlyFlds { s with dev := d } t [⟨d.physical p.1, p.2,
            p.2⟩]) ∧
    ((∀ f ∈ r.fields, f.ty = .rw → p.2 < f.lo ∨ f.hi < p.2) →
      exec (.bitAliasWrite off w) s = .next { s with dev := d }))

/-- A write of any RS register in BAR0 of a block that can be used (R143): with the SEQ that the register holds, the
event bits written as 1 become 0 and nothing else of it changes, and no other register but IC_PBA, which a release
of T15 may change (R148); with any other SEQ it is stale, the register keeps its word, SY_STALE_CLEAR counts and
SY_STALE_ADDR records the offset.

The model's readings and choices that it rests on: log entry 28. -/
def Obligations.SequenceClearing : Prop :=
  ∀ (s : State) (w : Word) (off : BitVec 24) (r : RegRow),
    off.toNat % 4 = 0 → rowOf (decodeBar0 off.toNat) = some r → r.isRs = true →
    s.dev.slotHeld (decodeBar0 off.toNat / 0x10000) = false →
    decodeBar0 off.toNat / 0x10000 ≠ 3 ∨ s.dev.fs.hostQueue = [] →
    let a := decodeBar0 off.toNat
    (bits w.toNat 31 24 = s.dev.fld ⟨a, 31, 24⟩ → ∃ t, exec (.rsClearWrite off w) s = .next t ∧
      t.dev.get a = s.dev.get a &&& ~~~ (BitVec.ofNat 32 (w.toNat &&& r.mask .rs)) ∧
      (∀ c, c ≠ a → c ≠ R.IC_PBA → t.dev.get c = s.dev.get c) ∧
      (a ≠ R.SY_FAULT_STATUS → s.dev.SameButRegs t.dev ∧ t.dev.get R.IC_PBA = s.dev.get R.IC_PBA) ∧ KeepsStore s t) ∧
    (bits w.toNat 31 24 ≠ s.dev.fld ⟨a, 31, 24⟩ → ∃ t, exec (.rsClearWrite off w) s = .next t ∧
      t.dev.fld R.SY_STALE_CLEAR_STALE_CLEAR = min (s.dev.fld R.SY_STALE_CLEAR_STALE_CLEAR + 1) (2 ^ 32 - 1) ∧
      t.dev.fld R.SY_STALE_ADDR_ADDR = off.toNat ∧
      OnlyFlds s t [R.SY_STALE_CLEAR_STALE_CLEAR, R.SY_STALE_ADDR_ADDR, R.SY_FAULT_STATUS_STAT_SAT,
          R.SY_FAULT_STATUS_SEQ])

/-- An access outside the clearing windows, each of whose 32-bit parts R121 to R127 refuse, changes no register but
the bus-error log (R124, R126): every part is counted; the first is captured with its offset and cause if
BUS_ERROR was clear, and the access is answered with one abort. An access without an error is none of these: it
does what it asks for.

The model's readings and choices that it rests on: log entries 29 and 86. -/
def Obligations.BusErrorsAreLogged : Prop :=
  ∀ (s : State) (a : BusAccess) (cause n : Nat), Dev.partCount a = n + 1 →
    (a.bar = .bar2 ∨ a.bar = .bar4 ∨ inWindow (decodeBar0 a.offset) = false) → busCause a a.offset = some cause →
    (∀ k, k ≤ n → (busCause a (a.offset + 4 * k)).isSome = true) →
    ∃ t, exec (.busErrorAccess a) s = .next t ∧
      t.dev.fld R.SY_FAULT_STATUS_BUS_ERROR = 1 ∧
      t.dev.fld R.SY_BUSERR_COUNT_COUNT = min (s.dev.fld R.SY_BUSERR_COUNT_COUNT + (n + 1)) (2 ^ 32 - 1) ∧
      (s.dev.flag R.SY_FAULT_STATUS_BUS_ERROR = false →
        t.dev.fld R.SY_BUSERR_INFO_BAR = Dev.barCode a.bar % 4 ∧ t.dev.fld R.SY_BUSERR_INFO_WRITE = b2n a.write ∧
          t.dev.fld R.SY_BUSERR_INFO_SIZE = Dev.sizeCode a.kind % 8 ∧ t.dev.fld R.SY_BUSERR_INFO_CAUSE = cause % 256 ∧
          t.dev.fld R.SY_BUSERR_ADDR_ADDR = a.offset % 2 ^ 32) ∧
      (s.dev.flag R.SY_FAULT_STATUS_BUS_ERROR = true →
        t.dev.get R.SY_BUSERR_INFO = s.dev.get R.SY_BUSERR_INFO ∧
            t.dev.get R.SY_BUSERR_ADDR = s.dev.get R.SY_BUSERR_ADDR) ∧
      t.dev.out = s.dev.out ++ [.abort a cause] ∧
      OnlyFlds s { t with dev := { t.dev with out := s.dev.out } } [R.SY_BUSERR_INFO_BAR, R.SY_BUSERR_INFO_WRITE,
        R.SY_BUSERR_INFO_SIZE, R.SY_BUSERR_INFO_CAUSE, R.SY_BUSERR_ADDR_ADDR, R.SY_BUSERR_COUNT_COUNT,
        R.SY_FAULT_STATUS_BUS_ERROR, R.SY_FAULT_STATUS_STAT_SAT, R.SY_FAULT_STATUS_SEQ]

/-- A masked write of the compatibility window leaves (old AND NOT M) OR (D AND M) in the sixteen bits that its word
maps (R151, R154): the two words of head n's staged background colour, and the two of plane 0's staged base of the
first layer engine that LE_MAP maps to the head. The block is in use, no commit is armed at the head, and the
lines in progress are first drawn up to this moment; nothing else changes. -/
def Obligations.CompatibilityWindowWrites : Prop :=
  ∀ (s : State) (n : Nat) (w : Word) (f : Fld) (lo : Nat), n < 4 → s.dev.blockHeld .HD = false →
    (s.dev.catchUp.head n).arm = none →
    (∃ hi, (hi = 0 ∨ hi = 1) ∧ lo = 8 + 4 * hi ∧ f = ⟨R.HD_BG_COLOR n 1, 16 * hi + 15, 16 * hi⟩) ∨
      (∃ hi l, (hi = 0 ∨ hi = 1) ∧ lo = 0x10 + 4 * hi ∧ l < 64 ∧ (s.dev.fp.engines n).head? = some l ∧
        f = ⟨R.LE_SRC_BASE l 1 0, 16 * hi + 15, 16 * hi⟩) →
    ∃ t, exec (.compatMaskedWrite (BitVec.ofNat 20 (0x10000 * (n + 1) + lo)) w) s = .next t ∧
      t.dev.fld f = s.dev.catchUp.fld f &&& (0xFFFF - bits w.toNat 31 16) ||| bits w.toNat 15 0 &&& bits w.toNat 31 16 ∧
      OnlyFlds { s with dev := s.dev.catchUp } t [f]

/-- A BAR4 word is unlisted (R151): it lies in no head's 64 KiB, or at none of the offsets of the table, or it is
FB_LO or FB_HI of a head to which LE_MAP maps no engine.

R153: an unlisted word reads as 0 and a write to it is dropped; neither raises a bus error, and each adds 1 to
SY_COMPAT_MISS. Writes to COMPAT_ID and HOST_ID are ignored and not counted.

R155: a masked write of 1 to an event bit of STATUS clears that bit, whatever SEQ the register holds; no stale
clear is counted. The heads can be used then (R87, R96). -/
def Obligations.CompatibilityMissesAndStatus : Prop :=
  (∀ (s : State) (wr : Bool) (off : BitVec 20) (w : Word), off.toNat % 4 = 0 → 8 ≤ off.toNat →
    (off.toNat / 0x10000 = 0 ∨ 4 < off.toNat / 0x10000 ∨ off.toNat % 0x10000 ∉ [0, 4, 8, 0xC, 0x10, 0x14, 0x20, 0x24] ∨
      off.toNat % 0x10000 ∈ [0x10, 0x14] ∧ s.dev.fp.engines (off.toNat / 0x10000 - 1) = []) →
    ∃ t, exec (.compatMiss wr off w) s = .next t ∧
      t.dev.fld R.SY_COMPAT_MISS_COUNT = min (s.dev.fld R.SY_COMPAT_MISS_COUNT + 1) (2 ^ 32 - 1) ∧
      t.dev.out = s.dev.out ++ (if wr then [] else [.readData off.toNat 0]) ∧
      OnlyFlds s { t with dev := { t.dev with out := s.dev.out } }
        [R.SY_COMPAT_MISS_COUNT, R.SY_FAULT_STATUS_STAT_SAT, R.SY_FAULT_STATUS_SEQ]) ∧
  (∀ (s : State) (w : Word), ∀ off ∈ [(0 : BitVec 20), 4], exec (.compatMaskedWrite off w) s = .next s) ∧
  (∀ (s : State) (n : Nat) (w : Word), n < 4 → s.dev.blockHeld .HD = false →
    ∃ t, exec (.compatMaskedWrite (BitVec.ofNat 20 (0x10000 * (n + 1) + 0x24)) w) s = .next t ∧
      (∀ r, rowOf (R.HD_STATUS n) = some r → ∀ b < 16, t.dev.fld ⟨R.HD_STATUS n, b, b⟩ =
        if bit (r.mask .rs) b ∧ bit w.toNat b ∧ bit w.toNat (b + 16) then 0 else s.dev.fld ⟨R.HD_STATUS n, b, b⟩) ∧
      OnlyFlds s t [⟨R.HD_STATUS n, 15, 0⟩])

/-- Indirect reads (R132, R133) of every block that owns RX registers. A read of IND_DATA is held while the word at
IND_ADDR is fetched; one that comes while another of the block is held waits behind it. The end of the fetch
completes the oldest held read with the word, or with all ones and NOADDR where no RX register lies there; a
timeout completes it with all ones and TIMEOUT; each steps ADDR by STRIDE, and the next held read's fetch starts
from there. While an island is held in reset its fetch gives no word. With no read held both do nothing. A read of
IND_DATA in a slot without RX registers is a bus error as BUS_ERROR_ACCESS tells it.

Configuration parity (R147 to R150). INJECT inverts the stored parity of the register that TARGET names where it holds
parity, so a second one restores it, and changes nothing else; where no register with parity lies there it does
nothing. The sweep finds every mismatch that stands. Where one register of SY, CL, FS, KY, RP, a canopy half, a head,
a link or a layer engine differs, the sweep sets CFG_PARITY, counts it, captures its place if CFG_PARITY was clear,
puts the block into its safe state and changes no other register but IC_PBA. Where none differs it does nothing.

The model's readings and choices that it rests on: log entry 28. -/
def Obligations.ReadsAndParity : Prop :=
  (∀ (s : State) (slot : Fin 128) (a : Nat) (ans : Bool),
    let ends := fun (c : Instr) (w : Word) (timeout noaddr : Nat) => ∃ t, exec c s = .next t ∧
      t.dev.fld (Dev.indAddr slot) = (s.dev.fld (Dev.indAddr slot) + s.dev.fld (Dev.indStride slot)) % 2 ^ 14 ∧
      t.dev.indFetch = Dev.indBegin slot (4 * t.dev.fld (Dev.indAddr slot)) (s.dev.indFetch.eraseP (·.slot == slot.val)) ∧
      t.dev.out = s.dev.out ++ (if ans then [.readData (slot * 0x10000 + 0xFF4) w] else []) ∧
      t.dev.fld ⟨slot * 0x10000 + 0xFF8, 0, 0⟩ = noaddr ∧ t.dev.fld ⟨slot * 0x10000 + 0xFF8, 1, 1⟩ = timeout ∧
      OnlyFlds s { t with dev := { t.dev with indFetch := s.dev.indFetch, out := s.dev.out } }
        [Dev.indAddr slot, ⟨slot * 0x10000 + 0xFF8, 0, 0⟩, ⟨slot * 0x10000 + 0xFF8, 1, 1⟩]
    (Dev.hasRx slot = true → s.dev.indFetch.find? (·.slot == slot.val) = none →
      exec (.indDataRead slot) s = .next { s with dev := { s.dev with
        indFetch := s.dev.indFetch ++ [⟨slot, some (4 * s.dev.fld (Dev.indAddr slot)), true⟩] } }) ∧
    (Dev.hasRx slot = true → s.dev.indFetch.find? (·.slot == slot.val) = some ⟨slot, some a, ans⟩ →
      exec (.indDataRead slot) s = .next { s with dev := { s.dev with
        indFetch := s.dev.indFetch ++ [⟨slot, none, true⟩] } }) ∧
    (Dev.hasRx slot = false → exec (.indDataRead slot) s =
      exec (.busErrorAccess ⟨.bar0, false, .w32, slot * 0x10000 + 0xFF4, []⟩) s) ∧
    (s.dev.indFetch.find? (·.slot == slot.val) = some ⟨slot, some a, ans⟩ → ends (.indFetchTimeout slot) 0xFFFFFFFF 1 0) ∧
    (s.dev.indFetch.find? (·.slot == slot.val) = some ⟨slot, some a, ans⟩ → s.dev.rxHeld slot = false →
      ((rxRow (slot * 0x10000 + a)).isSome = true → ends (.indFetchDone slot) (s.dev.getRx slot a) 0 0) ∧
      ((rxRow (slot * 0x10000 + a)).isSome = false → ends (.indFetchDone slot) 0xFFFFFFFF 0 1)) ∧
    (s.dev.indFetch.find? (·.slot == slot.val) = some ⟨slot, some a, ans⟩ → s.dev.rxHeld slot = true →
      exec (.indFetchDone slot) s = .next s) ∧
    (s.dev.indFetch.find? (·.slot == slot.val) = none →
      exec (.indFetchDone slot) s = .next s ∧ exec (.indFetchTimeout slot) s = .next s)) ∧
  (∀ s : State,
    (let a := s.dev.physical (s.dev.fld R.SY_PARITY_CTRL_TARGET * 4);
      ((rowOf a).any RegRow.hasParity = true → exec .parityInject s = .next { s with dev := { s.dev with
        badParity := if a ∈ s.dev.badParity then s.dev.badParity.filter (· != a) else s.dev.badParity ++ [a] } }) ∧
      ((rowOf a).any RegRow.hasParity = false → exec .parityInject s = .next s)) ∧
    (s.dev.badParity = [] → exec .paritySweep s = .next s) ∧
    (∀ a b n, s.dev.badParity = [a] → blockOfSlot (slotOf a) = some (b, n) →
      b ∈ [Block.SY, .CL, .FS, .KY, .RP, .CN, .HD, .DP, .LE] →
      ∃ t, exec .paritySweep s = .next t ∧ t.dev.fld R.SY_FAULT_STATUS_CFG_PARITY = 1 ∧
        t.dev.fld R.SY_PARITY_COUNT_COUNT = min (s.dev.fld R.SY_PARITY_COUNT_COUNT + 1) (2 ^ 32 - 1) ∧
        (s.dev.flag R.SY_FAULT_STATUS_CFG_PARITY = false →
          t.dev.fld R.SY_PARITY_LOC_SLOT = slotOf a ∧ t.dev.fld R.SY_PARITY_LOC_OFFSET = a % 0x10000) ∧
        (s.dev.flag R.SY_FAULT_STATUS_CFG_PARITY = true → t.dev.get R.SY_PARITY_LOC = s.dev.get R.SY_PARITY_LOC) ∧
        t.dev.isSafe (slotOf a) = true ∧ t.dev.badParity = [a] ∧ KeepsStore s t ∧
        KeepsFlds s t [R.SY_FAULT_STATUS_CFG_PARITY, R.SY_FAULT_STATUS_STAT_SAT, R.SY_FAULT_STATUS_SEQ,
          R.SY_PARITY_COUNT_COUNT, R.SY_PARITY_LOC_SLOT, R.SY_PARITY_LOC_OFFSET, R.IC_PBA_PENDING]))

/-! ### The frame store (chapter 05) -/

/-- FS_REQUEST (R163, R165, R178, R180, R540), for every requester, reads and writes. With no request of the same
source waiting and a tag of its class free: a request that CL allows and whose stack is not in its safe state
takes the lowest free tag, and shows in INFLIGHT and HIGH_WATER; one that CL refuses takes none, is counted and
sets ACCESS_FAULT, with its capture if ACCESS_FAULT was clear, and a layer engine's sets its FETCH_REFUSED and
counts there; one that CL allows and whose stack is in its safe state does nothing. Otherwise the request waits.

What a command of a block does is said of states in which that block can be used (log entry 8).

The model's readings and choices that it rests on: log entries 16 and 78. -/
def Obligations.StoreRequests : Prop :=
  ∀ (s : State) (who : Requester) (burst : BitVec 24) (write : Option BurstWrite),
    let q : Request := ⟨who, 64 * burst.toNat, write, .plain⟩
    let free := s.dev.fs.tagFree q = true ∧ s.dev.fs.waiting.any q.sameSource = false
    s.dev.blockHeld .FS = false →
    (free → s.dev.refusal q = none → s.dev.isSafe (Block.FS.base + stackOf q.addr) = false →
      ∃ t, exec (.fsRequest who burst write) s = .next t ∧
        t.dev.fs.inflight = s.dev.fs.inflight ++ [⟨s.dev.fs.lowestTag q, q, none⟩] ∧
        (∀ x ∈ s.dev.fs.inflight, x.tag ≠ s.dev.fs.lowestTag q) ∧
        bits (t.dev.regRead R.CL_TAG_STATUS).toNat 14 0 = (s.dev.fs.inflight.length + 1) % 2 ^ 15 ∧
        t.dev.fld R.CL_TAG_STATUS_HIGH_WATER =
          max (s.dev.fs.inflight.length + 1) (s.dev.fld R.CL_TAG_STATUS_HIGH_WATER) % 2 ^ 15 ∧
        OnlyFlds s { t with dev := { t.dev with fs := s.dev.fs } } [R.CL_TAG_STATUS_HIGH_WATER]) ∧
    (∀ why, free → s.dev.refusal q = some why → ∃ t, exec (.fsRequest who burst write) s = .next t ∧
        t.dev.fld R.CL_FAULT_STATUS_ACCESS_FAULT = 1 ∧
        t.dev.fld R.CL_FAULT_COUNT_COUNT = min (s.dev.fld R.CL_FAULT_COUNT_COUNT + 1) (2 ^ 32 - 1) ∧
        (s.dev.flag R.CL_FAULT_STATUS_ACCESS_FAULT = false → t.dev.fld R.CL_FAULT_ADDR_ADDR = q.addr ∧
          t.dev.fld R.CL_FAULT_INFO_REASON = why.1 % 8 ∧ t.dev.fld R.CL_FAULT_INFO_REQ = who.code % 16 ∧
          t.dev.fld R.CL_FAULT_INFO_WRITE = b2n write.isSome) ∧
        (∀ l, who = .le l → t.dev.fld (R.LE_STATUS_FETCH_REFUSED l) = 1 ∧ t.dev.fld (R.LE_REFUSED_COUNT_COUNT l) =
          min (s.dev.fld (R.LE_REFUSED_COUNT_COUNT l) + 1) (2 ^ 32 - 1)) ∧
        OnlyFlds s t ([⟨R.CL_FAULT_INFO, 31, 0⟩, R.CL_FAULT_ADDR_ADDR, R.CL_FAULT_COUNT_COUNT,
          R.CL_FAULT_STATUS_ACCESS_FAULT, R.CL_FAULT_STATUS_STAT_SAT, R.CL_FAULT_STATUS_SEQ] ++ (match who with
            | .le l => [R.LE_STATUS_FETCH_REFUSED l, R.LE_STATUS_STAT_SAT l, R.LE_STATUS_SEQ l,
                R.LE_REFUSED_COUNT_COUNT l]
            | _ => []))) ∧
    (free → s.dev.refusal q = none → s.dev.isSafe (Block.FS.base + stackOf q.addr) = true →
      exec (.fsRequest who burst write) s = .next s) ∧
    (¬ free → exec (.fsRequest who burst write) s =
      .next { s with dev := { s.dev with fs := { s.dev.fs with waiting := s.dev.fs.waiting ++ [q] } } })

/-- FS_WRITE_COMPLETE (R164, R165, R169, R171, R172, R174, R186) of a write made by itself, the only request of its
stack that has not been granted, with nothing waiting for its tag, and no error of more than two symbols in a word
that it writes in part. Exactly the enabled bytes of the burst take their new values, but for those of a word that
it writes in part and that is uncorrectable: that word keeps its bytes and UE_PARTIAL is set. The tag is free
again, the write counts in WR_BURSTS, corrected and uncorrectable words of the merge count, and no other byte or
register changes.

A completion touches no byte outside the bursts of the writes in flight that its stack has not granted yet (R164,
R166, R169, R174); a completion of a tag that no request holds, with no error struck, changes nothing.

What a command of a block does is said of states in which that block can be used (log entry 8).

The model's readings and choices that it rests on: log entries 40, 75 and 90. -/
def Obligations.WriteCompletions : Prop :=
  (∀ (s : State) (tag : Nat) (i : Inflight) (w : BurstWrite) (n : Nat),
    let symbols := fun (k : Nat) => (wrongSymbols (s.dev.fs.errorAt (i.req.addr + 16 * k))).length
    let dropped := fun (k : Nat) => w.word k = .part ∧ symbols k = 2
    let parts := (List.range 4).filter (fun k => w.word k == .part)
    s.dev.blockHeld .FS = false → s.dev.fs.inflight.find? (·.tag == tag) = some i →
    (∀ x ∈ s.dev.fs.inflight, x.tag = tag → x = i) → i.req.write = some w →
    i.got = none → i.req.purpose = .plain → n = stackOf i.req.addr → i.req.turn < 9 →
    (∀ x ∈ s.dev.fs.inflight, x.got = none → stackOf x.req.addr = n → x = i) → s.dev.weights.getD i.req.turn 1 ≠ 0 →
    s.dev.fs.waiting = [] → s.dev.fs.hostQueue = [] → s.dev.fs.hostReads = [] → s.dev.fs.held = [] →
    (∀ k ∈ parts, symbols k ≤ 2) →
    ∃ t, exec (.fsWriteComplete tag []) s = .next t ∧ t.pending = s.pending ∧
      (∀ k, k < 64 → readByte t.mem (i.req.addr + k) = if w.enables.getLsbD k = true ∧ ¬ dropped (k / 16)
        then w.bytes.getD k 0 else readByte s.mem (i.req.addr + k)) ∧
      (∀ a, a < i.req.addr ∨ i.req.addr + 64 ≤ a → readByte t.mem a = readByte s.mem a) ∧
      t.dev.fs.inflight = s.dev.fs.inflight.filter (·.tag != tag) ∧
      t.dev.get64 (R.FS_WR_BURSTS n 0) (R.FS_WR_BURSTS n 1) =
        min (s.dev.get64 (R.FS_WR_BURSTS n 0) (R.FS_WR_BURSTS n 1) + 1) (2 ^ 64 - 1) ∧
      ((∃ k, k < 4 ∧ dropped k) → t.dev.fld (R.FS_ERR_STATUS_UE_PARTIAL n) = 1) ∧
      t.dev.fld (R.FS_CE_COUNT_COUNT n) = min (s.dev.fld (R.FS_CE_COUNT_COUNT n) +
        (parts.filter (symbols · == 1)).length) (2 ^ 32 - 1) ∧
      t.dev.fld (R.FS_UE_COUNT_COUNT n) = min (s.dev.fld (R.FS_UE_COUNT_COUNT n) +
        (parts.filter (symbols · == 2)).length) (2 ^ 32 - 1) ∧
      s.dev.SameButRegs { t.dev with fs := s.dev.fs } ∧
      KeepsFlds s t [R.FS_WR_BURSTS_COUNT n 0, R.FS_WR_BURSTS_COUNT n 1, R.FS_CE_COUNT_COUNT n, R.FS_UE_COUNT_COUNT n,
        R.FS_CE_ADDR_ADDR n, R.FS_UE_ADDR_ADDR n, ⟨R.FS_ERR_INFO n, 31, 0⟩, ⟨R.FS_ERR_STATUS n, 31, 0⟩]) ∧
  (∀ (s : State) (tag latency : Nat) (errs : List WordError),
    let c := [Instr.fsWriteComplete tag errs, .fsReadComplete tag errs latency]
    (s.dev.fs.inflight.find? (·.tag == tag) = none →
      exec (.fsWriteComplete tag []) s = .next s ∧ exec (.fsReadComplete tag [] latency) s = .next s) ∧
    (∀ i ∈ c, ∃ t, exec i s = .next t ∧ ∀ a, (∀ x ∈ s.dev.fs.inflight, x.got = none → x.req.write.isSome = true →
      (∀ y ∈ s.dev.fs.inflight, y.tag = tag → stackOf x.req.addr = stackOf y.req.addr) →
      a < x.req.addr ∨ x.req.addr + 64 ≤ a) → readByte t.mem a = readByte s.mem a))

/-- FS_READ_COMPLETE (R165, R168, R171, R172, R186) of a bulk read made by itself, with nothing waiting for its tag.
The tag is free again and no byte changes. A read that its stack granted before changes nothing else. One that is
the only request of its stack not granted yet, with no error of more than two symbols in its words once `errs` has
struck, counts in RD_BURSTS; its words with one wrong symbol count in CE_COUNT and set CE, those with two count in
UE_COUNT and set UE, and where UE was clear the lowest of these is captured with its requester.

What a command of a block does is said of states in which that block can be used (log entry 8).

The model's readings and choices that it rests on: log entries 75, 89 and 90. -/
def Obligations.ReadCompletionReportsErrors : Prop :=
  ∀ (s : State) (tag latency : Nat) (errs : List WordError) (i : Inflight) (n : Nat),
    let symbols := fun (k : Nat) => (wrongSymbols ((s.dev.fs.strike errs).errorAt (i.req.addr + 16 * k))).length
    let ces := (List.range 4).filter (symbols · == 1)
    let ues := (List.range 4).filter (symbols · == 2)
    s.dev.blockHeld .FS = false → s.dev.fs.inflight.find? (·.tag == tag) = some i →
    (∀ x ∈ s.dev.fs.inflight, x.tag = tag → x = i) → i.req.write = none →
    i.req.purpose = .plain → i.req.scanout = false → n = stackOf i.req.addr → i.req.turn < 9 →
    s.dev.fs.waiting = [] → s.dev.fs.hostQueue = [] → s.dev.fs.hostReads = [] → s.dev.fs.held = [] →
    (i.got.isSome = true → exec (.fsReadComplete tag [] latency) s = .next { s with dev := { s.dev with
      fs := { s.dev.fs with inflight := s.dev.fs.inflight.filter (·.tag != tag) } } }) ∧
    (i.got = none → (∀ x ∈ s.dev.fs.inflight, x.got = none → stackOf x.req.addr = n → x = i) →
      s.dev.weights.getD i.req.turn 1 ≠ 0 → (∀ k, k < 4 → symbols k ≤ 2) →
      ∃ t, exec (.fsReadComplete tag errs latency) s = .next t ∧
        t.dev.fs.inflight = s.dev.fs.inflight.filter (·.tag != tag) ∧
        t.dev.get64 (R.FS_RD_BURSTS n 0) (R.FS_RD_BURSTS n 1) =
          min (s.dev.get64 (R.FS_RD_BURSTS n 0) (R.FS_RD_BURSTS n 1) + 1) (2 ^ 64 - 1) ∧
        t.dev.fld (R.FS_CE_COUNT_COUNT n) = min (s.dev.fld (R.FS_CE_COUNT_COUNT n) + ces.length) (2 ^ 32 - 1) ∧
        t.dev.fld (R.FS_UE_COUNT_COUNT n) = min (s.dev.fld (R.FS_UE_COUNT_COUNT n) + ues.length) (2 ^ 32 - 1) ∧
        (ces ≠ [] → t.dev.fld (R.FS_ERR_STATUS_CE n) = 1) ∧
        (∀ k, ues.head? = some k → t.dev.fld (R.FS_ERR_STATUS_UE n) = 1 ∧
          (s.dev.flag (R.FS_ERR_STATUS_UE n) = false → t.dev.fld (R.FS_UE_ADDR_ADDR n) = (i.req.addr + 16 * k) % 2 ^ 30 ∧
            t.dev.fld (R.FS_ERR_INFO_UE_REQ n) = i.req.who.code % 16)) ∧
        OnlyFlds s { t with dev := { t.dev with fs := s.dev.fs } } [R.FS_RD_BURSTS_COUNT n 0, R.FS_RD_BURSTS_COUNT n 1,
          R.FS_CE_COUNT_COUNT n, R.FS_UE_COUNT_COUNT n, R.FS_CE_ADDR_ADDR n, R.FS_UE_ADDR_ADDR n,
          ⟨R.FS_ERR_INFO n, 31, 0⟩, ⟨R.FS_ERR_STATUS n, 31, 0⟩])

/-- The maintenance of a stack (R169, R171, R172, R175, R176, R186), in every state. ECC_WRITEBACK grants the oldest
queued write-back of the stack: its sixteen bytes are stored, no other byte changes, the word holds no error any
longer, and it counts in WR_BURSTS; with none queued nothing changes. SCRUB_STEP with a period of 0 does nothing.
Any other counts in RD_BURSTS and moves POS on by one word, round at the end of the stack, where PASSES counts; a
word with no error, or with one or two wrong symbols once `wrong` has struck it, is left as it is, counts in
CE_COUNT and has its write-back queued, or counts in UE_COUNT with SCRUB_UE. REFRESH_DEADLINE puts a refresh
before every request of the stack.

HW_RESET gives HIGH_WATER the tags now in use (R193), LAT_RESET gives the largest latency of a stack 0 (R190, R191).
The blocks can be used; nothing else changes.

What a command of a block does is said of states in which that block can be used (log entry 8).

The model's readings and choices that it rests on: log entries 9 and 40. -/
def Obligations.StackMaintenanceAndMarks : Prop :=
  (∀ (s : State) (n : Fin 4) (wrong : BitVec 144),
    let a := globalOf n (s.dev.fld (R.FS_SCRUB_POS_POS n) / 16 * 16)
    let e := s.dev.fs.errorAt a ^^^ wrong
    s.dev.blockHeld .FS = false →
    (∀ w, s.dev.fs.writeBacks.find? (fun w => stackOf w.word == n) = some w → ∃ t, exec (.eccWriteback n) s = .next t ∧
      t.dev.fs = s.dev.fs.renewed [w.word] ∧
      (∀ k, k < w.bytes.length → readByte t.mem (w.word + k) = w.bytes.getD k 0) ∧
      (∀ x, x < w.word ∨ w.word + w.bytes.length ≤ x → readByte t.mem x = readByte s.mem x) ∧
      t.dev.get64 (R.FS_WR_BURSTS n 0) (R.FS_WR_BURSTS n 1) =
        min (s.dev.get64 (R.FS_WR_BURSTS n 0) (R.FS_WR_BURSTS n 1) + 1) (2 ^ 64 - 1) ∧ t.pending = s.pending ∧
      s.dev.SameButRegs { t.dev with fs := s.dev.fs } ∧
      KeepsFlds s t [R.FS_WR_BURSTS_COUNT n 0, R.FS_WR_BURSTS_COUNT n 1, R.FS_ERR_STATUS_STAT_SAT n,
        R.FS_ERR_STATUS_SEQ n]) ∧
    ((∀ w ∈ s.dev.fs.writeBacks, stackOf w.word ≠ n) → exec (.eccWriteback n) s = .next s) ∧
    (s.dev.fld (R.FS_SCRUB_CTRL_PERIOD_H n) = 0 → exec (.scrubStep n wrong) s = .next s) ∧
    (s.dev.fld (R.FS_SCRUB_CTRL_PERIOD_H n) ≠ 0 → (wrongSymbols e).length ≤ 2 →
      ∃ t, exec (.scrubStep n wrong) s = .next t ∧
        t.dev.fld (R.FS_SCRUB_POS_POS n) = (s.dev.fld (R.FS_SCRUB_POS_POS n) + 16) % 2 ^ 28 ∧
        t.dev.fld (R.FS_SCRUB_PASSES_COUNT n) = (if s.dev.fld (R.FS_SCRUB_POS_POS n) + 16 ≥ 2 ^ 28
          then min (s.dev.fld (R.FS_SCRUB_PASSES_COUNT n) + 1) (2 ^ 32 - 1) else s.dev.fld (R.FS_SCRUB_PASSES_COUNT n)) ∧
        t.dev.get64 (R.FS_RD_BURSTS n 0) (R.FS_RD_BURSTS n 1) =
          min (s.dev.get64 (R.FS_RD_BURSTS n 0) (R.FS_RD_BURSTS n 1) + 1) (2 ^ 64 - 1) ∧
        t.dev.fs.errorAt a = e ∧
        t.dev.fld (R.FS_CE_COUNT_COUNT n) =
          min (s.dev.fld (R.FS_CE_COUNT_COUNT n) + b2n ((wrongSymbols e).length == 1)) (2 ^ 32 - 1) ∧
        t.dev.fld (R.FS_UE_COUNT_COUNT n) =
          min (s.dev.fld (R.FS_UE_COUNT_COUNT n) + b2n ((wrongSymbols e).length == 2)) (2 ^ 32 - 1) ∧
        ((wrongSymbols e).length = 1 → t.dev.fld (R.FS_ERR_STATUS_CE n) = 1 ∧
          t.dev.fs.writeBacks.any (·.word == a) = true) ∧
        ((wrongSymbols e).length = 2 → t.dev.fld (R.FS_ERR_STATUS_SCRUB_UE n) = 1) ∧
        OnlyFlds s { t with dev := { t.dev with fs := s.dev.fs } } [R.FS_SCRUB_POS_POS n, R.FS_SCRUB_PASSES_COUNT n,
          R.FS_RD_BURSTS_COUNT n 0, R.FS_RD_BURSTS_COUNT n 1, R.FS_CE_COUNT_COUNT n, R.FS_UE_COUNT_COUNT n,
          R.FS_CE_ADDR_ADDR n, R.FS_UE_ADDR_ADDR n, ⟨R.FS_ERR_INFO n, 31, 0⟩, ⟨R.FS_ERR_STATUS n, 31, 0⟩]) ∧
    exec (.refreshDeadline n) s = .next { s with dev := s.dev.updArb n (fun x => { x with refresh := true }) }) ∧
  (∀ (s : State) (n : Fin 4), s.dev.blockHeld .CL = false → s.dev.blockHeld .FS = false →
    (∃ t, exec .tagHwReset s = .next t ∧ t.dev.fld R.CL_TAG_STATUS_HIGH_WATER = s.dev.fs.inflight.length % 2 ^ 15 ∧
      OnlyFlds s t [R.CL_TAG_STATUS_HIGH_WATER]) ∧
    (∃ t, exec (.latReset n) s = .next t ∧ t.dev.getRx (Block.FS.base + n) 0 = 0 ∧
      (∀ slot ind, slot * 0x10000 + ind ≠ (Block.FS.base + n) * 0x10000 → t.dev.getRx slot ind = s.dev.getRx slot ind) ∧
      t = { s with dev := { s.dev with rx := t.dev.rx } }))

/-- The host windows (R183 to R185, R194), CL in use and nothing of the host in the way. A write of up to 64 bytes
that lies in one 64-byte piece becomes one write burst of the host with exactly its bytes enabled; one that ends
at offset 0x1FFF of its window steps the window's PAGE where AUTO is set. A read of one piece becomes one read of
the host, and its completion gives the host the bytes, or an 0xFF for each byte of a poisoned burst. A piece whose
window names no valid clearing, or that lies past its end, is refused and logged, and a read is answered with an
abort. A write across pieces is the write of the first pieces and then that of the others.

The completion of a window read's one piece (R173, R183, R185), its burst granted before and no window write before it
outstanding: the host gets the bytes of the piece, or 0xFF for each where the burst is poisoned, and the tag is free.

What a command of a block does is said of states in which that block can be used (log entry 8).

The model's readings and choices that it rests on: log entries 16 and 90. -/
def Obligations.HostWindows : Prop :=
  (∀ (s : State) (off : BitVec 15) (bytes more : List Byte) (len w x a b : Nat) (why : Nat × Nat),
    let q : Option BurstWrite → Request := fun wr => ⟨.host, b, wr, .plain⟩
    let clear := s.dev.fs.waiting = [] ∧ s.dev.fs.hostQueue = [] ∧ s.dev.fs.hostReads = []
    s.dev.blockHeld .CL = false → w = off.toNat / 0x2000 → x = off.toNat % 0x2000 → b = a / 64 * 64 % 2 ^ 30 →
    s.dev.fs.tagFree (q none) = true → clear →
    (bytes ≠ [] → off.toNat % 64 + bytes.length ≤ 64 → s.dev.windowMap w x = (a, none) →
      s.dev.refusal (q (some ⟨[], 0⟩)) = none → s.dev.isSafe (Block.FS.base + stackOf b) = false →
      ∃ t, exec (.hostWindowWrite off bytes) s = .next t ∧
        (∃ i, t.dev.fs.inflight = s.dev.fs.inflight ++ [i] ∧ i.req.who = .host ∧ i.req.addr = b ∧ i.got = none ∧
          i.req.write = some ⟨List.replicate (a % 64) 0 ++ bytes ++ List.replicate (64 - a % 64 - bytes.length) 0,
            BitVec.ofNat 64 ((2 ^ bytes.length - 1) <<< (a % 64))⟩) ∧
        t.dev.fld (R.CL_WINn_CTRL_PAGE w) = (s.dev.fld (R.CL_WINn_CTRL_PAGE w) +
          b2n (s.dev.flag (R.CL_WINn_CTRL_AUTO w) && (x + bytes.length) % 0x2000 == 0)) % 2 ^ 16 ∧
        OnlyFlds s { t with dev := { t.dev with fs := s.dev.fs } }
          [R.CL_TAG_STATUS_HIGH_WATER, R.CL_WINn_CTRL_PAGE w]) ∧
    (0 < len → off.toNat % 64 + len ≤ 64 → s.dev.windowMap w x = (a, none) → s.dev.refusal (q none) = none →
      s.dev.isSafe (Block.FS.base + stackOf b) = false → ∃ t, exec (.hostWindowRead off len) s = .next t ∧
        t.dev.fs.inflight = s.dev.fs.inflight ++ [⟨s.dev.fs.lowestTag (q none), ⟨.host, b, none,
          .hostRead s.dev.fs.nextHost 0⟩, none⟩] ∧
        t.dev.fs.hostReads = [⟨s.dev.fs.nextHost, 0x8000 + off.toNat, len, [], 1, false, false, s.dev.fs.hostWrites⟩] ∧
        OnlyFlds s { t with dev := { t.dev with fs := s.dev.fs } } [R.CL_TAG_STATUS_HIGH_WATER]) ∧
    (0 < len → off.toNat % 64 + len ≤ 64 → s.dev.windowMap w x = (a, some why) → s.dev.fs.hostWrites = [] →
      ∃ t, exec (.hostWindowRead off len) s = .next t ∧ t.dev.fld R.CL_FAULT_STATUS_ACCESS_FAULT = 1 ∧
        t.dev.out = s.dev.out ++ [.windowAbort (0x8000 + off.toNat)] ∧ t.dev.fs.hostReads = [] ∧ t.dev.fs.inflight =
          s.dev.fs.inflight ∧ OnlyFlds s { t with dev := { t.dev with fs := s.dev.fs, out := s.dev.out } }
          [⟨R.CL_FAULT_INFO, 31, 0⟩, R.CL_FAULT_ADDR_ADDR, R.CL_FAULT_COUNT_COUNT, R.CL_FAULT_STATUS_ACCESS_FAULT,
            R.CL_FAULT_STATUS_STAT_SAT, R.CL_FAULT_STATUS_SEQ]) ∧
    (bytes ≠ [] → off.toNat % 64 + bytes.length ≤ 64 → s.dev.windowMap w x = (a, some why) →
      ∃ t, exec (.hostWindowWrite off bytes) s = .next t ∧ t.dev.fld R.CL_FAULT_STATUS_ACCESS_FAULT = 1 ∧
        t.dev.fs.inflight = s.dev.fs.inflight ∧ OnlyFlds s { t with dev := { t.dev with fs := s.dev.fs } }
          [⟨R.CL_FAULT_INFO, 31, 0⟩, R.CL_FAULT_ADDR_ADDR, R.CL_FAULT_COUNT_COUNT, R.CL_FAULT_STATUS_ACCESS_FAULT,
            R.CL_FAULT_STATUS_STAT_SAT, R.CL_FAULT_STATUS_SEQ]) ∧
    (bytes ≠ [] → more ≠ [] → off.toNat + bytes.length + more.length ≤ 0x8000 → (off.toNat + bytes.length) % 64 = 0 →
      (off.toNat + bytes.length) % 0x2000 ≠ 0 → ∃ u, exec (.hostWindowWrite off bytes) s = .next u ∧
        exec (.hostWindowWrite off (bytes ++ more)) s =
          exec (.hostWindowWrite (off + BitVec.ofNat 15 bytes.length) more) u)) ∧
  (∀ (s : State) (tag latency id off len : Nat) (i : Inflight) (a : Answer),
    s.dev.blockHeld .FS = false → s.dev.fs.inflight.find? (·.tag == tag) = some i →
    (∀ x ∈ s.dev.fs.inflight, x.tag = tag → x = i) → i.req = ⟨.host, i.req.addr, none, .hostRead id 0⟩ →
       i.got = some a → s.dev.fs.waiting = [] →
    s.dev.fs.hostQueue = [] → s.dev.fs.held = [] → s.dev.fs.hostReads = [⟨id, off, len, [], 1, false, false, []⟩] →
    0x8000 ≤ off → 0 < len → off % 64 + len ≤ 64 → off + len ≤ 0x10000 →
    exec (.fsReadComplete tag [] latency) s = .next { s with dev := { s.dev with
      out := s.dev.out ++ [.windowData off (if a.poisoned then List.replicate len 0xFF else slice a.bytes (off % 64) len)
        a.poisoned]
      fs := { s.dev.fs with hostReads := [], inflight := s.dev.fs.inflight.filter (·.tag != tag) } } })

/-! ### Heads (chapter 09) -/

/-- HEAD_START (R76, R263, R295, R304, R315, R320, R321). On a head that is not stopped, whose start waits for its
verdict or is held, it does nothing. A timed start that is late with SKIP_LATE set is dropped: SKIPPED, the LATE
event and the calendar's time tell of it. Any other start of a head without a partner is held while a load closes
its half, and else asks the governor for admission; TSTART makes it a timed start unless it is late, and clears
SKIPPED. While the governor is busy no other register changes. The start of a follower whose leader does not run
is held for the leader.

STOP (R296, R304) in every state of the head. One that starts or runs is then stopping. A start that awaits its
verdict is withdrawn and one that is held is dropped, each with a STOPPED event. Any other head stays as it is.

SPLIT_LEADER_WRITE (R314, R315), no head's start held for a leader and none waiting with its PLL locked. LEADER of a
head without a partner is stored and does nothing more. For two stopped partners the value is stored, and then: with
both LEADER fields 1 both heads have a LEADER_CONFLICT event, and the lower head leads; with one of them 1 that head
leads; with neither both have a LOCK_ABSENT event and nobody follows.

What a command of a block does is said of states in which that block can be used (log entry 8).

The model's readings and choices that it rests on: log entries 5, 15 and 39. -/
def Obligations.HeadStartAndStop : Prop :=
  (∀ (s : State) (n : Fin 8),
    let none' := s.dev.run n ≠ 0 ∨ (s.dev.head n).starting = true ∨ (s.dev.head n).heldForLeader = true ∨
      n.val ∈ s.dev.loader.held
    let timed := s.dev.usesTlock n && s.dev.flag (R.HD_TLOCK_CTRL_TSTART n)
    let late := timed && s.dev.startIsLate n
    let dropped := late = true ∧ s.dev.flag (R.HD_TLOCK_CTRL_SKIP_LATE n) = true
    let closed := s.dev.startHeld (halfOfHead n)
    s.dev.blockHeld .HD = false →
    (none' → exec (.headStart n) s = .next s) ∧
    (¬ none' → dropped → ∃ t, exec (.headStart n) s = .next t ∧ t.dev.fld (R.HD_TLOCK_STATUS_SKIPPED n) = 1 ∧
      t.dev.fld ⟨R.HD_STATUS n, 10, 10⟩ = 1 ∧
      t.dev.fld (R.HD_LATE_NS_NS n) = s.dev.tlockNow n / nsUnits % 1000000000 % 2 ^ 30 ∧
      OnlyFlds s t [R.HD_TLOCK_STATUS_SKIPPED n, ⟨R.HD_STATUS n, 10, 10⟩, R.HD_STATUS_SEQ n, R.HD_LATE_S_S n,
        R.HD_LATE_NS_NS n]) ∧
    (¬ none' → ¬ dropped → s.dev.partner n = none → closed = true → ∃ t, exec (.headStart n) s = .next t ∧
      t.dev.loader.held = s.dev.loader.held ++ [n.val] ∧ (t.dev.head n).starting = false ∧
      (t.dev.head n).timed = (timed && !late) ∧ t.dev.gv = s.dev.gv ∧ KeepsStore s t ∧
      KeepsFlds s t (if timed then [R.HD_TLOCK_STATUS_SKIPPED n] else [])) ∧
    (¬ none' → ¬ dropped → s.dev.partner n = none → closed = false → ∃ t, exec (.headStart n) s = .next t ∧
      (t.dev.head n).starting = true ∧ (t.dev.head n).timed = (timed && !late) ∧ s.dev.Asks t.dev ⟨[n], 1, [], false⟩ ∧
      (timed = true → t.dev.fld (R.HD_TLOCK_STATUS_SKIPPED n) = 0) ∧ t.dev.loader = s.dev.loader ∧ KeepsStore s t ∧
      (s.dev.gv.busy ≠ none → KeepsFlds s t (if timed then [R.HD_TLOCK_STATUS_SKIPPED n] else []))) ∧
    (∀ l, ¬ none' → ¬ dropped → s.dev.pairLeader n = some l → l ≠ n.val → s.dev.run l ≠ 2 → closed = false →
      ∃ t, exec (.headStart n) s = .next t ∧ (t.dev.head n).heldForLeader = true ∧ (t.dev.head n).starting = false ∧
        t.dev.gv = s.dev.gv ∧ KeepsStore s t)) ∧
  (∀ (s : State) (n : Fin 8),
    let runs := s.dev.run n = 1 ∨ s.dev.run n = 2
    let held := (s.dev.head n).heldForLeader = true ∨ n.val ∈ s.dev.loader.held
    s.dev.blockHeld .HD = false →
    (runs → ∃ t, exec (.headStop n) s = .next t ∧ t.dev.run n = 3 ∧ OnlyFlds s t [R.HD_STATUS_RUN n]) ∧
    (¬ runs → (s.dev.head n).starting = true → ∃ t, exec (.headStop n) s = .next t ∧ (t.dev.head n).starting = false ∧
      (∀ q ∈ t.dev.gv.waiting, n.val ∈ q.heads → q.trigger = 1 → q.withdrawn = true) ∧
      (∀ b, t.dev.gv.busy = some b → n.val ∈ b.1.heads → b.1.trigger = 1 → b.1.withdrawn = true) ∧
      t.dev.fld ⟨R.HD_STATUS n, 13, 13⟩ = 1 ∧ KeepsStore s t ∧
      KeepsFlds s t [⟨R.HD_STATUS n, 13, 13⟩, R.HD_STATUS_SEQ n]) ∧
    (¬ runs → (s.dev.head n).starting = false → held → ∃ t, exec (.headStop n) s = .next t ∧
      (t.dev.head n).heldForLeader = false ∧ n.val ∉ t.dev.loader.held ∧ t.dev.fld ⟨R.HD_STATUS n, 13, 13⟩ = 1 ∧
      KeepsStore s t ∧ KeepsFlds s t [⟨R.HD_STATUS n, 13, 13⟩, R.HD_STATUS_SEQ n]) ∧
    (¬ runs → (s.dev.head n).starting = false → ¬ held → exec (.headStop n) s = .next s)) ∧
  (∀ (s : State) (n p : Fin 8) (v : Bool), s.dev.blockHeld .HD = false →
    (∀ h : Fin 8, (s.dev.head h).heldForLeader = false ∧ (s.dev.head h).pllLocked = false) →
    (s.dev.partner n = none → ∃ t, exec (.splitLeaderWrite n v) s = .next t ∧
      t.dev.fld (R.HD_SPLIT_CTRL_LEADER n) = b2n v ∧ OnlyFlds s t [R.HD_SPLIT_CTRL_LEADER n]) ∧
    (s.dev.partner n = some p.val → s.dev.partner p = some n.val → n ≠ p → (s.dev.head n).ticking = false →
      (s.dev.head p).ticking = false → ∃ t, exec (.splitLeaderWrite n v) s = .next t ∧
        t.dev.fld (R.HD_SPLIT_CTRL_LEADER n) = b2n v ∧
        (let w := s.dev.flag (R.HD_SPLIT_CTRL_LEADER p);
          (v = true → w = true → t.dev.fld ⟨R.HD_STATUS n, 8, 8⟩ = 1 ∧ t.dev.fld ⟨R.HD_STATUS p, 8, 8⟩ = 1 ∧
            (t.dev.head (min n.val p.val)).follows = none ∧
            (t.dev.head (max n.val p.val)).follows = some (min n.val p.val)) ∧
          (v = true → w = false → (t.dev.head n).follows = none ∧ (t.dev.head p).follows = some n.val) ∧
          (v = false → w = true → (t.dev.head p).follows = none ∧ (t.dev.head n).follows = some p.val) ∧
          (v = false → w = false → t.dev.fld ⟨R.HD_STATUS n, 9, 9⟩ = 1 ∧ t.dev.fld ⟨R.HD_STATUS p, 9, 9⟩ = 1 ∧
            (t.dev.head n).follows = none ∧ (t.dev.head p).follows = none)) ∧ KeepsStore s t ∧
        KeepsFlds s t [R.HD_SPLIT_CTRL_LEADER n, ⟨R.HD_STATUS n, 8, 8⟩, ⟨R.HD_STATUS p, 8, 8⟩, ⟨R.HD_STATUS n, 9, 9⟩,
          ⟨R.HD_STATUS p, 9, 9⟩, R.HD_STATUS_SEQ n, R.HD_STATUS_SEQ p]))

/-- HEAD_PLL_LOCKED and HEAD_TIMED_START (steps 3 and 4 of R295, R315, R316, R320). The PLL lock of an admitted head
that neither waits for its time nor joins a leader's or source's frame, and HEAD_TIMED_START of a timed head whose
PLL has locked, start its timing generator at pixel 0 of line VACT, with a VBLANK event, and a LINE_MATCH event
where that line is chosen. The PLL lock of a head that waits or joins is only noted. Of a head whose generator
runs, or in any other state, neither does anything.

What a command of a block does is said of states in which that block can be used (log entry 8). -/
def Obligations.GeneratorStartsAtVact : Prop :=
  ∀ (s : State) (n : Fin 8),
    let up := s.dev.run n = 1 ∨ s.dev.run n = 3
    let starts := fun (c : Instr) => ∃ t, exec c s = .next t ∧ (t.dev.head n).ticking = true ∧
      (t.dev.head n).timed = false ∧ t.dev.fld (R.HD_POS_LINE n) = (s.dev.liveTiming n).vact % 2 ^ 14 ∧
      t.dev.fld (R.HD_POS_PX n) = 0 ∧ t.dev.fld ⟨R.HD_STATUS n, 0, 0⟩ = 1 ∧
      (s.dev.fld (R.HD_EVENT_CFG_LINE_MATCH n) = (s.dev.liveTiming n).vact → t.dev.fld ⟨R.HD_STATUS n, 1, 1⟩ = 1) ∧
      t.dev.fld (R.DP_LINK_STATUS_STREAM n) = b2n (s.dev.trained n) ∧ KeepsStore s t ∧
      KeepsFlds s t [R.HD_POS_LINE n, R.HD_POS_PX n, ⟨R.HD_STATUS n, 0, 0⟩, ⟨R.HD_STATUS n, 1, 1⟩, R.HD_STATUS_SEQ n,
        R.DP_LINK_STATUS_STREAM n]
    s.dev.blockHeld .HD = false →
    (up → (s.dev.head n).ticking = false → (s.dev.head n).timed = false → s.dev.joins n = none →
      starts (.headPllLocked n)) ∧
    (up → (s.dev.head n).ticking = false → (s.dev.head n).timed = true ∨ s.dev.joins n ≠ none →
      exec (.headPllLocked n) s =
        .next { s with dev := s.dev.updHead n (fun x => { x with pllLocked := true }) }) ∧
    (¬ up ∨ (s.dev.head n).ticking = true → exec (.headPllLocked n) s = .next s) ∧
    ((s.dev.head n).ticking = false → (s.dev.head n).timed = true → (s.dev.head n).pllLocked = true →
      starts (.headTimedStart n)) ∧
    ((s.dev.head n).ticking = true ∨ (s.dev.head n).timed = false ∨ (s.dev.head n).pllLocked = false →
      exec (.headTimedStart n) s = .next s)

/-- ARM, CANCEL and the check of a staged write (R220, R298, R299, R301, R302, R304, R313). ARM on a head that neither
starts nor runs does nothing. On a head that does, alone, it asks the governor; a first arm after the frame's eve
line is late and says so. With PAIR and a running partner it arms both heads by one request. CANCEL withdraws an
armed commit, its reservation with it, and does nothing without one. A staged write takes an armed commit's
admission back until the governor has checked it again, and asks nothing without one.

What a command of a block does is said of states in which that block can be used (log entry 8).

The model's readings and choices that it rests on: log entry 39. -/
def Obligations.CommitRequests : Prop :=
  ∀ (s : State) (n p : Fin 8) (a : ArmSt) (engines : List (Fin 64)),
    let up := fun (h : Fin 8) => s.dev.run h = 1 ∨ s.dev.run h = 2
    s.dev.blockHeld .HD = false →
    (¬ up n → exec (.headArm n) s = .next s) ∧
    (up n → s.dev.partner n = none → (s.dev.head n).arm = none → ∃ t, exec (.headArm n) s = .next t ∧
      (t.dev.head n).arm = some ⟨false, (s.dev.head n).evePassed, false, false⟩ ∧ s.dev.Asks t.dev ⟨[n], 0, [], false⟩ ∧
      ((s.dev.head n).evePassed = true → t.dev.fld ⟨R.HD_STATUS n, 4, 4⟩ = 1) ∧ KeepsStore s t ∧
      (s.dev.gv.busy ≠ none → KeepsFlds s t (if (s.dev.head n).evePassed then [⟨R.HD_STATUS n, 4, 4⟩, R.HD_STATUS_SEQ n]
        else []))) ∧
    (up n → s.dev.partner n = none → (s.dev.head n).arm = some a → ∃ t, exec (.headArm n) s = .next t ∧
      (t.dev.head n).arm = some { a with admitted := false } ∧ s.dev.Asks t.dev ⟨[n], 0, [], false⟩ ∧ KeepsStore s t) ∧
    (up n → up p → s.dev.partner n = some p.val → n < p → s.dev.flag (R.HD_COMMIT_PAIR n) = true →
      (s.dev.head n).arm = none → (s.dev.head p).arm = none → ∃ t, exec (.headArm n) s = .next t ∧
        (t.dev.head n).arm = some ⟨false, (s.dev.head n).evePassed, false, true⟩ ∧
        (t.dev.head p).arm = some ⟨false, (s.dev.head p).evePassed, false, true⟩ ∧
        s.dev.Asks t.dev ⟨[n, p], 0, [], false⟩ ∧ KeepsStore s t) ∧
    (s.dev.flag (R.HD_STATUS_ARMED n) = true → s.dev.partner n = none → ∃ t, exec (.headCancel n) s = .next t ∧
      (t.dev.head n).arm = none ∧ t.dev.fld (R.HD_STATUS_ARMED n) = 0 ∧
      t.dev.headRes n = { s.dev.headRes n with armed := none } ∧ KeepsStore s t ∧
      (∀ x, slotOf x ≠ Block.GV.base → x ≠ R.HD_STATUS n → t.dev.get x = s.dev.get x)) ∧
    (s.dev.flag (R.HD_STATUS_ARMED n) = false → exec (.headCancel n) s = .next s) ∧
    ((s.dev.head n).arm = some a → a.pair = false → ∃ t, exec (.stagedWriteRecheck n engines) s = .next t ∧
      (t.dev.head n).arm = some { a with admitted := false } ∧
      s.dev.Asks t.dev ⟨[n], 2, engines.map (·.val), false⟩ ∧ KeepsStore s t ∧
      (s.dev.gv.busy ≠ none → ∀ x, t.dev.get x = s.dev.get x)) ∧
    ((s.dev.head n).arm = none → exec (.stagedWriteRecheck n engines) s = .next s)

/-- HEAD_LINE_START of a head alone on its own counters (R291, R298, R305, R308, R322): POS.LINE moves on by one line.
At line VACT it has a VBLANK event, and the eve line is due from line VACT − EVE on, once in the frame. Past the
last line of the frame POS.LINE is 0 and the harvest point is due. A frame in Adaptive-Sync hold grows by a line.
A head whose generator stands still does nothing.

EVE_LINE_START of a head alone on its counters (R299, R300): an admitted commit that was armed before the eve line is
sealed, with the image of the staged bank as it stands, and its reservation with it; one whose verdict is due is
marked to be sealed by it; a late one stays for the next frame. A head whose generator stands still does nothing.

Row requests (R197, R201, R217, R226): an engine that no head's tree holds, or whose subtree a fed surface replaces,
requests nothing; an enabled engine of the tree of a running head that does not align has requested, when the line
before an active line of its layer is scanned, every burst of the rows that the line needs and of which it held
nothing.

HEAD_UNDERRUN at a pixel of an active line that has not left the head (R309): the line is cut off there, or at a pixel
before it that lacks its input too; the underrun counts, with the UNDERRUN event, and the line and the cause of the
first row of the table of R309 that applies to the line are captured if UNDERRUN was clear. A head whose generator
stands, whose line is cut off or background, or that needs no input at the pixel does nothing.

What a command of a block does is said of states in which that block can be used (log entry 8).

The model's readings and choices that it rests on: log entries 35, 36, 74, 92 and 104. -/
def Obligations.LinesAndRows : Prop :=
  (∀ (s : State) (n : Fin 8),
    let y := s.dev.lineNow n + 1
    let t0 := s.dev.liveTiming n
    let hold := s.dev.holdAt n y
    s.dev.blockHeld .HD = false →
    ((s.dev.head n).ticking = false → exec (.headLineStart n) s = .next s) ∧
    ((s.dev.head n).ticking = true → (s.dev.head n).sync = .own → (s.dev.head n).harvestDue = false →
      (s.dev.head n).eveDue = false → s.dev.members n = [n.val] → ∃ t, exec (.headLineStart n) s = .next t ∧
        (t.dev.head n).hold = hold ∧ (t.dev.head n).extra = (s.dev.head n).extra + b2n hold ∧
        (y < t0.vtotal + (s.dev.head n).extra + b2n hold → t.dev.fld (R.HD_POS_LINE n) = y % 2 ^ 14 ∧
          (t.dev.head n).harvestDue = false ∧ (y = t0.vact → t.dev.fld ⟨R.HD_STATUS n, 0, 0⟩ = 1) ∧
          (t0.vact - t0.eve ≤ y → (s.dev.head n).evePassed = false → (t.dev.head n).eveDue = true)) ∧
        (t0.vtotal + (s.dev.head n).extra + b2n hold ≤ y → t.dev.fld (R.HD_POS_LINE n) = 0 ∧
          (t.dev.head n).harvestDue = true) ∧ KeepsStore s t)) ∧
  (∀ (s : State) (n : Fin 8) (a : ArmSt), s.dev.blockHeld .HD = false →
    let passed := s.dev.updHead n (fun x => { x with evePassed := true, eveDue := false })
    ((s.dev.head n).ticking = false → exec (.eveLineStart n) s = .next s) ∧
    ((s.dev.head n).ticking = true → (s.dev.head n).sync = .own → s.dev.members n = [n.val] →
      ((s.dev.head n).arm = some a → a.late = false → a.admitted = true → ∃ t, exec (.eveLineStart n) s = .next t ∧
        (t.dev.head n).image = some (s.dev.stagedImage n) ∧ (t.dev.head n).arm = none ∧
        t.dev.fld (R.HD_STATUS_SEALED n) = 1 ∧ t.dev.fld (R.HD_STATUS_ARMED n) = 0 ∧
        t.dev.headRes n = { s.dev.headRes n with sealed := (s.dev.headRes n).armed, armed := none } ∧
        KeepsStore s t ∧ KeepsFlds s t [R.HD_STATUS_SEALED n, R.HD_STATUS_ARMED n]) ∧
      ((s.dev.head n).arm = some a → a.late = false → a.admitted = false → exec (.eveLineStart n) s =
        .next { s with dev := passed.updHead n (fun x => { x with arm := some { a with eve := true } }) }) ∧
      ((s.dev.head n).arm = none ∨ ((s.dev.head n).arm = some a ∧ a.late = true) →
        exec (.eveLineStart n) s = .next { s with dev := passed }))) ∧
  (∀ (s : State) (l : Fin 64), s.dev.blockHeld .LE = false →
    (s.dev.fp.leRec l = none ∨ s.dev.flattened l = true ∨
      (∀ r, s.dev.fp.leRec l = some r → (s.dev.fp.tree r.head).contains l.val = false) →
      exec (.leRowFetch l) s = .next s) ∧
    (∀ r k, s.dev.fp.leRec l = some r → (s.dev.head r.head).ticking = true → (s.dev.head r.head).sync ≠ .aligning →
      (s.dev.fp.tree r.head).contains l.val = true → s.dev.flattened l = false → (s.dev.head r.head).background = false →
      (s.dev.leCfg l 0).enable = true → (s.dev.leCfg l 0).lineOf (s.dev.lineNow r.head + 1) = some k →
      s.dev.lineNow r.head + 1 < (s.dev.raster r.head).vact →
      s.dev.lineNow r.head + 1 < (s.dev.raster r.head).vtotal + (s.dev.head (s.dev.clock r.head)).extra →
      ∃ t, exec (.leRowFetch l) s = .next t ∧
        (∀ x ∈ (s.dev.leCfg l 0).lineRows k,
          (∀ c ∈ (s.dev.engine l).cache, c.ahead = false → c.plane = x.1 → c.row ≠ x.2) →
          ∀ b ∈ (s.dev.leCfg l 0).rowBursts (s.dev.raster r.head).hact x.1 x.2, ∃ c ∈ (t.dev.engine l).cache,
            c.plane = x.1 ∧ c.row = x.2 ∧ c.off = b.1 ∧ c.ahead = false) ∧ KeepsStore s t)) ∧
  (∀ (s : State) (n : Fin 8) (px : Nat), s.dev.blockHeld .HD = false →
    let y := s.dev.lineNow n
    let ready := (s.dev.head n).ticking = true ∧ (s.dev.head (s.dev.clock n)).harvestDue = false ∧
      s.dev.refilling n = false ∧ (s.dev.head n).cut = none ∧ s.dev.backgroundLine n = false ∧
      px < (s.dev.raster n).hact ∧ px < (s.dev.raster n).htotal ∧ y < (s.dev.raster n).vact ∧
          (s.dev.head n).row.length ≤ px
    (ready → ∃ t, exec (.headUnderrun n px) s = .next t ∧ (∃ x ≤ px, (t.dev.head n).cut = some x) ∧
      t.dev.fld ⟨R.HD_STATUS n, 6, 6⟩ = 1 ∧
      t.dev.fld (R.HD_UNDERRUN_COUNT_COUNT n) = min (s.dev.fld (R.HD_UNDERRUN_COUNT_COUNT n) + 1) (2 ^ 32 - 1) ∧
      (s.dev.fld ⟨R.HD_STATUS n, 6, 6⟩ = 0 → t.dev.fld (R.HD_UNDERRUN_INFO_LINE n) = y % 2 ^ 14 ∧
        t.dev.fld (R.HD_UNDERRUN_INFO_CAUSE n) = s.dev.lineCause ((s.dev.cloneSource n).getD n) y % 4) ∧
      KeepsStore s t ∧ KeepsFlds s t [⟨R.HD_STATUS n, 6, 6⟩, ⟨R.HD_STATUS n, 14, 14⟩, R.HD_STATUS_SEQ n,
        R.HD_UNDERRUN_COUNT_COUNT n, R.HD_UNDERRUN_INFO_LINE n, R.HD_UNDERRUN_INFO_CAUSE n,
        R.CN_BRIDGE_LATE_COUNT_COUNT (halfOfHead n), R.CN_STATUS_STAT_SAT (halfOfHead n),
        R.CN_STATUS_BRIDGE_LATE (halfOfHead n), R.CN_STATUS_SEQ (halfOfHead n)]) ∧
    (¬ ready → exec (.headUnderrun n px) s = .next s))

/-- The harvest point ends a stop (R264, R296): the head is stopped, its generator stands, its commits and its
reservation are gone and a STOPPED event tells of it.

The harvest point of a head alone on its counters, with no commit sealed, starts a frame (R295, R297, R305): the head
runs, and is at line 0 with one more frame. A head whose generator stands still has none.

A sealed commit reaches the live registers at the harvest point (R297): told of the background colour of a running
head alone on its counters, whose image holds registers of the head's bank, each once. SEALED falls and a HARVEST
event tells of it.

What a command of a block does is said of states in which that block can be used (log entry 8).

The model's readings and choices that it rests on: log entry 35. -/
def Obligations.HarvestPoint : Prop :=
  (∀ (s : State) (n : Fin 8), s.dev.blockHeld .HD = false → (s.dev.head n).ticking = true → (s.dev.head n).sync = .own →
    s.dev.run n = 3 → s.dev.members n = [n.val] → (s.dev.head n).harvestDue = true → s.dev.partner n = none →
    (∀ h < 8, h ≠ n.val → s.dev.cloneSource h = none ∧ (s.dev.head h).follows = none ∧
      (s.dev.head h).heldForLeader = false) →
    ∃ t, exec (.harvestPoint n) s = .next t ∧ t.dev.run n = 0 ∧ (t.dev.head n).ticking = false ∧
      (t.dev.head n).image = none ∧ (t.dev.head n).arm = none ∧ t.dev.headRes n = ⟨none, none, none⟩ ∧
      t.dev.fld ⟨R.HD_STATUS n, 13, 13⟩ = 1 ∧ KeepsStore s t) ∧
  (∀ (s : State) (n : Fin 8), s.dev.blockHeld .HD = false →
    ((s.dev.head n).ticking = false → exec (.harvestPoint n) s = .next s) ∧
    ((s.dev.head n).ticking = true → (s.dev.head n).sync = .own → s.dev.run n = 1 ∨ s.dev.run n = 2 →
      s.dev.members n = [n.val] → (s.dev.head n).harvestDue = true → s.dev.partner n = none →
      (∀ h < 8, h ≠ n.val → s.dev.cloneSource h = none ∧ (s.dev.head h).follows = none ∧
      (s.dev.head h).heldForLeader = false) →
      (s.dev.head n).image = none → ∃ t, exec (.harvestPoint n) s = .next t ∧ t.dev.fld (R.HD_POS_LINE n) = 0 ∧
        t.dev.fld (R.HD_POS_PX n) = 0 ∧ (t.dev.head n).harvestDue = false ∧ t.dev.run n = 2 ∧
        t.dev.fld (R.HD_FRAME_COUNT_COUNT n) = (s.dev.fld (R.HD_FRAME_COUNT_COUNT n) + 1) % 2 ^ 32 ∧ KeepsStore s t)) ∧
  (∀ (s : State) (n : Fin 8) (img : List (Nat × Word)) (w : Word), s.dev.blockHeld .HD = false →
    (s.dev.head n).ticking = true → (s.dev.head n).sync = .own → s.dev.run n = 2 → s.dev.members n = [n.val] →
    (s.dev.head n).harvestDue = true → s.dev.partner n = none →
    (∀ h < 8, h ≠ n.val → s.dev.cloneSource h = none ∧ (s.dev.head h).follows = none ∧
      (s.dev.head h).heldForLeader = false) →
    (s.dev.head n).image = some img → (∀ p ∈ img, p.1 ∈ (s.dev.bankOf n).map (·.1)) →
    (img.map (·.1)).Nodup → (R.HD_BG_COLOR n 0, w) ∈ img → ∃ t, exec (.harvestPoint n) s = .next t ∧
      t.dev.get (R.HD_BG_COLOR n 0) = w ∧ (t.dev.head n).image = none ∧ t.dev.fld (R.HD_STATUS_SEALED n) = 0 ∧
      t.dev.fld ⟨R.HD_STATUS n, 3, 3⟩ = 1 ∧ KeepsStore s t)

/-! ### The governor (chapter 08) -/

/-- The end of an evaluation (R263, R264, R267 to R269, R286, R295, R304), told of a request of one head with none
waiting behind it. An admitted commit makes ARMED 1, reserves its demand and counts in ADMIT_COUNT, a forced one
in FORCE_COUNT too; a refused one is taken back, sets COMMIT_REFUSED and REFUSED and counts in REFUSE_COUNT, and
reads RESULT 4 where the commit was armed. An admitted start makes the head start: RUN is 1, its live registers
are those of the staged bank, and FRAME_COUNT is 0; a refused one has a START_REFUSED event; a withdrawn one
leaves the head alone. The verdict registers of the head show the verdict. With no evaluation under way nothing
happens.

RELEARN (R275, R276), in every state: the stack's model restarts at M = 0 with no frame learned and no excursion, its
table applies, and no head's frame in progress is learned from. No register outside the governor's changes.

What a command of a block does is said of states in which that block can be used (log entry 8).

The model's readings and choices that it rests on: log entries 41 and 82. -/
def Obligations.EvaluationAndRelearning : Prop :=
  (∀ (s : State) (n : Fin 8) (q : GvRequest) (v : Verdict) (a : ArmSt) (x : Demand), s.dev.blockHeld .GV = false →
    let admitted := s.dev.fld R.GV_ADMIT_COUNT_COUNT
    let refused := s.dev.fld R.GV_REFUSE_COUNT_COUNT
    let forced := s.dev.fld R.GV_FORCE_COUNT_COUNT
    let one := s.dev.gv.busy = some (q, v) ∧ s.dev.gv.waiting = [] ∧ q.heads = [n.val]
    let yes := v.result ≠ 2 ∧ v.demands = [(n.val, x)]
    let start := q.trigger = 1 ∧ q.withdrawn = false ∧ (s.dev.head n).starting = true
    let shows := fun (t : State) (r : Nat) => t.dev.gv.busy = none ∧ t.dev.fld (R.GV_VERDICT_HDn_RESULT n) = r ∧
      t.dev.fld (R.GV_VERDICT_HDn_TRIGGER n) = q.trigger % 4 ∧ t.dev.fld (R.GV_VERDICT_HDn_REASON n) = v.reason % 256 ∧
      KeepsStore s t
    (s.dev.gv.busy = none → exec .gvEvaluationDone s = .next s) ∧
    (one → yes → q.trigger ≠ 1 → (s.dev.head n).arm = some a → a.eve = false →
      ∃ t, exec .gvEvaluationDone s = .next t ∧ shows t (v.result % 8) ∧ t.dev.fld (R.HD_STATUS_ARMED n) = 1 ∧
        (t.dev.head n).arm = some { a with admitted := true } ∧ (t.dev.headRes n).armed = some x ∧
        t.dev.fld R.GV_ADMIT_COUNT_COUNT = min (admitted + 1) (2 ^ 32 - 1) ∧
        t.dev.fld R.GV_FORCE_COUNT_COUNT = min (forced + b2n (v.result == 3)) (2 ^ 32 - 1) ∧
        (∀ r, slotOf r ≠ Block.GV.base → r ≠ R.HD_STATUS n → t.dev.get r = s.dev.get r)) ∧
    (one → v.result = 2 → q.trigger ≠ 1 → (s.dev.head n).arm = some a → ∃ t, exec .gvEvaluationDone s = .next t ∧
      shows t (if s.dev.flag (R.HD_STATUS_ARMED n) then 4 else 2) ∧ (t.dev.head n).arm = none ∧
      t.dev.fld (R.HD_STATUS_ARMED n) = 0 ∧ t.dev.fld ⟨R.HD_STATUS n, 5, 5⟩ = 1 ∧ t.dev.fld R.GV_STATUS_REFUSED = 1 ∧
      t.dev.fld R.GV_REFUSE_COUNT_COUNT = min (refused + 1) (2 ^ 32 - 1) ∧
      (∀ r, slotOf r ≠ Block.GV.base → r ≠ R.HD_STATUS n → (∀ l ∈ q.engines, r ≠ R.LE_STATUS l) →
        t.dev.get r = s.dev.get r)) ∧
    (one → yes → start → ∃ t, exec .gvEvaluationDone s = .next t ∧ shows t (v.result % 8) ∧ t.dev.run n = 1 ∧
      (t.dev.head n).starting = false ∧ (∀ p ∈ s.dev.bankOf n, t.dev.get p.1 = s.dev.get p.2) ∧
      t.dev.fld (R.HD_FRAME_COUNT_COUNT n) = 0 ∧ t.dev.headRes n = ⟨some x, none, none⟩ ∧
      t.dev.fld R.GV_ADMIT_COUNT_COUNT = min (admitted + 1) (2 ^ 32 - 1)) ∧
    (one → v.result = 2 → start → ∃ t, exec .gvEvaluationDone s = .next t ∧ shows t 2 ∧ t.dev.run n = s.dev.run n ∧
      (t.dev.head n).starting = false ∧ t.dev.fld ⟨R.HD_STATUS n, 12, 12⟩ = 1 ∧
      t.dev.fld R.GV_REFUSE_COUNT_COUNT = min (refused + 1) (2 ^ 32 - 1)) ∧
    (one → q.trigger = 1 → q.withdrawn = true → ∃ t, exec .gvEvaluationDone s = .next t ∧ shows t (v.result % 8) ∧
      t.dev.hd = s.dev.hd ∧ (∀ r, slotOf r ≠ Block.GV.base → t.dev.get r = s.dev.get r))) ∧
  (∀ (s : State) (k : Fin 4), s.dev.blockHeld .GV = false →
    ∃ t, exec (.relearn k) s = .next t ∧ t.dev.fld (R.GV_MODEL_FSs_MODEL_NS k) = 0 ∧
      t.dev.fld (R.GV_LEARN_FSs_FRAMES k) = 0 ∧ t.dev.fld (R.GV_LEARN_FSs_EXCURSIONS k) = 0 ∧
      t.dev.fld R.GV_STATUS_TABLE / 2 ^ k.val % 2 = 1 ∧ (∀ h < 8, k.val ∈ at' t.dev.gv.skips h []) ∧
      s.dev.SameButRegs { t.dev with gv := s.dev.gv } ∧ KeepsStore s t ∧
      (∀ r, slotOf r ≠ Block.GV.base → t.dev.get r = s.dev.get r))

/-- Flattening ends (R279, R280, R283). Clearing FLAT_EN ends the one surface that is not idle with STOP: one not
captured yet without a sign, one in capture, verify or past it with LAST 9 and CAPTURE_ABORT, a fed one with LAST
9 and FLAT_DISSOLVE, counted; where its head goes on, it supplies the rest of the frame. A backlog in capture ends
a surface with OVERFLOW, and a verify that does not end in time with TIMEOUT, each with CAPTURE_ABORT; in another
phase neither does anything.

FLAT_VERIFY_DONE (R279, R280), in every state: a poisoned read-back ends the work with POISON and CAPTURE_ABORT; one
whose every line has been compared passes, so that the surface waits for the harvest point that feeds it; before that,
and of a surface that is not in verify, nothing changes.

What a command of a block does is said of states in which that block can be used (log entry 8).

The model's readings and choices that it rests on: log entry 43. -/
def Obligations.FlatteningAndVerify : Prop :=
  (∀ (s : State) (k : Fin 8),
    let surf := s.dev.surf k
    let alone := ∀ j < 8, j ≠ k.val → (s.dev.surf j).phase = .idle
    let aborts := fun (c : Instr) (code : Nat) (more : List Fld) => ∃ t, exec c s = .next t ∧
      (t.dev.surf k).phase = .idle ∧ t.dev.fld (R.GV_FLAT_STATE_STATE k) = 0 ∧ t.dev.fld (R.GV_FLAT_STATE_LAST k) = code ∧
      t.dev.fld R.GV_STATUS_CAPTURE_ABORT = 1 ∧ KeepsStore s t ∧ KeepsFlds s t ([R.GV_FLAT_STATE_STATE k,
        R.GV_FLAT_STATE_LAST k, R.GV_STATUS_CAPTURE_ABORT, R.GV_STATUS_SEQ] ++ more)
    s.dev.blockHeld .GV = false →
    ((∀ j < 8, (s.dev.surf j).phase = .idle) → ∃ t, exec .gvFlatDisable s = .next t ∧ t.dev.fld R.GV_CTRL_FLAT_EN = 0 ∧
      OnlyFlds s t [R.GV_CTRL_FLAT_EN]) ∧
    (alone → surf.phase = .chosen → ∃ t, exec .gvFlatDisable s = .next t ∧ (t.dev.surf k).phase = .idle ∧
      t.dev.fld R.GV_CTRL_FLAT_EN = 0 ∧ KeepsStore s t ∧ KeepsFlds s t [R.GV_CTRL_FLAT_EN]) ∧
    (alone → surf.phase = .capture ∨ surf.phase = .verify ∨ surf.phase = .passed →
      aborts .gvFlatDisable 9 [R.GV_CTRL_FLAT_EN]) ∧
    (alone → surf.phase = .fed → ∃ t, exec .gvFlatDisable s = .next t ∧
      (t.dev.surf k).phase = (if (s.dev.head surf.head).ticking then .ending else .idle) ∧
      t.dev.fld R.GV_CTRL_FLAT_EN = 0 ∧ t.dev.fld (R.GV_FLAT_STATE_STATE k) = 0 ∧ t.dev.fld (R.GV_FLAT_STATE_LAST k) = 9 ∧
      t.dev.fld R.GV_STATUS_FLAT_DISSOLVE = 1 ∧
      t.dev.fld R.GV_DISSOLVE_COUNT_COUNT = min (s.dev.fld R.GV_DISSOLVE_COUNT_COUNT + 1) (2 ^ 32 - 1) ∧ KeepsStore s t) ∧
    (surf.phase = .capture → aborts (.flatCaptureOverflow k) 7 []) ∧
    (surf.phase ≠ .capture → exec (.flatCaptureOverflow k) s = .next s) ∧
    (surf.phase = .verify → aborts (.flatVerifyTimeout k) 8 []) ∧
    (surf.phase ≠ .verify → exec (.flatVerifyTimeout k) s = .next s)) ∧
  (∀ (s : State) (k : Fin 8) (poisoned : Bool), s.dev.blockHeld .GV = false →
    let surf := s.dev.surf k
    (surf.phase ≠ .verify → exec (.flatVerifyDone k poisoned) s = .next s) ∧
    (surf.phase = .verify → surf.h ≤ surf.checked → exec (.flatVerifyDone k false) s =
      .next { s with dev := s.dev.updSurf k (fun x => { x with phase := .passed }) }) ∧
    (surf.phase = .verify → surf.checked < surf.h → exec (.flatVerifyDone k false) s = .next s) ∧
    (surf.phase = .verify → ∃ t, exec (.flatVerifyDone k true) s = .next t ∧ (t.dev.surf k).phase = .idle ∧
      t.dev.fld (R.GV_FLAT_STATE_STATE k) = 0 ∧ t.dev.fld (R.GV_FLAT_STATE_LAST k) = 6 ∧
      t.dev.fld R.GV_STATUS_CAPTURE_ABORT = 1 ∧ KeepsStore s t ∧ KeepsFlds s t [R.GV_FLAT_STATE_STATE k,
        R.GV_FLAT_STATE_LAST k, R.GV_STATUS_CAPTURE_ABORT, R.GV_STATUS_SEQ]))

/-! ### Display links (chapter 10) -/

/-- Link enable (R338, R340, R344), in every state. Clearing ENABLE leaves the link untrained without a stream, fails
an HDCP authentication or session with code 9, and aborts an AUTO training under way with code 8 and TRAIN_FAIL.
Setting it with a RATE above the head's LINK_MAX does the same and gives code 1. Otherwise ENABLE is 1 and nothing
else changes.

A write of TRAIN (R339, R340, R344), in every state, in AUTO mode or MANUAL mode with any pattern: each stores MODE
and PATTERN. With an AUTO training under way that is all; on a link that is not enabled it ends with code 9 and
TRAIN_FAIL, and with no sink with code 2 and TRAIN_FAIL. Otherwise AUTO mode untrains the link and starts; MANUAL mode
with a pattern untrains it and sends the pattern with the drive settings; with pattern 0 it declares the link trained,
with code 0 and TRAIN_DONE. Each of the three ends an HDCP authentication or session.

The end of an AUTO training (R339), in every state: with none under way nothing changes. Otherwise the final drive
settings and the code are written; code 0 leaves the link trained, with TRAIN_DONE, another as it was, with
TRAIN_FAIL.

What a command of a block does is said of states in which that block can be used (log entry 8).

The model's readings and choices that it rests on: log entry 44. -/
def Obligations.LinkEnableAndTraining : Prop :=
  (∀ (s : State) (n : Fin 8), s.dev.blockHeld .DP = false →
    let refused := (s.dev.fp.cap n).linkMax < s.dev.fld (R.DP_LINK_CTRL_RATE n)
    let off := fun (en : Bool) (code : Nat) => ∃ t, exec (.linkEnableWrite n en) s = .next t ∧
      t.dev.fld (R.DP_LINK_CTRL_ENABLE n) = 0 ∧ t.dev.fld (R.DP_LINK_STATUS_TRAINED n) = 0 ∧
      t.dev.fld (R.DP_LINK_STATUS_STREAM n) = 0 ∧ t.dev.fld (R.DP_TRAIN_RESULT_CODE n) = code ∧
      (t.dev.link n).auto = false ∧ (t.dev.link n).auth = .idle ∧
      ((s.dev.link n).auto = true → t.dev.fld ⟨R.DP_LINK_STATUS n, 1, 1⟩ = 1) ∧
      ((s.dev.link n).auth ≠ .idle → t.dev.fld (R.DP_HDCP_STATUS_STATE n) = 6 ∧ t.dev.fld (R.DP_HDCP_STATUS_FAIL n) = 9 ∧
        t.dev.fld ⟨R.DP_LINK_STATUS n, 9, 9⟩ = 1) ∧
      ((s.dev.link n).auto = false → (s.dev.link n).auth = .idle → OnlyFlds s t [R.DP_LINK_CTRL_ENABLE n,
        R.DP_LINK_STATUS_TRAINED n, R.DP_LINK_STATUS_STREAM n, R.DP_TRAIN_RESULT_CODE n]) ∧
      OnlyLink s t n [R.DP_LINK_CTRL_ENABLE n, R.DP_TRAIN_RESULT_CODE n, ⟨R.DP_LINK_STATUS n, 31, 0⟩,
        ⟨R.DP_HDCP_STATUS n, 31, 0⟩]
    off false (if (s.dev.link n).auto then 8 else s.dev.fld (R.DP_TRAIN_RESULT_CODE n)) ∧
    (refused → off true 1) ∧
    (¬ refused → ∃ t, exec (.linkEnableWrite n true) s = .next t ∧ t.dev.fld (R.DP_LINK_CTRL_ENABLE n) = 1 ∧
      OnlyFlds s t [R.DP_LINK_CTRL_ENABLE n])) ∧
  (∀ (s : State) (n p : Fin 8), s.dev.blockHeld .DP = false →
    let auto := (s.dev.link n).auto = true
    let enabled := s.dev.fld (R.DP_LINK_CTRL_ENABLE n) = 1
    let mp := [R.DP_TRAIN_CTRL_MODE n, R.DP_TRAIN_CTRL_PATTERN n]
    let stored := fun (t : State) (m p : Nat) => t.dev.fld (R.DP_TRAIN_CTRL_MODE n) = m ∧
      t.dev.fld (R.DP_TRAIN_CTRL_PATTERN n) = p
    let atOnce := fun (c : Instr) (m p : Nat) =>
      (auto → ∃ t, exec c s = .next t ∧ stored t m p ∧ OnlyFlds s t mp) ∧
      (¬ auto → ¬ enabled ∨ s.dev.hpdLevel n = false → ∃ t, exec c s = .next t ∧ stored t m p ∧
        t.dev.fld (R.DP_TRAIN_RESULT_CODE n) = (if s.dev.fld (R.DP_LINK_CTRL_ENABLE n) = 0 then 9 else 2) ∧
        t.dev.fld ⟨R.DP_LINK_STATUS n, 1, 1⟩ = 1 ∧
        OnlyLink s t n (mp ++ [R.DP_TRAIN_RESULT_CODE n, ⟨R.DP_LINK_STATUS n, 1, 1⟩, R.DP_LINK_STATUS_SEQ n]))
    let begins := fun (c : Instr) (m p : Nat) (auto' : Bool) (out : List OutMsg) => ∃ t, exec c s = .next t ∧
        stored t m p ∧
      t.dev.fld (R.DP_LINK_STATUS_TRAINED n) = 0 ∧ t.dev.fld (R.DP_LINK_STATUS_STREAM n) = 0 ∧
      (t.dev.link n).auto = auto' ∧ (t.dev.link n).auth = .idle ∧ t.dev.out = s.dev.out ++ out ∧
      OnlyLink s t n (mp ++ [⟨R.DP_LINK_STATUS n, 31, 0⟩, ⟨R.DP_HDCP_STATUS n, 31, 0⟩])
    let ready := ¬ auto ∧ enabled ∧ s.dev.hpdLevel n = true
    atOnce (.linkTrainAuto n) 0 0 ∧ atOnce (.linkTrainManualPattern n p) 1 p ∧ atOnce (.linkTrainManualDeclare n) 1 0 ∧
    (ready → begins (.linkTrainAuto n) 0 0 true []) ∧
    (ready → p ≠ 0 →
      begins (.linkTrainManualPattern n p) 1 p false [.trainPattern n p (s.dev.fld (R.DP_TRAIN_DRIVE_DRIVE n))]) ∧
    (ready → ∃ t, exec (.linkTrainManualDeclare n) s = .next t ∧ stored t 1 0 ∧
      t.dev.fld (R.DP_LINK_STATUS_TRAINED n) = 1 ∧ t.dev.fld (R.DP_TRAIN_RESULT_CODE n) = 0 ∧
      t.dev.fld ⟨R.DP_LINK_STATUS n, 0, 0⟩ = 1 ∧ (t.dev.link n).auth = .idle ∧
      t.dev.fld (R.DP_LINK_STATUS_STREAM n) = b2n (s.dev.head n).ticking ∧
      OnlyLink s t n (mp ++ [R.DP_TRAIN_RESULT_CODE n, ⟨R.DP_LINK_STATUS n, 31, 0⟩, ⟨R.DP_HDCP_STATUS n, 31, 0⟩])) ∧
    exec (.linkTrainManualPattern n 0) s = exec (.linkTrainManualDeclare n) s) ∧
  (∀ (s : State) (n : Fin 8) (code : Fin 16) (drive : BitVec 16), s.dev.blockHeld .DP = false →
    ((s.dev.link n).auto = false → exec (.autoTrainingEnd n code drive) s = .next s) ∧
    ((s.dev.link n).auto = true → ∃ t, exec (.autoTrainingEnd n code drive) s = .next t ∧ (t.dev.link n).auto = false ∧
      t.dev.fld (R.DP_TRAIN_DRIVE_DRIVE n) = drive.toNat ∧ t.dev.fld (R.DP_TRAIN_RESULT_CODE n) = code ∧
      (code = 0 → t.dev.fld (R.DP_LINK_STATUS_TRAINED n) = 1 ∧ t.dev.fld ⟨R.DP_LINK_STATUS n, 0, 0⟩ = 1 ∧
        t.dev.fld (R.DP_LINK_STATUS_STREAM n) = b2n (s.dev.head n).ticking) ∧
      (code ≠ 0 → t.dev.fld ⟨R.DP_LINK_STATUS n, 1, 1⟩ = 1 ∧
        OnlyLink s t n [R.DP_TRAIN_DRIVE_DRIVE n, R.DP_TRAIN_RESULT_CODE n, ⟨R.DP_LINK_STATUS n, 1, 1⟩,
          R.DP_LINK_STATUS_SEQ n]) ∧
      OnlyLink s t n [R.DP_TRAIN_DRIVE_DRIVE n, R.DP_TRAIN_RESULT_CODE n, ⟨R.DP_LINK_STATUS n, 31, 0⟩]))

/-- AUX (R335 to R337), in every state: GO on a busy channel only sets AUX_DROP; with no sink it ends with reply 5,
and a native write that touches 0x68000 to 0x69FFF ends with reply 4. Any other sets BUSY and goes out as the
registers hold it; it can wait only where an AUTO training or an authentication runs. The reply to the request
that went out clears BUSY, gives REPLY and BYTES and sets AUX_DONE; its bytes enter the data words from byte 0
where the request read. A timeout gives reply 3. With no request gone out neither changes anything.

What a command of a block does is said of states in which that block can be used (log entry 8).

The model's readings and choices that it rests on: log entries 44, 45 and 101. -/
def Obligations.AuxTransactions : Prop :=
  ∀ (s : State) (n : Fin 8) (cmd : Nat) (reply : Fin 16) (count : Fin 32) (data : List Byte),
      s.dev.blockHeld .DP = false →
    let busy := s.dev.fld (R.DP_AUX_STATUS_BUSY n) = 1
    let now := s.dev.fld (R.DP_AUX_CTRL_CMD n)
    let a := s.dev.fld (R.DP_AUX_ADDR_ADDR n)
    let len := s.dev.fld (R.DP_AUX_CTRL_LEN n) + 1
    let words := (List.range 4).map (fun k => s.dev.get (R.DP_AUX_DATAk n k))
    let hdcp := now = 8 ∧ 0x68000 < a + len ∧ a < 0x6A000
    let ended := fun (c : Instr) (reply count : Nat) (more : List Fld) => ∃ t, exec c s = .next t ∧
      t.dev.fld (R.DP_AUX_STATUS_BUSY n) = 0 ∧ t.dev.fld (R.DP_AUX_STATUS_REPLY n) = reply ∧
      t.dev.fld (R.DP_AUX_STATUS_BYTES n) = count ∧ t.dev.fld ⟨R.DP_LINK_STATUS n, 6, 6⟩ = 1 ∧ (t.dev.link n).aux = none ∧
      t.dev.out = s.dev.out ∧ OnlyLink s t n ([R.DP_AUX_STATUS_BUSY n, R.DP_AUX_STATUS_REPLY n, R.DP_AUX_STATUS_BYTES n,
        ⟨R.DP_LINK_STATUS n, 6, 6⟩, R.DP_LINK_STATUS_SEQ n] ++ more)
    (busy → ∃ t, exec (.auxGo n) s = .next t ∧ t.dev.fld ⟨R.DP_LINK_STATUS n, 7, 7⟩ = 1 ∧
      OnlyFlds s t [⟨R.DP_LINK_STATUS n, 7, 7⟩, R.DP_LINK_STATUS_SEQ n]) ∧
    (¬ busy → s.dev.hpdLevel n = false → ended (.auxGo n) 5 0 []) ∧
    (¬ busy → s.dev.hpdLevel n = true → hdcp → ended (.auxGo n) 4 0 []) ∧
    (¬ busy → s.dev.hpdLevel n = true → ¬ hdcp → ∃ t, exec (.auxGo n) s = .next t ∧
      t.dev.fld (R.DP_AUX_STATUS_BUSY n) = 1 ∧
      (let sent := (t.dev.auxSent n).isSome;
        (t.dev.link n).aux = some ⟨now, a, len, words, sent⟩ ∧
        t.dev.out = s.dev.out ++ (if sent then [.auxRequest n now a len words] else []) ∧
        ((s.dev.link n).auto = false → (s.dev.link n).auth ≠ .running → sent = true)) ∧
      OnlyLink s t n [R.DP_AUX_STATUS_BUSY n]) ∧
    (s.dev.auxSent n = none → exec (.auxDone n reply count data) s = .next s ∧ exec (.auxReplyTimeout n) s = .next s) ∧
    (s.dev.auxSent n = some cmd → ended (.auxReplyTimeout n) 3 0 []) ∧
    (s.dev.auxSent n = some cmd → cmd % 4 ≠ 1 → ended (.auxDone n reply count data) (reply % 8) count []) ∧
    (s.dev.auxSent n = some cmd → cmd % 4 = 1 →
      ended (.auxDone n reply count data) (reply % 8) count ((List.range 4).map fun k => ⟨R.DP_AUX_DATAk n k, 31, 0⟩) ∧
      ∃ t, exec (.auxDone n reply count data) s = .next t ∧
        ∀ k < 16, t.dev.fld ⟨R.DP_AUX_DATAk n (k / 4), 8 * (k % 4) + 7, 8 * (k % 4)⟩ =
          (match (data.take count)[k]? with
            | some b => b.toNat
            | none => s.dev.fld ⟨R.DP_AUX_DATAk n (k / 4), 8 * (k % 4) + 7, 8 * (k % 4)⟩))

/-- The hot-plug enable and the two timers (R334), in every state. EN 0 stops the classifying; EN 1 again changes
nothing; EN set finds a high pin, with HPD_LEVEL 1 and HPD_PLUG at once, or a low one, whose low time counts from
now. 2 ms of low clears HPD_LEVEL, unlearns the training, aborts an AUTO training with code 8 and sets HPD_UNPLUG;
2 ms of high after an unplug sets HPD_LEVEL and HPD_PLUG. A timer of a link with EN 0, or that no edge started,
does nothing.

A captured edge of the hot-plug pin (R334, R335, R344), in every state and after any time at the level before: with EN
0 nothing changes; a falling edge starts the low time; a rising one ends it. A low pulse under 250 µs is ignored, one
from there to under 2 ms sets HPD_IRQ, where a lost lane status unlearns an AUTO training with LINK_LOST and a request
for authentication fails the session with code 11; one of 2 ms or more is an unplug. After an unplug the high time
begins.

What a command of a block does is said of states in which that block can be used (log entry 8).

The model's readings and choices that it rests on: log entry 83. -/
def Obligations.HotPlugDetect : Prop :=
  (∀ (s : State) (n : Fin 8), s.dev.blockHeld .DP = false →
    let off := s.dev.fld (R.DP_HPD_CTRL_EN n) = 0
    let pin := s.dev.fld (R.EV_STATUS_PIN (s.dev.fld (R.DP_HPD_CTRL_SRC n)))
    (∃ t, exec (.hpdEnWrite n false) s = .next t ∧ t.dev.fld (R.DP_HPD_CTRL_EN n) = 0 ∧
      (t.dev.link n).hpdLow = false ∧ (t.dev.link n).hpdRose = false ∧ t.dev.out = s.dev.out ∧
      OnlyLink s t n [R.DP_HPD_CTRL_EN n]) ∧
    (¬ off → ∃ t, exec (.hpdEnWrite n true) s = .next t ∧ t.dev.fld (R.DP_HPD_CTRL_EN n) = 1 ∧
      OnlyFlds s t [R.DP_HPD_CTRL_EN n]) ∧
    (off → pin = 1 → ∃ t, exec (.hpdEnWrite n true) s = .next t ∧ t.dev.fld (R.DP_HPD_CTRL_EN n) = 1 ∧
      t.dev.fld (R.DP_LINK_STATUS_HPD_LEVEL n) = 1 ∧ t.dev.fld ⟨R.DP_LINK_STATUS n, 3, 3⟩ = 1 ∧
      OnlyFlds s t [R.DP_HPD_CTRL_EN n, R.DP_LINK_STATUS_HPD_LEVEL n, ⟨R.DP_LINK_STATUS n, 3, 3⟩,
          R.DP_LINK_STATUS_SEQ n]) ∧
    (off → pin = 0 → ∃ t, exec (.hpdEnWrite n true) s = .next t ∧ t.dev.fld (R.DP_HPD_CTRL_EN n) = 1 ∧
      (t.dev.link n).hpdLow = true ∧ (t.dev.link n).hpdFrom = some s.dev.raw ∧ t.dev.out = s.dev.out ∧
      OnlyLink s t n [R.DP_HPD_CTRL_EN n]) ∧
    (¬ off → (s.dev.link n).hpdLow = true → ∃ t, exec (.hpdUnplug n) s = .next t ∧ (t.dev.link n).hpdLow = false ∧
      t.dev.fld (R.DP_LINK_STATUS_HPD_LEVEL n) = 0 ∧ t.dev.fld (R.DP_LINK_STATUS_TRAINED n) = 0 ∧
      t.dev.fld ⟨R.DP_LINK_STATUS n, 4, 4⟩ = 1 ∧ (t.dev.link n).auth = .idle ∧ (t.dev.link n).auto = false ∧
      t.dev.fld (R.DP_TRAIN_RESULT_CODE n) =
        (if (s.dev.link n).auto then 8 else s.dev.fld (R.DP_TRAIN_RESULT_CODE n)) ∧
      OnlyLink s t n [⟨R.DP_LINK_STATUS n, 31, 0⟩, ⟨R.DP_HDCP_STATUS n, 31, 0⟩, R.DP_TRAIN_RESULT_CODE n]) ∧
    (off ∨ (s.dev.link n).hpdLow = false → exec (.hpdUnplug n) s = .next s) ∧
    (¬ off → (s.dev.link n).hpdRose = true → ∃ t, exec (.hpdPlug n) s = .next t ∧ (t.dev.link n).hpdRose = false ∧
      t.dev.fld (R.DP_LINK_STATUS_HPD_LEVEL n) = 1 ∧ t.dev.fld ⟨R.DP_LINK_STATUS n, 3, 3⟩ = 1 ∧ t.dev.out = s.dev.out ∧
      OnlyLink s t n [R.DP_LINK_STATUS_HPD_LEVEL n, ⟨R.DP_LINK_STATUS n, 3, 3⟩, R.DP_LINK_STATUS_SEQ n]) ∧
    (off ∨ (s.dev.link n).hpdRose = false → exec (.hpdPlug n) s = .next s)) ∧
  (∀ (s : State) (n : Fin 8) (us : Nat) (sink : SinkStatus) (level : Bool), s.dev.blockHeld .DP = false →
    let on := s.dev.fld (R.DP_HPD_CTRL_EN n) = 1
    let fell := (s.dev.link n).hpdLow = true
    let low := s.dev.lowUs n us
    let plugged := s.dev.hpdLevel n
    let lost := sink.lockLost = true ∧ s.dev.fld (R.DP_TRAIN_CTRL_MODE n) = 0 ∧ s.dev.trained n = true
    let edge := fun (rise : Bool) (low rose : Bool) (l : List Fld) (more : State → Prop) => ∃ t,
      exec (.hpdEdge n rise us sink) s = .next t ∧ (t.dev.link n).hpdLow = low ∧ (t.dev.link n).hpdFrom = none ∧
      (t.dev.link n).hpdRose = rose ∧ t.dev.out = s.dev.out ∧ OnlyLink s t n l ∧ more t
    (¬ on → exec (.hpdEdge n level us sink) s = .next s) ∧
    (on → edge false true false [] fun _ => True) ∧
    (on → fell → low < 250 → edge true false (!plugged) [] fun _ => True) ∧
    (on → fell → 250 ≤ low → low < 2000 →
      edge true false (!plugged) [⟨R.DP_LINK_STATUS n, 31, 0⟩, ⟨R.DP_HDCP_STATUS n, 31, 0⟩] fun t =>
        t.dev.fld ⟨R.DP_LINK_STATUS n, 5, 5⟩ = 1 ∧ t.dev.hpdLevel n = plugged ∧
        (lost → t.dev.fld (R.DP_LINK_STATUS_TRAINED n) = 0 ∧ t.dev.fld ⟨R.DP_LINK_STATUS n, 2, 2⟩ = 1 ∧
          (t.dev.link n).auth = .idle) ∧
        (¬ lost → t.dev.fld (R.DP_LINK_STATUS_TRAINED n) = s.dev.fld (R.DP_LINK_STATUS_TRAINED n)) ∧
        (¬ lost → sink.reauthReq = true → (s.dev.link n).auth = .session →
          (t.dev.link n).auth = .idle ∧ t.dev.fld (R.DP_HDCP_STATUS_FAIL n) = 11)) ∧
    (on → fell → 2000 ≤ low → ∃ t, exec (.hpdEdge n true us sink) s = .next t ∧ (t.dev.link n).hpdLow = false ∧
      (t.dev.link n).hpdRose = true ∧ t.dev.fld (R.DP_LINK_STATUS_HPD_LEVEL n) = 0 ∧
      t.dev.fld (R.DP_LINK_STATUS_TRAINED n) = 0 ∧ t.dev.fld ⟨R.DP_LINK_STATUS n, 4, 4⟩ = 1 ∧
      OnlyLink s t n [⟨R.DP_LINK_STATUS n, 31, 0⟩, ⟨R.DP_HDCP_STATUS n, 31, 0⟩, R.DP_TRAIN_RESULT_CODE n]) ∧
    (on → ¬ fell → ∃ t, exec (.hpdEdge n true us sink) s = .next t ∧ (t.dev.link n).hpdRose = true ∧
      (t.dev.link n).hpdLow = false ∧ t.dev.out = s.dev.out ∧ OnlyLink s t n []))

/-- The start and the stop of an HDCP authentication (R344, R347), in every state: it starts on a trained link with a
sink when both keys are programmed, from the revocation list then in force, and otherwise fails with code 9 or 1.
STOP_AUTH ends it without a failure. The timer starts it again after a failure where AUTO_REAUTH is 1, and
otherwise does nothing.

The end of an HDCP authentication (R344, R345, R347), in every state: with none under way nothing changes. A failure
keeps its code. One that passed shows the receiver, and opens the session with HDCP_DONE, unless the receiver or a
device below it is on the revocation list the authentication began with (code 3) or the limits are exceeded (code 7);
a repeater has then confirmed the first content stream type, which went out before or goes out now.

Content protection (R345, R347, R351), in every state: a confirmation settles the stream type that the link asked for;
a session whose stream is marked, or whose ENC_EN is 1, is encrypted; each shows in TYPE_OK which marks the link
meets. A System Renewability Message whose signature and version pass replaces the list and VERSION; any other sets
SRM_BAD and changes neither (what a message holds is left open: Config.srmOk, srmVersion and srmIds stand for it).

What a command of a block does is said of states in which that block can be used (log entry 8).

The model's readings and choices that it rests on: log entries 44, 46, 47 and 101. -/
def Obligations.ContentProtectionAndHdcp : Prop :=
  (∀ (s : State) (n : Fin 8), s.dev.blockHeld .DP = false →
    let up := s.dev.trained n = true ∧ s.dev.hpdLevel n = true
    let keys := bit s.dev.shadow.programmed 24 = true ∧ bit s.dev.shadow.programmed 25 = true
    let l := [R.DP_HDCP_STATUS_STATE n, R.DP_HDCP_STATUS_FAIL n, R.DP_HDCP_STATUS_TYPE_OK n,
        R.DP_LINK_STATUS_ENCRYPTING n]
    let idle := fun (c : Instr) (st fail : Nat) (more : List Fld) => ∃ t, exec c s = .next t ∧
        (t.dev.link n).auth = .idle ∧
      (t.dev.link n).confirmed = none ∧ (t.dev.link n).requested = none ∧ t.dev.fld (R.DP_HDCP_STATUS_STATE n) = st ∧
      t.dev.fld (R.DP_HDCP_STATUS_FAIL n) = fail ∧ t.dev.fld (R.DP_LINK_STATUS_ENCRYPTING n) = 0 ∧
      (st = 6 → t.dev.fld ⟨R.DP_LINK_STATUS n, 9, 9⟩ = 1) ∧ t.dev.out = s.dev.out ∧ OnlyLink s t n (l ++ more)
    let event := [⟨R.DP_LINK_STATUS n, 9, 9⟩, R.DP_LINK_STATUS_SEQ n]
    (up → keys → ∃ t, exec (.hdcpAuthStart n) s = .next t ∧ (t.dev.link n).auth = .running ∧
      (t.dev.link n).revoked = s.dev.srm ∧ (t.dev.link n).ske = none ∧ t.dev.fld (R.DP_HDCP_STATUS_STATE n) = 1 ∧
      t.dev.fld (R.DP_HDCP_STATUS_FAIL n) = 0 ∧ t.dev.fld (R.DP_LINK_STATUS_ENCRYPTING n) = 0 ∧ t.dev.out = s.dev.out ∧
      OnlyLink s t n l) ∧
    (¬ up → idle (.hdcpAuthStart n) 6 9 event) ∧
    (up → ¬ keys → idle (.hdcpAuthStart n) 6 1 event) ∧
    idle (.hdcpStopAuth n) 0 (s.dev.fld (R.DP_HDCP_STATUS_FAIL n)) [] ∧
    (s.dev.fld (R.DP_HDCP_CTRL_AUTO_REAUTH n) = 0 ∨ (s.dev.link n).reauth = false →
      exec (.hdcpReauthTimer n) s = .next s) ∧
    (s.dev.fld (R.DP_HDCP_CTRL_AUTO_REAUTH n) = 1 → (s.dev.link n).reauth = true →
      exec (.hdcpReauthTimer n) s = exec (.hdcpAuthStart n) s)) ∧
  (∀ (s : State) (n : Fin 8) (code : Fin 16) (rxid : BitVec 40) (rep h1 h20 many : Bool) (depth : Fin 8) (count : Fin 32)
      (ids : List (BitVec 40)), s.dev.blockHeld .DP = false →
    let passed := Instr.hdcpAuthEnd n (.passed rxid rep h1 h20 many depth count ids)
    let runs := (s.dev.link n).auth = .running
    let revoked := (rxid :: ids).any (fun i => (s.dev.link n).revoked.contains i.toNat) = true
    let ty := max (s.dev.fld (R.DP_HDCP_CTRL_TYPE n)) (s.dev.streamMark n - 1)
    let shown := [⟨R.DP_HDCP_RXID_LO n, 31, 0⟩, R.DP_HDCP_RXID_HI_RXID n, ⟨R.DP_HDCP_STATUS n, 31, 0⟩]
    let failed := fun (c : Instr) (code : Nat) (more : List Fld) => ∃ t, exec c s = .next t ∧
        (t.dev.link n).auth = .idle ∧
      t.dev.fld (R.DP_HDCP_STATUS_STATE n) = 6 ∧ t.dev.fld (R.DP_HDCP_STATUS_FAIL n) = code ∧
      t.dev.fld ⟨R.DP_LINK_STATUS n, 9, 9⟩ = 1 ∧ t.dev.fld (R.DP_LINK_STATUS_ENCRYPTING n) = 0 ∧ t.dev.out = s.dev.out ∧
      OnlyLink s t n ([R.DP_HDCP_STATUS_STATE n, R.DP_HDCP_STATUS_FAIL n, R.DP_HDCP_STATUS_TYPE_OK n,
        R.DP_LINK_STATUS_ENCRYPTING n, ⟨R.DP_LINK_STATUS n, 9, 9⟩, R.DP_LINK_STATUS_SEQ n] ++ more)
    (¬ runs → exec (.hdcpAuthEnd n (.failed code)) s = .next s ∧ exec passed s = .next s) ∧
    (runs → failed (.hdcpAuthEnd n (.failed code)) code []) ∧
    (runs → revoked → failed passed 3 shown) ∧
    (runs → ¬ revoked → many = true → failed passed 7 shown) ∧
    (runs → ∃ t, exec passed s = .next t ∧ t.dev.fld (R.DP_HDCP_RXID_LO_RXID n) = rxid.toNat % 2 ^ 32 ∧
      t.dev.fld (R.DP_HDCP_RXID_HI_RXID n) = rxid.toNat / 2 ^ 32 ∧ t.dev.fld (R.DP_HDCP_STATUS_DEVICE_COUNT n) = count ∧
      t.dev.fld (R.DP_HDCP_STATUS_DEPTH n) = depth ∧
      t.dev.fld (R.DP_HDCP_STATUS_FLAGS n) = b2n rep + 2 * b2n h1 + 4 * b2n h20 + 8 * b2n many) ∧
    (runs → ¬ revoked → many = false → ∃ t, exec passed s = .next t ∧ (t.dev.link n).auth = .session ∧
      (t.dev.link n).ske = some ((s.dev.link n).ske.getD s.dev.raw) ∧
      (t.dev.link n).confirmed = (if rep then some ((s.dev.link n).requested.getD ty) else none) ∧
      (t.dev.link n).requested = none ∧
      t.dev.out = s.dev.out ++ (if rep && (s.dev.link n).requested.isNone then [.streamManage n ty] else []) ∧
      t.dev.fld (R.DP_HDCP_STATUS_STATE n) = 5 ∧ t.dev.fld ⟨R.DP_LINK_STATUS n, 8, 8⟩ = 1 ∧
      OnlyLink s t n (shown ++ [⟨R.DP_LINK_STATUS n, 8, 8⟩, R.DP_LINK_STATUS_SEQ n]))) ∧
  (∀ (s : State) (n : Fin 8) (ty : Nat), s.dev.blockHeld .DP = false →
    let session := (s.dev.link n).auth = .session ∧ (s.dev.streamMark n ≠ 0 ∨ s.dev.fld (R.DP_HDCP_CTRL_ENC_EN n) = 1)
    let met := fun (t : State) => t.dev.fld (R.DP_HDCP_STATUS_TYPE_OK n) =
      (if t.dev.meets n 2 then 2 else if t.dev.meets n 1 then 1 else 0)
    let msg := s.dev.srmBytes
    let key := (List.range 7).flatMap (fun p => s.dev.shadow.page (0x100 + p))
    let ok := bit s.dev.shadow.programmed 24 = true ∧ Config.srmOk key msg = true ∧
      s.dev.fld R.DP0_SRM_CTRL_VERSION ≤ (Config.srmVersion msg).toNat
    ((s.dev.link n).requested = none → exec (.streamManageConfirmed n) s = .next s) ∧
    ((s.dev.link n).requested = some ty → ∃ t, exec (.streamManageConfirmed n) s = .next t ∧
      (t.dev.link n).confirmed = some ty ∧ (t.dev.link n).requested = none ∧ met t ∧ t.dev.out = s.dev.out ∧
      OnlyLink s t n [R.DP_HDCP_STATUS_TYPE_OK n]) ∧
    (session → ∃ t, exec (.encryptionEnable n) s = .next t ∧ t.dev.fld (R.DP_LINK_STATUS_ENCRYPTING n) = 1 ∧ met t ∧
      1 ≤ t.dev.fld (R.DP_HDCP_STATUS_TYPE_OK n) ∧
      OnlyFlds s t [R.DP_LINK_STATUS_ENCRYPTING n, R.DP_HDCP_STATUS_TYPE_OK n]) ∧
    (¬ session → exec (.encryptionEnable n) s = .next s) ∧
    (ok → ∃ t, exec .srmLoad s = .next t ∧ t.dev.srm = Config.srmIds msg ∧
      t.dev.fld R.DP0_SRM_CTRL_VERSION = (Config.srmVersion msg).toNat ∧ KeepsStore s t ∧
      s.dev.SameButRegs { t.dev with srm := s.dev.srm } ∧ KeepsFlds s t [R.DP0_SRM_CTRL_VERSION]) ∧
    (¬ ok → ∃ t, exec .srmLoad s = .next t ∧ t.dev.fld ⟨R.DP_LINK_STATUS 0, 11, 11⟩ = 1 ∧
      OnlyFlds s t [⟨R.DP_LINK_STATUS 0, 11, 11⟩, R.DP_LINK_STATUS_SEQ 0]))

/-! ### Block copy (chapter 11) -/

/-- The command queue of an engine (R353, R365, R366), in every state: GO in a configured unit with fewer than 16
commands takes slot TAIL and a ticket, and otherwise only sets SUBMIT_DROP. RESUME clears HALTED of an engine with
no active command, and does nothing with one. ABORT ends the active command and retires every queued one with
ABORTED, each counted, issues nothing that waits for a tag, and halts the engine.

What a command of a block does is said of states in which that block can be used (log entry 8).

The model's readings and choices that it rests on: log entries 10 and 49. -/
def Obligations.CopyQueue : Prop :=
  ∀ (s : State) (n : Fin 2), s.dev.blockHeld .BX = false →
    let count := s.dev.fld (R.BX_QUEUE_COUNT n)
    let free := s.dev.fld R.CH_LOAD_STATUS_CONFIGURED = 1 ∧ count < 16
    let active := (s.dev.bxe n).active
    let all := if active.isSome then max count 1 else count
    (free → ∃ t, exec (.bxSubmit n) s = .next t ∧ t.dev.fld (R.BX_QUEUE_COUNT n) = count + 1 ∧
      t.dev.fld (R.BX_QUEUE_TAIL n) = (s.dev.fld (R.BX_QUEUE_TAIL n) + 1) % 16 ∧
      t.dev.fld (R.BX_TICKET_SUBMITTED n) = (s.dev.fld (R.BX_TICKET_SUBMITTED n) + 1) % 2 ^ 16 ∧
      OnlyFlds s t [R.BX_QUEUE_COUNT n, R.BX_QUEUE_TAIL n, R.BX_TICKET_SUBMITTED n]) ∧
    (¬ free → ∃ t, exec (.bxSubmit n) s = .next t ∧ t.dev.fld ⟨R.BX_STATUS n, 2, 2⟩ = 1 ∧
      OnlyFlds s t [⟨R.BX_STATUS n, 2, 2⟩, R.BX_STATUS_SEQ n]) ∧
    (active = none → ∃ t, exec (.bxResume n) s = .next t ∧ t.dev.fld (R.BX_STATUS_HALTED n) = 0 ∧
      OnlyFlds s t [R.BX_STATUS_HALTED n]) ∧
    (active ≠ none → exec (.bxResume n) s = .next s) ∧
    (∃ t, exec (.bxAbort n) s = .next t ∧ (t.dev.bxe n).active = none ∧ t.dev.fld (R.BX_QUEUE_COUNT n) = 0 ∧
      t.dev.fld (R.BX_QUEUE_HEAD n) = s.dev.fld (R.BX_QUEUE_TAIL n) ∧ t.dev.fld (R.BX_STATUS_HALTED n) = 1 ∧
      t.dev.fld (R.BX_TICKET_RETIRED n) = (s.dev.fld (R.BX_TICKET_RETIRED n) + all) % 2 ^ 16 ∧
      t.dev.fld (R.BX_ERR_COUNT_COUNT n) = min (s.dev.fld (R.BX_ERR_COUNT_COUNT n) + all) (2 ^ 32 - 1) ∧
      t.dev.fld (R.BX_STATUS_BUSY n) = b2n (t.dev.fs.inflight.any fun i => Dev.bxOwns n none i.req.purpose) ∧
      (all ≠ 0 → t.dev.fld ⟨R.BX_STATUS n, 1, 1⟩ = 1 ∧
        (s.dev.fld ⟨R.BX_STATUS n, 1, 1⟩ = 0 → t.dev.fld (R.BX_ERR_CODE n) = 0x12)) ∧
      t.dev.fs = { s.dev.fs with waiting := s.dev.fs.waiting.filter (fun r => !Dev.bxOwns n none r.purpose) } ∧
      OnlyCopy s t n [⟨R.BX_STATUS n, 31, 0⟩, ⟨R.BX_QUEUE n, 31, 0⟩, ⟨R.BX_ERR n, 31, 0⟩, R.BX_TICKET_RETIRED n,
        R.BX_ERR_COUNT_COUNT n])

/-- A command starts (R354, R355, R359, R363), in every state, when one is queued, none is active and the engine is
neither paused nor halted nor in its safe state; otherwise nothing changes. It takes a copy of the slot HEAD and
the next ticket. When every start check passes it becomes active with its first row and issues that row's first
burst; the first check that fails retires it at once with its code and halts the engine.

The end of a command (R355, R364), in every state: with its last row written and no burst of it in flight or waiting,
it is retired; without an error it counts in CMD_COUNT and, where its IRQ is 1, sets DONE; with one it counts in
ERR_COUNT, sets ERROR and halts the engine. In any other state nothing changes.

What a command of a block does is said of states in which that block can be used (log entry 8).

The model's readings and choices that it rests on: log entry 49. -/
def Obligations.CopyCommands : Prop :=
  (∀ (s : State) (n : Fin 2), s.dev.blockHeld .BX = false →
    let can := s.dev.fld (R.BX_QUEUE_COUNT n) ≠ 0 ∧ (s.dev.bxe n).active = none ∧ s.dev.fld (R.BX_CTRL_PAUSE n) = 0 ∧
      s.dev.fld (R.BX_STATUS_HALTED n) = 0 ∧ s.dev.isSafe (Block.BX.base + n) = false
    let slot := s.dev.fld (R.BX_QUEUE_HEAD n)
    let c : BxCmd := ⟨(s.dev.bxe n).nextId, (List.range 32).map (fun k => (s.dev.get (R.BX_S_CMD n slot + 4 * k)).toNat),
      slot, (s.dev.fld (R.BX_TICKET_RETIRED n) + 1) % 2 ^ 16, 0, .reading, [], [], none⟩
    let first : BxCmd := match c.rowList with
      | [] => { c with phase := .writing }
      | v :: _ =>
        if c.fill then
          { c with phase := .writing, todo := c.writesOf (s.dev.clearingBase c.srcClr) (s.dev.clearingBase c.dstClr) v }
        else { c with todo := c.readsOf (s.dev.clearingBase c.srcClr) v }
    (¬ can → exec (.bxCmdStart n) s = .next s) ∧
    (can → s.dev.bxCheck c = 0 → ∃ t, exec (.bxCmdStart n) s = .next t ∧ s.dev.CopyIssues t.dev n first ∧
      t.dev.fld (R.BX_STATUS_BUSY n) = 1 ∧ t.dev.fld (R.BX_STATUS_PAUSED n) = 0 ∧
      (t.dev.bxe n).nextId = (s.dev.bxe n).nextId + 1 ∧
      (∀ a, slotOf a ≠ Block.CL.base → a ≠ R.BX_STATUS n → a ≠ R.BX_ERR_ADDR n → t.dev.get a = s.dev.get a) ∧
      OnlyCopy s { t with dev := { t.dev with regs := s.dev.regs } } n []) ∧
    (can → s.dev.bxCheck c ≠ 0 → ∃ t, exec (.bxCmdStart n) s = .next t ∧ (t.dev.bxe n).active = none ∧
      t.dev.fld (R.BX_STATUS_HALTED n) = 1 ∧ t.dev.fld ⟨R.BX_STATUS n, 1, 1⟩ = 1 ∧
      t.dev.fld (R.BX_TICKET_RETIRED n) = (s.dev.fld (R.BX_TICKET_RETIRED n) + 1) % 2 ^ 16 ∧
      t.dev.fld (R.BX_QUEUE_COUNT n) = s.dev.fld (R.BX_QUEUE_COUNT n) - 1 ∧
      t.dev.fld (R.BX_QUEUE_HEAD n) = (slot + 1) % 16 ∧
      t.dev.fld (R.BX_ERR_COUNT_COUNT n) = min (s.dev.fld (R.BX_ERR_COUNT_COUNT n) + 1) (2 ^ 32 - 1) ∧
      (s.dev.fld ⟨R.BX_STATUS n, 1, 1⟩ = 0 → t.dev.fld (R.BX_ERR_CODE n) = s.dev.bxCheck c ∧
        t.dev.fld (R.BX_ERR_SLOT n) = slot ∧ t.dev.fld (R.BX_ERR_TICKET n) = c.ticket % 256) ∧
      t.dev.fs = s.dev.fs ∧ OnlyCopy s t n [⟨R.BX_STATUS n, 31, 0⟩, ⟨R.BX_QUEUE n, 31, 0⟩, ⟨R.BX_ERR n, 31, 0⟩,
        R.BX_TICKET_RETIRED n, R.BX_ERR_COUNT_COUNT n])) ∧
  (∀ (s : State) (n : Fin 2) (c : BxCmd), s.dev.blockHeld .BX = false →
    let is := (s.dev.bxe n).active = some c
    let over' := c.todo = [] ∧ c.phase = .writing ∧ c.rowList.length ≤ c.rows + 1 ∧ s.dev.bxFlight n (some c.id) = false
    let e := c.code.getD 0
    ((s.dev.bxe n).active = none → exec (.bxCmdEnd n) s = .next s) ∧
    (is → ¬ over' → exec (.bxCmdEnd n) s = .next s) ∧
    (is → over' → ∃ t, exec (.bxCmdEnd n) s = .next t ∧ (t.dev.bxe n).active = none ∧
      t.dev.fld (R.BX_TICKET_RETIRED n) = (s.dev.fld (R.BX_TICKET_RETIRED n) + 1) % 2 ^ 16 ∧
      t.dev.fld (R.BX_QUEUE_COUNT n) = s.dev.fld (R.BX_QUEUE_COUNT n) - 1 ∧
      t.dev.fld (R.BX_QUEUE_HEAD n) = (s.dev.fld (R.BX_QUEUE_HEAD n) + 1) % 16 ∧
      (e = 0 → t.dev.fld (R.BX_CMD_COUNT_COUNT n) = min (s.dev.fld (R.BX_CMD_COUNT_COUNT n) + 1) (2 ^ 32 - 1) ∧
        t.dev.fld ⟨R.BX_STATUS n, 0, 0⟩ = (if c.irq then 1 else s.dev.fld ⟨R.BX_STATUS n, 0, 0⟩) ∧
        t.dev.fld (R.BX_ERR_COUNT_COUNT n) = s.dev.fld (R.BX_ERR_COUNT_COUNT n)) ∧
      (e ≠ 0 → t.dev.fld (R.BX_STATUS_HALTED n) = 1 ∧ t.dev.fld ⟨R.BX_STATUS n, 1, 1⟩ = 1 ∧
        t.dev.fld (R.BX_ERR_COUNT_COUNT n) = min (s.dev.fld (R.BX_ERR_COUNT_COUNT n) + 1) (2 ^ 32 - 1) ∧
        t.dev.fld (R.BX_CMD_COUNT_COUNT n) = s.dev.fld (R.BX_CMD_COUNT_COUNT n) ∧
        (s.dev.fld ⟨R.BX_STATUS n, 1, 1⟩ = 0 → t.dev.fld (R.BX_ERR_CODE n) = e % 256)) ∧
      t.dev.fs = s.dev.fs ∧ OnlyCopy s t n [⟨R.BX_STATUS n, 31, 0⟩, ⟨R.BX_QUEUE n, 31, 0⟩, ⟨R.BX_ERR n, 31, 0⟩,
        R.BX_TICKET_RETIRED n, R.BX_CMD_COUNT_COUNT n, R.BX_ERR_COUNT_COUNT n]))

/-- The bursts of a command (R359, R364), in every state: the next burst is issued; after a row's last write the next
row begins with its first burst. When every read of a row has completed, its writes follow, the first at once. In
any other state neither changes anything.

What a command of a block does is said of states in which that block can be used (log entry 8). -/
def Obligations.CopyBursts : Prop :=
  ∀ (s : State) (n : Fin 2) (c : BxCmd) (v : Nat), s.dev.blockHeld .BX = false →
    let is := (s.dev.bxe n).active = some c
    let src := s.dev.clearingBase c.srcClr
    let dst := s.dev.clearingBase c.dstClr
    let row : BxCmd := if c.fill then { c with rows := c.rows + 1, got := [], todo := c.writesOf src dst v }
      else { c with rows := c.rows + 1, got := [], phase := .reading, todo := c.readsOf src v }
    let last := c.phase = .writing ∧ c.todo = []
    let all := c.phase = .reading ∧ c.todo = [] ∧ s.dev.bxFlight n (some c.id) = false
    let issues := fun (cmd : Instr) (c : BxCmd) => ∃ t, exec cmd s = .next t ∧ s.dev.CopyIssues t.dev n c ∧
      (c.todo ≠ [] → t.dev.fld (R.BX_STATUS_BUSY n) = 1) ∧
      (∀ a, slotOf a ≠ Block.CL.base → a ≠ R.BX_STATUS n → a ≠ R.BX_ERR_ADDR n → t.dev.get a = s.dev.get a) ∧
      OnlyCopy s { t with dev := { t.dev with regs := s.dev.regs } } n []
    ((s.dev.bxe n).active = none → exec (.bxBurstIssue n) s = .next s ∧ exec (.bxRowReadsDone n) s = .next s) ∧
    (is → c.todo ≠ [] → issues (.bxBurstIssue n) c) ∧
    (is → last → c.rowList[c.rows + 1]? = some v → issues (.bxBurstIssue n) row) ∧
    (is → c.todo = [] → ¬ last ∨ c.rowList[c.rows + 1]? = none → exec (.bxBurstIssue n) s = .next s) ∧
    (is → all → c.rowList[c.rows]? = some v →
      issues (.bxRowReadsDone n) { c with phase := .writing, todo := c.writesOf src dst v }) ∧
    (is → ¬ all ∨ c.rowList[c.rows]? = none → exec (.bxRowReadsDone n) s = .next s)

/-! ### Cartridge ports, assets and keys (chapter 12) -/

/-- The states of a port (R373, R375, R378), in every state: EN takes a port that is OFF to LINK; EN cleared takes it
to OFF, from READY through SHUTDOWN, where its jobs are to end with PORT; RESTART brings a port in UNSUPPORTED or
ERROR to INIT again; the link coming up at a rate and width that a port has takes LINK to INIT with LINK_UP, at no
more than MAX_GEN. The link going down takes every state that has one to LINK, or to OFF where EN is 0, with
LINK_DOWN, and ends the jobs of a READY port with PORT; a bring-up that does not end in time takes INIT to ERROR
with FATAL; the end of a shutdown leads to OFF, or to LINK where EN is 1 again; a receiver that is not found
leaves the port as it is. In every other state they do nothing but store EN.

Bring-up (R376, R377), in every state of a port in INIT: a step that succeeds leads to the next, whose admin command
goes out. A controller without the interface asked for, or with pages too large, and a namespace that is absent or not
plain, make the port UNSUPPORTED with the first REASON that holds; Identify gives the largest read, NSZE and the block
size; the last log page fills the RX registers and makes the port READY. A failed step is an ERROR with FATAL,
captured where it is an admin command. A reply that the step does not await, and one to a port that is neither in INIT
nor READY, changes nothing.

What a command of a block does is said of states in which that block can be used (log entry 8).

The model's readings and choices that it rests on: log entries 50 and 95. -/
def Obligations.PortBringUpAndStates : Prop :=
  (∀ (s : State) (n : Fin 4) (gen : Fin 8) (width : Fin 32), s.dev.blockHeld .CP = false →
    let st := s.dev.cpState n
    let en := R.CP_CTRL_EN n
    let link := [R.CP_STATE_STATE n, R.CP_STATE_WIDTH n, R.CP_STATE_GEN n]
    let fits := 1 ≤ gen.val ∧ gen.val ≤ 4 ∧ width.val ∈ [1, 2, 4]
    let enters := fun (t : State) (st : Nat) => t.dev.cpState n = st ∧ (t.dev.cpOf n).reads = [] ∧
      (t.dev.cpOf n).refreshing = false ∧ (st = 0 ∨ st = 1 → t.dev.fld (R.CP_STATE_WIDTH n) = 0 ∧
         t.dev.fld (R.CP_STATE_GEN n) = 0)
    let quiet := fun (t : State) => t.dev.streamer = s.dev.streamer ∧ t.dev.out = s.dev.out
    (st = 0 → ∃ t, exec (.cpEnableWrite n true) s = .next t ∧ t.dev.fld en = 1 ∧ enters t 1 ∧ quiet t ∧
      OnlyPort s t n (en :: link)) ∧
    (st ≠ 0 → ∃ t, exec (.cpEnableWrite n true) s = .next t ∧ t.dev.fld en = 1 ∧ OnlyFlds s t [en]) ∧
    (st = 3 → ∃ t, exec (.cpEnableWrite n false) s = .next t ∧ t.dev.fld en = 0 ∧ enters t 6 ∧ s.dev.CallsJobs t.dev n 1 ∧
      t.dev.out = s.dev.out ∧ OnlyPort s t n [en, R.CP_STATE_STATE n]) ∧
    (st = 6 → ∃ t, exec (.cpEnableWrite n false) s = .next t ∧ t.dev.fld en = 0 ∧ OnlyFlds s t [en]) ∧
    (st ≠ 3 → st ≠ 6 → ∃ t, exec (.cpEnableWrite n false) s = .next t ∧ t.dev.fld en = 0 ∧ enters t 0 ∧ quiet t ∧
      OnlyPort s t n (en :: link)) ∧
    (st = 4 ∨ st = 5 → ∃ t, exec (.cpRestart n) s = .next t ∧ enters t 2 ∧ (t.dev.cpOf n).step = 1 ∧
      t.dev.fld (R.CP_STATE_REASON n) = 0 ∧ quiet t ∧ OnlyPort s t n [R.CP_STATE_STATE n, R.CP_STATE_REASON n]) ∧
    (st ≠ 4 → st ≠ 5 → exec (.cpRestart n) s = .next s) ∧
    (st = 1 → fits → ∃ t, exec (.linkUp n gen width) s = .next t ∧ enters t 2 ∧ (t.dev.cpOf n).step = 1 ∧
      t.dev.fld (R.CP_STATE_GEN n) = min gen.val (s.dev.fld (R.CP_CTRL_MAX_GEN n) + 1) ∧
      t.dev.fld (R.CP_STATE_WIDTH n) = width ∧ t.dev.fld ⟨R.CP_STATUS n, 0, 0⟩ = 1 ∧ quiet t ∧
      OnlyPort s t n (link ++ [R.CP_STATE_REASON n, ⟨R.CP_STATUS n, 0, 0⟩, R.CP_STATUS_SEQ n])) ∧
    (st ≠ 1 ∨ ¬ fits → exec (.linkUp n gen width) s = .next s) ∧
    (2 ≤ st → ∃ t, exec (.linkDown n) s = .next t ∧ enters t (s.dev.fld en) ∧ t.dev.fld ⟨R.CP_STATUS n, 1, 1⟩ = 1 ∧
      (st = 3 → s.dev.CallsJobs t.dev n 1) ∧ (st ≠ 3 → t.dev.streamer = s.dev.streamer) ∧ t.dev.out = s.dev.out ∧
      OnlyPort s t n (link ++ [⟨R.CP_STATUS n, 1, 1⟩, R.CP_STATUS_SEQ n])) ∧
    (st < 2 → exec (.linkDown n) s = .next s) ∧
    exec (.cpDetectRetry n) s = .next s ∧
    (st = 2 → ∃ t, exec (.cpInitTimeout n) s = .next t ∧ enters t 5 ∧ t.dev.fld ⟨R.CP_STATUS n, 3, 3⟩ = 1 ∧ quiet t ∧
      OnlyPort s t n [R.CP_STATE_STATE n, ⟨R.CP_STATUS n, 3, 3⟩, R.CP_STATUS_SEQ n]) ∧
    (st ≠ 2 → exec (.cpInitTimeout n) s = .next s) ∧
    (st = 6 → ∃ t, exec (.cpShutdownDone n) s = .next t ∧ enters t (s.dev.fld en) ∧ quiet t ∧ OnlyPort s t n link) ∧
    (st ≠ 6 → exec (.cpShutdownDone n) s = .next s)) ∧
  (∀ (s : State) (n : Fin 4) (r : CpReply) (cc : BitVec 24) (nvm prot : Bool) (mps : Fin 16) (mqes : BitVec 16)
      (nsze : BitVec 64) (lbads mdts sc : BitVec 8) (md : BitVec 16) (sct : BitVec 3) (bytes : List Byte),
    s.dev.blockHeld .CP = false →
    let init := s.dev.cpState n = 2
    let k := (s.dev.cpOf n).step
    let awaited := match k, r with
      | 1, .caps .. => true | 5, .controller .. => true | 6, .namespaceInfo .. => true | 10, .log _ => true
      | 11, .log _ => true | _, .failed .. => true | k, .done => [2, 3, 4, 7, 8, 9].contains k | _, _ => false
    let state := R.CP_STATE_STATE n
    let reason := R.CP_STATE_REASON n
    let goes := fun (t : State) (k : Nat) (sent : List OutMsg) => t.dev.cpState n = 2 ∧ (t.dev.cpOf n).step = k ∧
      t.dev.out = s.dev.out ++ sent ∧ t.dev.fld reason = s.dev.fld reason
    let not' := fun (t : State) (why : Nat) => t.dev.cpState n = 4 ∧ t.dev.fld reason = why ∧ t.dev.out = s.dev.out
    (s.dev.cpState n ≠ 3 → ¬ init ∨ awaited = false → exec (.cpInitStepDone n r) s = .next s) ∧
    (init → k ∈ [2, 3, 4, 7, 8, 9] → ∃ t, exec (.cpInitStepDone n .done) s = .next t ∧
      goes t (k + 1) (match k with
        | 4 => [.nvmeAdmin n 0x06 1] | 7 => [.nvmeAdmin n 0x05 1] | 8 => [.nvmeAdmin n 0x01 1]
        | 9 => [.nvmeAdmin n 0x02 1] | _ => []) ∧ OnlyPort s t n []) ∧
    (init → k = 1 → ∃ t, exec (.cpInitStepDone n (.caps cc nvm mps mqes)) s = .next t ∧
      t.dev.fld (R.CP_STATE_QDEPTH n) = min 64 (mqes.toNat + 1) ∧
      (if cc ≠ 0x010802 then not' t 1 else if nvm = false ∨ mps ≠ 0 then not' t 2 else goes t 2 []) ∧
      OnlyPort s t n [state, reason, R.CP_STATE_QDEPTH n]) ∧
    (init → k = 5 → ∃ t, exec (.cpInitStepDone n (.controller mdts bytes)) s = .next t ∧
      goes t 6 [.nvmeAdmin n 0x06 0] ∧
      t.dev.fld (R.CP_INFO_MAX_READ_KIB n) = (if mdts = 0 then 128 else min 128 (4 * 2 ^ min mdts.toNat 8)) ∧
      (∀ k < 64, t.dev.getRx (Block.CP.base + n) (0x400 + 4 * k) = BitVec.ofNat 32 (field bytes (4 * k) 4)) ∧
      OnlyPort s { t with dev := { t.dev with rx := s.dev.rx } } n [R.CP_INFO_MAX_READ_KIB n]) ∧
    (init → k = 6 → ∃ t, exec (.cpInitStepDone n (.namespaceInfo nsze lbads md prot)) s = .next t ∧
      t.dev.get64 (R.CP_NSZE n 0) (R.CP_NSZE n 1) = nsze.toNat ∧
      (if nsze = 0 then not' t 3 else if lbads ≠ 9 ∧ lbads ≠ 12 then not' t 4 else if md ≠ 0 ∨ prot then not' t 5
        else goes t 7 [.nvmeAdmin n 0x09 7] ∧ t.dev.fld (R.CP_INFO_LBA_SHIFT n) = lbads.toNat) ∧
      OnlyPort s t n [state, reason, R.CP_NSZE_NSZE n 0, R.CP_NSZE_NSZE n 1, R.CP_INFO_LBA_SHIFT n]) ∧
    (init → k = 10 → ∃ t, exec (.cpInitStepDone n (.log bytes)) s = .next t ∧ goes t 11 [.nvmeAdmin n 0x02 2] ∧
      (∀ k < 16, t.dev.getRx (Block.CP.base + n) (0x200 + 4 * k) = BitVec.ofNat 32 (field bytes (4 * k) 4)) ∧
      OnlyPort s { t with dev := { t.dev with rx := s.dev.rx } } n []) ∧
    (init → k = 11 → ∃ t, exec (.cpInitStepDone n (.log bytes)) s = .next t ∧ t.dev.cpState n = 3 ∧
      t.dev.fld ⟨R.CP_STATUS n, 2, 2⟩ = 1 ∧
      (∀ k < 128, t.dev.getRx (Block.CP.base + n) (4 * k) = BitVec.ofNat 32 (field bytes (4 * k) 4)) ∧
      ((∀ l < 4, (s.dev.lane l).job = none) → t.dev.out = s.dev.out ∧
        OnlyPort s { t with dev := { t.dev with rx := s.dev.rx } } n [state, ⟨R.CP_STATUS n, 2, 2⟩, R.CP_STATUS_SEQ n])) ∧
    (init → ∃ t, exec (.cpInitStepDone n (.failed sct sc)) s = .next t ∧ t.dev.cpState n = 5 ∧
      t.dev.fld ⟨R.CP_STATUS n, 3, 3⟩ = 1 ∧ (5 ≤ k → t.dev.fld (R.CP_ERR_ADMIN n) = 1 ∧
        t.dev.fld (R.CP_ERR_SCT n) = sct.toNat ∧ t.dev.fld (R.CP_ERR_SC n) = sc.toNat ∧
        t.dev.fld (R.CP_CMD_ERR_COUNT_COUNT n) = min (s.dev.fld (R.CP_CMD_ERR_COUNT_COUNT n) + 1) (2 ^ 32 - 1)) ∧
      (k < 5 → OnlyPort s t n [state, ⟨R.CP_STATUS n, 3, 3⟩, R.CP_STATUS_SEQ n]) ∧
      OnlyPort s t n [state, ⟨R.CP_STATUS n, 31, 0⟩, ⟨R.CP_ERR n, 31, 0⟩, R.CP_CMD_ERR_COUNT_COUNT n]))

/-- A port in READY (R376, R378, R402). LOG_REFRESH sends one Get Log Page where none is under way; its page fills the
RX registers, its failure is an ERROR with FATAL that ends the jobs with PORT. A Read that succeeds counts its
bytes and gives them to its lane, unless the lane's job then ends for want of room in the namespace; one that
fails raises CMD_ERR, captures the status and the error entry, and calls for the end of its job with READ; a
completion that no outstanding Read has does nothing. A command that does not end in time takes the port to INIT
with TIMEOUT, and a fatal status takes it to ERROR with FATAL; its jobs are to end with TIMEOUT or PORT. In
another state none of these does anything.

What a command of a block does is said of states in which that block can be used (log entry 8). -/
def Obligations.PortReadsAndFaults : Prop :=
  ∀ (s : State) (n : Fin 4) (cid : Nat) (c : CpCommand) (r : CpRead) (sct : BitVec 3) (sc : BitVec 8) (bytes : List Byte),
    s.dev.blockHeld .CP = false →
    let ready := s.dev.cpState n = 3
    let busy := (s.dev.cpOf n).refreshing = true
    let found := (s.dev.cpOf n).reads.find? (·.cid == cid) = some c
    let okay := r.sct = 0 ∧ r.sc = 0
    let len := c.blocks <<< s.dev.fld (R.CP_INFO_LBA_SHIFT n)
    let data := r.bytes.take len ++ List.replicate (len - r.bytes.length) 0
    let captured := fun (t : State) (admin : Nat) (sct : BitVec 3) (sc : BitVec 8) => t.dev.fld (R.CP_ERR_OPC n) = 2 ∧
      t.dev.fld (R.CP_ERR_ADMIN n) = admin ∧ t.dev.fld (R.CP_ERR_SCT n) = sct.toNat ∧
          t.dev.fld (R.CP_ERR_SC n) = sc.toNat ∧
      t.dev.fld (R.CP_CMD_ERR_COUNT_COUNT n) = min (s.dev.fld (R.CP_CMD_ERR_COUNT_COUNT n) + 1) (2 ^ 32 - 1)
    let err := [⟨R.CP_STATUS n, 31, 0⟩, ⟨R.CP_ERR n, 31, 0⟩, R.CP_CMD_ERR_COUNT_COUNT n]
    (ready → ¬ busy → ∃ t, exec (.logRefresh n) s = .next t ∧ (t.dev.cpOf n).refreshing = true ∧
      t.dev.out = s.dev.out ++ [.nvmeAdmin n 0x02 2] ∧ OnlyPort s t n []) ∧
    (¬ ready ∨ busy → exec (.logRefresh n) s = .next s) ∧
    (ready → busy → ∃ t, exec (.cpInitStepDone n (.log bytes)) s = .next t ∧ t.dev.cpState n = 3 ∧
      (t.dev.cpOf n).refreshing = false ∧
      (∀ k < 128, t.dev.getRx (Block.CP.base + n) (4 * k) = BitVec.ofNat 32 (field bytes (4 * k) 4)) ∧
      ((∀ l < 4, (s.dev.lane l).job = none) → OnlyPort s { t with dev := { t.dev with rx := s.dev.rx } } n [])) ∧
    (ready → busy → ∃ t, exec (.cpInitStepDone n (.failed sct sc)) s = .next t ∧ t.dev.cpState n = 5 ∧
      t.dev.fld ⟨R.CP_STATUS n, 3, 3⟩ = 1 ∧ captured t 1 sct sc ∧ s.dev.CallsJobs t.dev n 1 ∧
      OnlyPort s t n (R.CP_STATE_STATE n :: err)) ∧
    ((s.dev.cpOf n).reads.find? (·.cid == cid) = none → exec (.cpReadCompletion n cid r) s = .next s) ∧
    (found → okay → ∃ t, exec (.cpReadCompletion n cid r) s = .next t ∧
      t.dev.get64 (R.CP_READ_BYTES n 0) (R.CP_READ_BYTES n 1) =
        min (s.dev.get64 (R.CP_READ_BYTES n 0) (R.CP_READ_BYTES n 1) + len) (2 ^ 64 - 1) ∧
      (c.job < 8 → c.lane < 4 → (t.dev.lane c.lane).job = none ∨
        ((t.dev.lane c.lane).bytes = (s.dev.lane c.lane).bytes ++
            (match c.purpose with | .manifest o => [(o, data)] | _ => []) ∧
          (t.dev.lane c.lane).data = (s.dev.lane c.lane).data ++
            (match c.purpose with | .chunk k o => [(k, o, data)] | _ => []))) ∧
      ((∀ l < 4, (s.dev.lane l).job = none) → (t.dev.cpOf n).reads = (s.dev.cpOf n).reads.filter (·.cid != cid) ∧
        OnlyPort s t n [R.CP_READ_BYTES_COUNT n 0, R.CP_READ_BYTES_COUNT n 1, ⟨R.CP_STATUS n, 31, 0⟩]) ∧
      KeepsStore s t) ∧
    (found → ¬ okay → ∃ t, exec (.cpReadCompletion n cid r) s = .next t ∧ captured t 0 r.sct r.sc ∧
      t.dev.fld ⟨R.CP_STATUS n, 5, 5⟩ = 1 ∧ t.dev.cpState n = s.dev.cpState n ∧
      (∀ k < 16, t.dev.getRx (Block.CP.base + n) (0x200 + 4 * k) = BitVec.ofNat 32 (field r.errorEntry (4 * k) 4)) ∧
      (c.job < 8 → c.lane < 4 → (t.dev.lane c.lane).ending = some ((s.dev.lane c.lane).ending.getD 2)) ∧
      ((∀ l < 4, (s.dev.lane l).job = none) → (t.dev.cpOf n).reads = (s.dev.cpOf n).reads.filter (·.cid != cid) ∧
        OnlyPort s { t with dev := { t.dev with rx := s.dev.rx } } n err) ∧ KeepsStore s t) ∧
    (ready → (s.dev.cpOf n).reads ≠ [] ∨ busy → ∃ t, exec (.cpCmdTimeout n) s = .next t ∧ t.dev.cpState n = 2 ∧
      (t.dev.cpOf n).reads = [] ∧ (t.dev.cpOf n).step = 1 ∧ t.dev.fld ⟨R.CP_STATUS n, 4, 4⟩ = 1 ∧
      t.dev.fld (R.CP_TIMEOUT_COUNT_COUNT n) = min (s.dev.fld (R.CP_TIMEOUT_COUNT_COUNT n) + 1) (2 ^ 32 - 1) ∧
      s.dev.CallsJobs t.dev n 3 ∧ t.dev.out = s.dev.out ∧ OnlyPort s t n [R.CP_STATE_STATE n, R.CP_STATE_REASON n,
        R.CP_TIMEOUT_COUNT_COUNT n, ⟨R.CP_STATUS n, 31, 0⟩]) ∧
    (¬ ready ∨ ((s.dev.cpOf n).reads = [] ∧ ¬ busy) → exec (.cpCmdTimeout n) s = .next s) ∧
    (ready → ∃ t, exec (.cpFatal n) s = .next t ∧ t.dev.cpState n = 5 ∧ (t.dev.cpOf n).reads = [] ∧
      t.dev.fld ⟨R.CP_STATUS n, 3, 3⟩ = 1 ∧ s.dev.CallsJobs t.dev n 1 ∧ t.dev.out = s.dev.out ∧
      OnlyPort s t n [R.CP_STATE_STATE n, ⟨R.CP_STATUS n, 3, 3⟩, R.CP_STATUS_SEQ n]) ∧
    (¬ ready → exec (.cpFatal n) s = .next s)

/-- Jobs of the asset streamer (R387 to R389, R400, R404, R405), in every state. GO queues a job that is not queued or
running in a configured unit, and otherwise only sets GO_DROP. ABORT of a queued job ends it with ABORTED; one of
a running job calls for its end, unless its last write is done; of another it does nothing. The oldest queued job
takes the lowest free lane; it ends at once with SAFE or with PORT where the streamer or its port cannot serve it,
or with RANGE where its manifest lies past the namespace, and otherwise runs. A job whose last write has completed
ends in DONE, one whose end is called for ends with its code once its chunks have finished; otherwise the end does
nothing. The lane zeroes its buffers before it is free.

What a command of a block does is said of states in which that block can be used (log entry 8).

The model's readings and choices that it rests on: log entries 51 and 94. -/
def Obligations.AssetJobs : Prop :=
  ∀ (s : State) (k : Fin 8) (l : Fin 4) (rest : List Nat) (code : Nat), s.dev.blockHeld .AS = false →
    let can := s.dev.configured = true ∧ s.dev.jobState k ∈ [0, 5, 6]
    let queued := k.val ∈ s.dev.streamer.queue
    let runs := s.dev.laneOf k = some l.val
    let p := s.dev.fld (R.AS_JOB_CTRL_PORT k)
    let lba := s.dev.fld (R.AS_JOB_LBA_LO_LBA k) + s.dev.fld (R.AS_JOB_LBA_HI_LBA k) * 2 ^ 32
    let free := fun (x : Nat) => (s.dev.lane x).job = none ∧ (s.dev.lane x).zeroing = false
    let takes := s.dev.streamer.queue = k.val :: rest ∧ free l ∧ ∀ x < 4, x < l.val → ¬ free x
    let dead := s.dev.isSafe Block.AS.base = true ∨ s.dev.cpState p ≠ 3 ∨ s.dev.isSafe (Block.CP.base + p) = true
    let finished := s.dev.drained l = true
    let called := (s.dev.lane l).ending = some code ∧ (s.dev.lane l).decoding = none ∧ s.dev.laneWrites l none = false
    let result := [R.AS_JOB_RESULT_STATE k, R.AS_JOB_RESULT_CODE k, ⟨R.AS_STATUS, 31, 0⟩, R.AS_JOBS_OK_COUNT,
        R.AS_JOBS_ERR_COUNT]
    let ended := fun (t : State) (code : Nat) => t.dev.jobState k = 6 ∧ t.dev.fld (R.AS_JOB_RESULT_CODE k) = code % 256 ∧
      t.dev.fld ⟨R.AS_STATUS, 1, 1⟩ = 1 ∧
      t.dev.fld R.AS_JOBS_ERR_COUNT = min (s.dev.fld R.AS_JOBS_ERR_COUNT + 1) (2 ^ 32 - 1)
    let zeroes := fun (t : State) => (t.dev.lane l).job = none ∧ (t.dev.lane l).zeroing = true ∧
      t.dev.fld ⟨R.AS_STATUS, 16 + l, 16 + l⟩ = 1
    (can → ∃ t, exec (.asJobGo k) s = .next t ∧ t.dev.jobState k = 1 ∧
      t.dev.streamer = { s.dev.streamer with queue := s.dev.streamer.queue ++ [k.val] } ∧
      t.dev.fld (R.AS_JOB_RESULT_CODE k) = 0 ∧ t.dev.fld (R.AS_JOB_OUT_BYTES_COUNT k) = 0 ∧
      OnlyStreamer s t [R.AS_JOB_RESULT_STATE k, R.AS_JOB_RESULT_CODE k, R.AS_JOB_OUT_BYTES_COUNT k,
        R.AS_JOB_PROGRESS_ENTRY k, R.AS_JOB_PROGRESS_CHUNK k]) ∧
    (¬ can → ∃ t, exec (.asJobGo k) s = .next t ∧ t.dev.fld ⟨R.AS_STATUS, 2, 2⟩ = 1 ∧
      OnlyFlds s t [⟨R.AS_STATUS, 2, 2⟩, R.AS_STATUS_SEQ]) ∧
    (queued → ∃ t, exec (.asJobAbort k) s = .next t ∧ ended t 0x24 ∧
      t.dev.streamer = { s.dev.streamer with queue := s.dev.streamer.queue.erase k.val } ∧ OnlyStreamer s t result) ∧
    (¬ queued → s.dev.laneOf k = none ∨ (runs ∧ finished) → exec (.asJobAbort k) s = .next s) ∧
    (¬ queued → runs → ¬ finished → ∃ t, exec (.asJobAbort k) s = .next t ∧ (t.dev.lane l).job = some k.val ∧
      (t.dev.lane l).ending = some ((s.dev.lane l).ending.getD 0x24) ∧ (t.dev.lane l).decoding = none ∧
      OnlyStreamer s t []) ∧
    (s.dev.streamer.queue = [] ∨ (∀ x < 4, ¬ free x) → exec .asJobStart s = .next s) ∧
    (takes → dead → ∃ t, exec .asJobStart s = .next t ∧ t.dev.streamer.queue = rest ∧ zeroes t ∧
      t.dev.fld (R.AS_JOB_RESULT_LANE k) = l ∧ ended t (if s.dev.isSafe Block.AS.base then 0x25 else 1) ∧
      OnlyStreamer s t (R.AS_JOB_RESULT_LANE k :: result)) ∧
    (takes → ¬ dead → ∃ t, exec .asJobStart s = .next t ∧ t.dev.streamer.queue = rest ∧
      t.dev.fld (R.AS_JOB_RESULT_LANE k) = l ∧ t.dev.fld ⟨R.AS_STATUS, 16 + l, 16 + l⟩ = 1 ∧ KeepsStore s t ∧
      ((t.dev.jobState k = 2 ∧ (t.dev.lane l).job = some k.val ∧ (t.dev.lane l).port = p ∧ (t.dev.lane l).lba = lba) ∨
        (s.dev.get64 (R.CP_NSZE p 0) (R.CP_NSZE p 1) < lba + 4096 ∧ t.dev.jobState k = 6 ∧
          t.dev.fld (R.AS_JOB_RESULT_CODE k) = 4))) ∧
    ((s.dev.lane l).job = some k.val → finished → ∃ t, exec (.asJobEnd l) s = .next t ∧ t.dev.jobState k = 5 ∧
      t.dev.fld (R.AS_JOB_RESULT_CODE k) = 0 ∧ zeroes t ∧
      t.dev.fld R.AS_JOBS_OK_COUNT = min (s.dev.fld R.AS_JOBS_OK_COUNT + 1) (2 ^ 32 - 1) ∧
      t.dev.fld ⟨R.AS_STATUS, 0, 0⟩ =
        (if s.dev.fld (R.AS_JOB_CTRL_IRQ k) = 1 then 1 else s.dev.fld ⟨R.AS_STATUS, 0, 0⟩) ∧ OnlyStreamer s t result) ∧
    ((s.dev.lane l).job = some k.val → ¬ finished → called → ∃ t, exec (.asJobEnd l) s = .next t ∧ ended t code ∧
       zeroes t ∧
      OnlyStreamer s t result) ∧
    ((s.dev.lane l).job = none ∨ (¬ finished ∧ ((s.dev.lane l).ending = none ∨ (s.dev.lane l).decoding ≠ none ∨
      s.dev.laneWrites l none = true)) → exec (.asJobEnd l) s = .next s) ∧
    (∃ t, exec (.asLaneZeroed l) s = .next t ∧ (t.dev.lane l).zeroing = false ∧ (t.dev.lane l).job = (s.dev.lane l).job ∧
      t.dev.fld ⟨R.AS_STATUS, 16 + l, 16 + l⟩ = b2n (s.dev.lane l).job.isSome ∧ OnlyStreamer s t [R.AS_STATUS_LANE_BUSY])

/-- Manifests and chunks (R384 to R386, R388, R390, R391, R398), in every state, for a lane that alone has a job. The
check of a whole manifest moves the job on to its chunks, or ends it with the code and entry of the first failure.
The next chunk is reaped when all its bytes are there, no chunk is in decode, no end is called for and the pacing
gate is open. A chunk in decode whose tag does not verify ends the job with TAG, counted in TAG_FAIL; one whose
output does not decode, or is not as long as its record says, ends it with ZSTD or OUT_LEN; the output of a good
one goes out as its writes, each in flight or waiting for a tag, unless its first one is refused, which ends the
job with REFUSED. Otherwise each does nothing.

What a command of a block does is said of states in which that block can be used (log entry 8).

The model's readings and choices that it rests on: log entries 13, 51 and 94. -/
def Obligations.AssetManifestsAndChunks : Prop :=
  ∀ (s : State) (l : Fin 4) (k : Fin 8) (m : Manifest) (c i : Nat) (r : Chunk) (e : Entry) (plain bytes : List Byte),
    s.dev.blockHeld .AS = false →
    (s.dev.lane l).job = some k.val → (∀ x < 4, x ≠ l.val → (s.dev.lane x).job = none) →
    let lane := s.dev.lane l
    let b := s.dev.manifestBytes l
    let whole := s.dev.jobState k = 2 ∧ lane.ending = none ∧ s.dev.manifestNeed l ≤ b.length
    let chunk := lane.manifest = some m ∧ m.chunks[c]? = some r ∧ Dev.entryOf m c = some (i, e)
    let here := ((lane.data.filter (·.1 == c)).map (·.2.2.length)).sum
    let reaps := lane.ending = none ∧ lane.decoding = none ∧ r.ctLen ≤ here ∧
      s.dev.gateOpen (Dev.halfOfAddr e.outOff) r = true
    let plains := (if c = e.first then [] else lane.plain) ++ [plain]
    let out := if e.compressed then zstdOutput e.windowLog plains (c + 1 == e.first + e.span) else some plain
    let before := ((List.range (c - e.first)).map (fun j => ((m.chunks[e.first + j]?).map (·.outLen)).getD 0)).sum
    let writes := writeRequests (.as (Fin.ofNat 16 m.owner)) (e.outOff + before) bytes (.asWrite l k c)
    let passes := fun (q : Request) => s.dev.refusal q = none ∧ s.dev.isSafe (Block.FS.base + stackOf q.addr) = false
    let decrypted := Dev.chunkPlain m lane c r = some plain
    let ended := fun (cmd : Instr) (code : Nat) (more : List Fld) => ∃ t, exec cmd s = .next t ∧ t.dev.jobState k = 6 ∧
      t.dev.fld (R.AS_JOB_RESULT_CODE k) = code % 256 ∧ (t.dev.lane l).job = none ∧
      OnlyStreamer s t ([R.AS_JOB_RESULT_STATE k, R.AS_JOB_RESULT_CODE k, ⟨R.AS_STATUS, 31, 0⟩,
          R.AS_JOBS_ERR_COUNT] ++ more)
    (¬ whole → exec (.asManifestChecked l) s = .next s) ∧
    (∀ x, whole → s.dev.checkManifest k b = .error x →
      ended (.asManifestChecked l) x.1 [R.AS_JOB_ID_LO_BUNDLE_ID k, R.AS_JOB_ID_HI_BUNDLE_ID k, R.AS_JOB_RESULT_OWNER k,
        R.AS_JOB_PROGRESS_ENTRY k] ∧
      ∃ t, exec (.asManifestChecked l) s = .next t ∧ t.dev.fld (R.AS_JOB_PROGRESS_ENTRY k) = x.2 % 256 ∧
        t.dev.fld (R.AS_JOB_RESULT_OWNER k) = field b 0x0D 1 % 16) ∧
    (∀ x, whole → s.dev.checkManifest k b = .ok x → ∃ t, exec (.asManifestChecked l) s = .next t ∧
      t.dev.fld (R.AS_JOB_RESULT_OWNER k) = field b 0x0D 1 % 16 ∧ KeepsStore s t ∧
      ((t.dev.lane l).job = some k.val → t.dev.jobState k = 3 ∧ (t.dev.lane l).manifest = some x) ∧
      ((t.dev.lane l).job ≠ some k.val → t.dev.jobState k = 6 ∧ t.dev.fld (R.AS_JOB_RESULT_CODE k) = 4)) ∧
    (chunk → c = lane.nextReap → reaps → ∃ t, exec (.asChunkReap l) s = .next t ∧
      t.dev.lane l = { lane with decoding := some c, nextReap := c + 1, owed := lane.owed ++
        [(c, Dev.halfOfAddr e.outOff, Dev.owedOf r, Dev.owedOf r)] } ∧
      t.dev.fld (R.AS_JOB_PROGRESS_ENTRY k) = i % 256 ∧ t.dev.fld (R.AS_JOB_PROGRESS_CHUNK k) = c % 2 ^ 16 ∧
      OnlyStreamer s t [R.AS_JOB_PROGRESS_ENTRY k, R.AS_JOB_PROGRESS_CHUNK k]) ∧
    (chunk → c = lane.nextReap → ¬ reaps → exec (.asChunkReap l) s = .next s) ∧
    (lane.manifest = none ∨ (lane.manifest = some m ∧ m.chunks.length ≤ lane.nextReap) →
      exec (.asChunkReap l) s = .next s) ∧
    (lane.decoding = none ∨ lane.manifest = none → exec (.asChunkDecoded l) s = .next s) ∧
    (chunk → lane.decoding = some c →
      (Dev.chunkPlain m lane c r = none → ended (.asChunkDecoded l) 0x20 [R.AS_TAG_FAIL_COUNT] ∧
        ∃ t, exec (.asChunkDecoded l) s = .next t ∧
          t.dev.fld R.AS_TAG_FAIL_COUNT = min (s.dev.fld R.AS_TAG_FAIL_COUNT + 1) (2 ^ 32 - 1)) ∧
      (decrypted → out = none → ended (.asChunkDecoded l) 0x21 []) ∧
      (decrypted → out = some bytes → bytes.length ≠ r.outLen → ended (.asChunkDecoded l) 0x22 []) ∧
      (decrypted → out = some bytes → bytes.length = r.outLen → ∃ t, exec (.asChunkDecoded l) s = .next t ∧
         KeepsStore s t ∧
        ((∀ q ∈ writes, passes q) →
          t.dev.fs.inflight.length + t.dev.fs.waiting.length =
            s.dev.fs.inflight.length + s.dev.fs.waiting.length + writes.length ∧
          ((t.dev.lane l).job = some k.val → (t.dev.lane l).decoding = none ∧ (t.dev.lane l).plain = plains ∧
            t.dev.jobState k = (if c + 1 = m.chunks.length then 4 else s.dev.jobState k))) ∧
        (∀ q ∈ writes.head?, s.dev.fs.tagFree q = true → s.dev.fs.waiting.any q.sameSource = false → ¬ passes q →
          t.dev.jobState k = 6 ∧ t.dev.fld (R.AS_JOB_RESULT_CODE k) = 0x23 ∧ (t.dev.lane l).job = none)))

/-- Key programming (R393, R395, R406), in every state: each GO clears the data registers. With the fuses closed
(PROG_DISABLE, or a unit that is configured) it ends with CLOSED; a page that is programmed already gives
OVERWRITE, one that no slot has VERIFY, a revocation of an unprogrammed or other slot NOT_PROGRAMMED; otherwise it
is BUSY until PROG_DONE, which burns the fuses and gives OK where the read-back agrees, and VERIFY where it does
not. A GO while one is in progress does no more, and PROG_DONE with none in progress does nothing.

What a command of a block does is said of states in which that block can be used (log entry 8).

The model's readings and choices that it rests on: log entry 53. -/
def Obligations.KeyProgramming : Prop :=
  ∀ (s : State) (j : KyJob) (ok : Bool) (k n : Nat), s.dev.blockHeld .KY = false →
    let busy := s.dev.ky ≠ none
    let slot := s.dev.fld R.KY_PROG_CTRL_SLOT
    let page := s.dev.fld R.KY_PROG_CTRL_PAGE
    let data := (List.range 16).map fun k => (⟨R.KY_PROG_DATAw k, 31, 0⟩ : Fld)
    let w := (s.dev.get (R.KY_PROG_DATAw 0)).toNat
    let has := (s.dev.otp.pages.any (·.1 == k)) = true
    let long := k = 0x106 ∧ ∃ b ∈ s.dev.kyBytes.drop n, b ≠ 0
    let clears := fun (t : State) => ∀ k < 16, t.dev.get (R.KY_PROG_DATAw k) = 0
    let ended := fun (c : Instr) (result : Nat) => ∃ t, exec c s = .next t ∧ clears t ∧
      t.dev.fld R.KY_PROG_STATUS_RESULT = result ∧ t.dev.fld R.KY_PROG_STATUS_BUSY = 0 ∧
          t.dev.fld ⟨R.KY_STATUS, 0, 0⟩ = 1 ∧
      OnlyFlds s t (data ++ [R.KY_PROG_STATUS_RESULT, R.KY_PROG_STATUS_BUSY, ⟨R.KY_STATUS, 0, 0⟩, R.KY_STATUS_SEQ])
    let started := fun (c : Instr) (job : KyJob) => ∃ t, exec c s = .next t ∧ clears t ∧ t.dev.ky = some job ∧
      t.dev.fld R.KY_PROG_STATUS_BUSY = 1 ∧ KeepsStore s t ∧ s.dev.SameButRegs { t.dev with ky := s.dev.ky } ∧
      KeepsFlds s t (data ++ [R.KY_PROG_STATUS_RESULT, R.KY_PROG_STATUS_BUSY])
    let open' := ¬ busy ∧ s.dev.kyClosed = false
    (∀ c ∈ [Instr.kyProgram, .kyRevoke, .kySetCfg],
      (busy → ∃ t, exec c s = .next t ∧ clears t ∧ OnlyFlds s t data) ∧
      (¬ busy → s.dev.kyClosed = true → ended c 1)) ∧
    (open' → pageOf slot page = none → ended .kyProgram 4) ∧
    (open' → pageOf slot page = some (k, n) → has → ended .kyProgram 2) ∧
    (open' → pageOf slot page = some (k, n) → ¬ has → long → ended .kyProgram 4) ∧
    (open' → pageOf slot page = some (k, n) → ¬ has → ¬ long →
      started .kyProgram (.program slot page (s.dev.kyBytes.take n))) ∧
    (open' → revokeBit slot = none ∨ (revokeBit slot = some k ∧ ¬ has) → ended .kyRevoke 3) ∧
    (open' → revokeBit slot = some k → has → started .kyRevoke (.revoke slot)) ∧
    (open' → started .kySetCfg (.config (bit w 0) (bit w 1))) ∧
    (¬ busy → exec (.progDone ok) s = .next s) ∧
    (s.dev.ky = some j → ∃ t, exec (.progDone ok) s = .next t ∧ t.dev.ky = none ∧
      t.dev.otp = (if ok then Dev.fuse s.dev.otp j else s.dev.otp) ∧
          t.dev.fld R.KY_PROG_STATUS_RESULT = (if ok then 0 else 4) ∧
      t.dev.fld R.KY_PROG_STATUS_BUSY = 0 ∧ t.dev.fld ⟨R.KY_STATUS, 0, 0⟩ = 1 ∧ KeepsStore s t ∧
      s.dev.SameButRegs { t.dev with ky := s.dev.ky, otp := s.dev.otp } ∧
      KeepsFlds s t [R.KY_PROG_STATUS_RESULT, R.KY_PROG_STATUS_BUSY, ⟨R.KY_STATUS, 0, 0⟩, R.KY_STATUS_SEQ])


/-! ### The ring (chapter 13) -/

/-- Ring links (R409, R446), in every state: a link comes up on a port with EN 1 of a unit with an address, with
LINK_UP; going down, by itself or by RESTART, it discards the port's queued and waiting frames, with LINK_DOWN.
Either way the port's delay measurement starts anew. What changes no link does nothing.

Receipt and forwarding (R410, R412, R414 to R416, R447), in every state: a port whose link is down receives nothing.
Each frame counts, with what its RS-FEC corrected. One is dropped and counted, with its cause, for a wrong check
sequence (no cause), a full receive buffer (4), another type (7), no structure in force (3), a bad header (2), a tag
that does not verify (6), no hops left (5), the other link down (8) or its buffer full (4). A broadcast of this unit
is absorbed, a time message of another type or a tagged one counts in the port's RX_DROP of TS, and a frame for
another unit goes on by the other port with a hop less. A frame with nothing to correct does what the command of its
kind does.

What a command of a block does is said of states in which that block can be used (log entry 8).

The model's readings and choices that it rests on: log entries 54, 55, 63, 75, 98 and 99. -/
def Obligations.RingLinksAndReceipt : Prop :=
  (∀ (s : State) (p : Fin 2), s.dev.blockHeld .RP = false →
    let can := s.dev.unitAddr ≠ 0 ∧ s.dev.fld (R.RP_CTRL_EN p) = 1 ∧ s.dev.linkUp p = false
    let idle := ∀ k < 8, (s.dev.source k).tiles = []
    let link := [R.RP_STATUS_LINK p, R.RP_STATUS_FEC_LOCK p, R.RP_STATUS_SEQ p]
    let anew := fun (t : State) => (t.dev.tsPort p).measured = false ∧ (t.dev.tsPort p).exchange = none ∧
      t.dev.out = s.dev.out ∧ KeepsStore s t
    (can → ∃ t, exec (.rpLinkUp p) s = .next t ∧ t.dev.linkUp p = true ∧ t.dev.fld (R.RP_STATUS_FEC_LOCK p) = 1 ∧
      t.dev.fld ⟨R.RP_STATUS p, 0, 0⟩ = 1 ∧ anew t ∧ s.dev.SameButRegs { t.dev with ts := s.dev.ts } ∧
      KeepsFlds s t (⟨R.RP_STATUS p, 0, 0⟩ :: link)) ∧
    (¬ can → exec (.rpLinkUp p) s = .next s) ∧
    ∀ c ∈ [Instr.rpLinkDown p, .rpRestart p],
      (s.dev.linkUp p = false → exec c s = .next s) ∧
      (s.dev.linkUp p = true → ∃ t, exec c s = .next t ∧ t.dev.linkUp p = false ∧
        t.dev.fld (R.RP_STATUS_FEC_LOCK p) = 0 ∧ t.dev.fld ⟨R.RP_STATUS p, 1, 1⟩ = 1 ∧ anew t ∧
        (∀ k < 8, (t.dev.classOf p k).queue = []) ∧ t.dev.sh.waiting = s.dev.sh.waiting.filter (·.1 != p.val) ∧
        (idle → s.dev.SameButRegs { t.dev with ts := s.dev.ts, rp := s.dev.rp, sh := s.dev.sh } ∧
          KeepsFlds s t (⟨R.RP_STATUS p, 1, 1⟩ :: link)))) ∧
  (∀ (s : State) (p : Fin 2) (q : RxQuality) (w : WireFrame) (f : RingFrame) (m : TimeMsg) (a : Announce),
    s.dev.blockHeld .RP = false →
    let up := s.dev.linkUp p = true
    let good := RxQuality.mk true 0 0 [0, 0, 0, 0]
    let fits := fun (w : WireFrame) => s.dev.rxBuffered p + Dev.wireBytes w ≤ 524288
    let own := f.dest.toNat = s.dev.unitAddr
    let another := ¬ own ∧ f.dest ≠ 0
    let sound := fits (.device f) ∧ s.dev.configured = true ∧ headerOk f = true
    let counted := [R.RP_RX_FRAMES_COUNT p 0, R.RP_RX_FRAMES_COUNT p 1, ⟨R.RP_STATUS p, 5, 5⟩, R.RP_STATUS_SEQ p]
    let dropped := [R.RP_DROP_INFO_CAUSE p, R.RP_DROP_INFO_SRC p, R.RP_DROP_COUNT_COUNT p, R.RP_TAG_FAIL_COUNT_COUNT p,
      R.RP_STATUS_EVENTS p]
    let plus := fun (t : State) (c : Fld) => t.dev.fld c = min (s.dev.fld c + 1) (2 ^ 32 - 1)
    let fec := fun (t : State) (ind k : Nat) =>
      (t.dev.getRx (Block.RP.base + p) ind).toNat = min ((s.dev.getRx (Block.RP.base + p) ind).toNat + k) (2 ^ 32 - 1)
    let counts := fun (t : State) => fec t 0 q.corrected ∧ fec t 4 q.uncorrected ∧
      (∀ l < 4, fec t (0x10 + 4 * l) ((q.symbols.take 4).getD l 0)) ∧
      t.dev.get64 (R.RP_RX_FRAMES p 0) (R.RP_RX_FRAMES p 1) =
        min (s.dev.get64 (R.RP_RX_FRAMES p 0) (R.RP_RX_FRAMES p 1) + 1) (2 ^ 64 - 1)
    let drops := fun (w : WireFrame) (cause : Nat) => ∃ t, exec (.rpFrameRx p { q with fcsOk := true } w) s = .next t ∧
      counts t ∧ t.dev.fld (R.RP_DROP_INFO_CAUSE p) = cause ∧ plus t (R.RP_DROP_COUNT_COUNT p) ∧
      (cause = 6 → plus t (R.RP_TAG_FAIL_COUNT_COUNT p)) ∧ t.dev.fld ⟨R.RP_STATUS p, 2, 2⟩ = 1 ∧
      OnlyFlds s { t with dev := { t.dev with rx := s.dev.rx } } (counted ++ dropped)
    (¬ up → exec (.rpFrameRx p q w) s = .next s) ∧
    (up → ∃ t, exec (.rpFrameRx p { q with fcsOk := false } w) s = .next t ∧ counts t ∧ plus t (R.RP_FCS_ERR_COUNT p) ∧
      plus t (R.RP_DROP_COUNT_COUNT p) ∧ t.dev.fld ⟨R.RP_STATUS p, 2, 2⟩ = 1 ∧
      OnlyFlds s { t with dev := { t.dev with rx := s.dev.rx } }
        (counted ++ [R.RP_FCS_ERR_COUNT p, R.RP_DROP_COUNT_COUNT p, ⟨R.RP_STATUS p, 2, 2⟩])) ∧
    (up → ¬ fits w → drops w 4) ∧
    (up → fits .other → drops .other 7) ∧
    (up → fits (.device f) → s.dev.configured = false → drops (.device f) 3) ∧
    (up → fits (.device f) → s.dev.configured = true → headerOk f = false → drops (.device f) 2) ∧
    (up → sound → own → f.isProtected = true → (s.dev.ownerKey f.owner.toNat).bind (fun key =>
      gcmOpen key f.iv.toNat (RingFrame.aad f) f.payload) = none → drops (.device f) 6) ∧
    (up → sound → another → f.hops.toNat ≤ 1 → drops (.device f) 5) ∧
    (up → sound → another → 2 ≤ f.hops.toNat → s.dev.linkUp (1 - p) = false → drops (.device f) 8) ∧
    (up → sound → another → 2 ≤ f.hops.toNat → s.dev.linkUp (1 - p) = true → s.dev.hasRoom (1 - p) (.device f) = false →
      drops (.device f) 4) ∧
    (up → sound → another → 2 ≤ f.hops.toNat → s.dev.linkUp (1 - p) = true → s.dev.hasRoom (1 - p) (.device f) = true →
      ∃ t, exec (.rpFrameRx p { q with fcsOk := true } (.device f)) s = .next t ∧ counts t ∧
        s.dev.Queues t.dev (1 - p) (.device { f with hops := BitVec.ofNat 8 (f.hops.toNat - 1) }) ∧
        OnlyFlds s { t with dev := { t.dev with rx := s.dev.rx, rp := s.dev.rp } } counted) ∧
    (up → sound → ¬ own → f.dest = 0 → f.src.toNat = s.dev.unitAddr →
      ∃ t, exec (.rpFrameRx p { q with fcsOk := true } (.device f)) s = .next t ∧ counts t ∧
        OnlyFlds s { t with dev := { t.dev with rx := s.dev.rx } } counted) ∧
    (∀ x ∈ [WireFrame.time true (.sync m), .time false .other], up → fits x →
      ∃ t, exec (.rpFrameRx p { q with fcsOk := true } x) s = .next t ∧ counts t ∧ plus t (R.TS_RP_RX_DROP_COUNT p) ∧
        OnlyFlds s { t with dev := { t.dev with rx := s.dev.rx } }
          (counted ++ [R.TS_RP_RX_DROP_COUNT p, ⟨R.TS_STATUS, 8, 8⟩, R.TS_STATUS_SEQ])) ∧
    (up → fits (.time false .ignored) →
      ∃ t, exec (.rpFrameRx p { q with fcsOk := true } (.time false .ignored)) s = .next t ∧ counts t ∧
        OnlyFlds s { t with dev := { t.dev with rx := s.dev.rx } } counted) ∧
    (∀ x ∈ [(3, 0, Instr.tile p f), (4, 0, .write p f), (4, 1, .readReq p f), (4, 2, .readRsp p f), (6, 0, .writeAck p f),
        (5, 0, .regWrite p f), (5, 1, .regRead p f), (5, 2, .regRsp p f), (7, 0, .notice p f)],
      exec (.rpFrameRx p good (.device (asKind f x.1 x.2.1))) s = exec x.2.2 s) ∧
    (∀ x ∈ [(TimeFrame.sync m, Instr.syncRx p m), (.followUp m, .followUpRx p m), (.announce a, .announceRx p a),
        (.pdelayReq m, .pdelayReqRx p m), (.pdelayResp m, .pdelayRespRx p m),
        (.pdelayRespFollowUp m, .pdelayRespFollowUpRx p m)],
      exec (.rpFrameRx p good (.time false x.1)) s = exec x.2 s))

/-- Transmission (R411, R414, R434, R436), in every state: a port that does not transmit, or of which no class may
send, sends nothing. Otherwise the frame at the head of the chosen class goes out and is counted, a protected one
of this unit sealed under the next IV and its owner's key; its cost is taken from the class's peak bucket, and
from the committed one of a class that sends by it. Class 7 goes before class 6, and class 6 before the others. A
time message takes its timestamps as it goes, and one that has none to take does not leave.

What a command of a block does is said of states in which that block can be used (log entry 8).

The model's readings and choices that it rests on: log entries 13, 58, 60 and 98. -/
def Obligations.RingTransmission : Prop :=
  ∀ (s : State) (p : Fin 2) (c : Nat) (committed : Bool) (i : TxItem) (rest : List TxItem), s.dev.blockHeld .RP = false →
    let now := s.dev.accrue p
    let chosen := s.dev.rpSends p = true ∧ (s.dev.classOf p c).queue = i :: rest ∧
      (now.peakOk p 7 = true ∧ c = 7 ∧ committed = false ∨
        now.peakOk p 7 = false ∧ now.peakOk p 6 = true ∧ c = 6 ∧ committed = false ∨
        now.peakOk p 7 = false ∧ now.peakOk p 6 = false ∧ (now.txChoose p).2 = some (c, committed))
    let sealed := fun (f : RingFrame) =>
      if f.isProtected && decide (f.payload.length < f.length.toNat) then
        let iv := (Config.ringIv s.dev.sh.ivPrefix).toNat * 2 ^ 64 + s.dev.sh.ivCount
        { f with
          iv := BitVec.ofNat 96 iv
          payload := gcmSeal ((s.dev.ownerKey f.owner.toNat).getD []) iv (RingFrame.aad f) f.payload }
      else f
    let sent : Option OutMsg := match i with
      | .device f => some (.ringFrame p (sealed f) (RingFrame.wire (sealed f)))
      | .time m x arrived => (s.dev.stamped p x arrived m).2.map fun m => .timeFrame p m.address m
    let quiet := s.dev.sh.waiting = [] ∧ ∀ k < 8, (s.dev.source k).tiles = []
    let cost : Int := ((i.cost * Dev.bucketUnit : Nat) : Int)
    (s.dev.rpSends p = false → exec (.rpTxSelect p) s = .next s) ∧
    (s.dev.rpSends p = true → (now.txChoose p).2 = none → ∃ t, exec (.rpTxSelect p) s = .next t ∧ t.dev.out = s.dev.out ∧
      (∀ k < 8, (t.dev.classOf p k).queue = (s.dev.classOf p k).queue) ∧ s.dev.SameButRegs { t.dev with rp := s.dev.rp } ∧
      KeepsStore s t ∧ KeepsFlds s t []) ∧
    (chosen → ∃ t, exec (.rpTxSelect p) s = .next t ∧ t.dev.out = s.dev.out ++ sent.toList ∧ KeepsStore s t ∧
      rest.isPrefixOf (t.dev.classOf p c).queue = true ∧ (quiet → (t.dev.classOf p c).queue = rest) ∧
      (t.dev.classOf p c).peak = (now.classOf p c).peak - (if sent.isSome then cost else 0) ∧
      (t.dev.classOf p c).committed = (now.classOf p c).committed - (if sent.isSome && committed then cost else 0) ∧
      t.dev.get64 (R.RP_TX_FRAMES p 0) (R.RP_TX_FRAMES p 1) =
        min (s.dev.get64 (R.RP_TX_FRAMES p 0) (R.RP_TX_FRAMES p 1) + sent.toList.length) (2 ^ 64 - 1) ∧
      (quiet → KeepsFlds s t [R.RP_TX_FRAMES_COUNT p 0, R.RP_TX_FRAMES_COUNT p 1, ⟨R.RP_STATUS p, 5, 5⟩,
         R.RP_STATUS_SEQ p,
        R.TS_RP_TX_MSGS_COUNT p, ⟨R.TS_STATUS, 8, 8⟩, ⟨R.TS_STATUS, 6, 6⟩, R.TS_STATUS_SEQ]))

/-- Remote memory requests (R413, R417 to R419), in every state, of a frame that the port accepts: one whose tag names
no visible clearing is answered with STATUS 1, one of a half being reloaded too, logged; one past the clearing's
end with 3; one that the clearing does not permit, or a WRITE of another owner, with 2, logged. A WRITE with
POISON is answered with 5 and writes nothing; another issues its first write and keeps the rest, which follow one
by one. A READ_REQ issues all its reads. Each is kept until its bursts have ended.

Remote register requests (R413, R417, R421, R422), in every state, of a frame that the port accepts: a resent request
that the last response to its unit answers gets that response again, and nothing else happens. A REG_WRITE of a
register outside the windows does to the unit's registers what the host's write of it does, and is answered with
STATUS 0; a REG_READ of a register whose read has no effect is answered with its word; an illegal offset, or one of a
block's indirect access, is a bus error, answered with 4. A request of a clearing window that is refused, in any part,
is answered with 1, 2 or 3 and logged; another is kept while its bursts run.

What a command of a block does is said of states in which that block can be used (log entry 8).

The model's readings and choices that it rests on: log entries 32, 56, 57, 58 and 100. -/
def Obligations.RingRequestsReceived : Prop :=
  (∀ (s : State) (p : Fin 2) (f : RingFrame) (data : List Byte) (c : Clearing), s.dev.blockHeld .RP = false →
    let w := Dev.taken (asKind f 4 0) data
    let r := Dev.taken (asKind f 4 1) data
    let writes := s.dev.Accepts p (asKind f 4 0) data
    let reads := s.dev.Accepts p (asKind f 4 1) data
    let named := s.dev.ringClearing f.tag.toNat = some c
    let opened := s.dev.ringClosed c = false
    let off := f.offset.toNat
    let len := f.arg0.toNat
    let rfits := off + len ≤ c.size ∧ (c.isProtected = true → len ≤ 9136)
    let wok := named ∧ opened ∧ off + data.length ≤ c.size ∧ s.dev.refusal (probe p c.base true) = none ∧
      f.owner.toNat = c.owner
    let rok := named ∧ opened ∧ rfits ∧ s.dev.refusal (probe p c.base false) = none
    let logs := fun (t : State) => t.dev.fld R.CL_FAULT_STATUS_ACCESS_FAULT = 1 ∧
      t.dev.fld R.CL_FAULT_COUNT_COUNT = min (s.dev.fld R.CL_FAULT_COUNT_COUNT + 1) (2 ^ 32 - 1)
    let counted := [R.RP_RX_FRAMES_COUNT p 0, R.RP_RX_FRAMES_COUNT p 1, ⟨R.RP_STATUS p, 5, 5⟩, R.RP_STATUS_SEQ p]
    let cl := [⟨R.CL_FAULT_INFO, 31, 0⟩, R.CL_FAULT_ADDR_ADDR, R.CL_FAULT_COUNT_COUNT, ⟨R.CL_FAULT_STATUS, 31, 0⟩]
    let answers := fun (cmd : Instr) (q : RingFrame) (kind sub status : Nat) (arg0 : Word) (logged : Bool) => ∃ t,
      exec cmd s = .next t ∧ s.dev.Responds t.dev q kind sub status arg0 ∧ (logged = true → logs t) ∧
      OnlyFlds s { t with dev := { t.dev with rp := s.dev.rp, sh := s.dev.sh } } (counted ++ (if logged then cl else []))
    let serves := fun (cmd : Instr) (svc : Service) (rs : List Request) => ∃ t, exec cmd s = .next t ∧
      s.dev.Issues t.dev rs ∧ t.dev.sh.services = s.dev.sh.services.filter (·.key != svc.key) ++ [svc] ∧
      t.dev.sh.nextKey = s.dev.sh.nextKey + 1 ∧
      OnlyFlds s { t with dev := { t.dev with sh := s.dev.sh, fs := s.dev.fs } } (counted ++ [R.CL_TAG_STATUS_HIGH_WATER])
    let ws := writeRequests (portRequester p) (c.base + off) data (.ringWrite s.dev.sh.nextKey)
    let rs := readRequests (portRequester p) (c.base + off) len (.ringRead s.dev.sh.nextKey)
    (writes → s.dev.ringClearing f.tag.toNat = none → answers (.write p f) w 6 0 1 0 false) ∧
    (writes → named → ¬ opened → answers (.write p f) w 6 0 1 0 true) ∧
    (writes → named → opened → c.size < off + data.length → answers (.write p f) w 6 0 3 0 false) ∧
    (writes → named → opened → off + data.length ≤ c.size → s.dev.refusal (probe p c.base true) ≠ none ∨
       f.owner.toNat ≠ c.owner →
      answers (.write p f) w 6 0 2 0 true) ∧
    (writes → wok → f.poison = true → answers (.write p f) w 6 0 5 0 false) ∧
    (writes → wok → f.poison = false → data = [] → answers (.write p f) w 6 0 0 0 false) ∧
    (writes → wok → f.poison = false → ∀ q ∈ ws.head?,
      (s.dev.Passes q → serves (.write p f)
        ⟨s.dev.sh.nextKey, p, w, [], ws.tail, 1, 0, [], false, false, false, 0⟩ [q]) ∧
      (s.dev.fs.tagFree q = true → s.dev.fs.waiting.any q.sameSource = false → s.dev.refusal q = none →
        s.dev.isSafe (Block.FS.base + stackOf q.addr) = true → answers (.write p f) w 6 0 2 0 false)) ∧
    (reads → s.dev.ringClearing f.tag.toNat = none → answers (.readReq p f) r 4 2 1 f.arg0 false) ∧
    (reads → named → ¬ opened → answers (.readReq p f) r 4 2 1 f.arg0 true) ∧
    (reads → named → opened → ¬ rfits → answers (.readReq p f) r 4 2 3 f.arg0 false) ∧
    (reads → named → opened → rfits → s.dev.refusal (probe p c.base false) ≠ none →
      answers (.readReq p f) r 4 2 2 f.arg0 true) ∧
    (reads → rok → (∀ q ∈ rs, s.dev.Passes q) → serves (.readReq p f)
      ⟨s.dev.sh.nextKey, p, r, [(c.base + off, len)], [], rs.length, 0, [], false, false, c.isProtected, c.owner⟩ rs)) ∧
  (∀ (s : State) (p : Fin 2) (f k : RingFrame) (data : List Byte) (row : RegRow), s.dev.blockHeld .RP = false →
    let w := Dev.taken (asKind f 5 0) data
    let r := Dev.taken (asKind f 5 1) data
    let writes := s.dev.Accepts p (asKind f 5 0) data
    let reads := s.dev.Accepts p (asKind f 5 1) data
    let off := f.offset.toNat
    let a := decodeBar0 off
    let kept := s.dev.sh.kept.find? (fun k => k.1 == f.src.toNat && k.2.txn == f.txn && f.retry)
    let plain := inWindow a = false ∧ Dev.isInd a = false
    let acc := fun (wr : Bool) => (⟨.ring, wr, .w32, off, if wr then [f.arg0] else []⟩ : BusAccess)
    let counted := [R.RP_RX_FRAMES_COUNT p 0, R.RP_RX_FRAMES_COUNT p 1, ⟨R.RP_STATUS p, 5, 5⟩, R.RP_STATUS_SEQ p]
    let cl := [⟨R.CL_FAULT_INFO, 31, 0⟩, R.CL_FAULT_ADDR_ADDR, R.CL_FAULT_COUNT_COUNT, ⟨R.CL_FAULT_STATUS, 31, 0⟩]
    let bus := [R.SY_BUSERR_INFO_BAR, R.SY_BUSERR_INFO_WRITE, R.SY_BUSERR_INFO_SIZE, R.SY_BUSERR_INFO_CAUSE,
      R.SY_BUSERR_ADDR_ADDR, R.SY_BUSERR_COUNT_COUNT, R.SY_FAULT_STATUS_BUS_ERROR, R.SY_FAULT_STATUS_STAT_SAT,
      R.SY_FAULT_STATUS_SEQ]
    let answers := fun (cmd : Instr) (q : RingFrame) (status : Nat) (word : Word) (l : List Fld) => ∃ t,
        exec cmd s = .next t ∧
      s.dev.Responds t.dev q 5 2 status word ∧ OnlyFlds s { t with dev := { t.dev with rp := s.dev.rp, sh := s.dev.sh } } l
    let parts := (windowParts 5 (a % 0x10000) 4).map (fun q => (s.dev.windowMap q.1 q.2.1, q.2.2))
    let denied := fun (q : RingFrame) => parts.findSome? (fun x => s.dev.windowRefusal p q x.1)
    let again := fun (cmd : Instr) => ∃ t, exec cmd s = .next t ∧ s.dev.Leaves t.dev k ∧
      OnlyFlds s { t with dev := { t.dev with rp := s.dev.rp, sh := s.dev.sh } } counted
    (writes → kept = some (f.src.toNat, k) → again (.regWrite p f)) ∧
    (reads → kept = some (f.src.toNat, k) → again (.regRead p f)) ∧
    (writes → kept = none → plain → busCause (acc true) off = none → slotOf a ≠ Block.RP.base + p → ∃ u,
      exec (.registerWrite (BitVec.ofNat 24 off) f.arg0) s = .next u ∧ ∃ t, exec (.regWrite p f) s = .next t ∧
      (∀ b, b ≠ R.RP_STATUS p → b ≠ R.RP_RX_FRAMES p 0 → b ≠ R.RP_RX_FRAMES p 1 → t.dev.get b = u.dev.get b) ∧
      u.dev.Responds t.dev w 5 2 0 0 ∧ KeepsStore s t) ∧
    (reads → kept = none → plain → busCause (acc false) off = none → rowOf a = some row →
      (∀ x ∈ row.fields, x.ty ≠ .rs ∧ x.ty ≠ .wo ∧ x.ty ≠ .wp) → slotOf a ≠ Block.RP.base + p →
      answers (.regRead p f) r 0 (s.dev.catchUp.regRead a) counted) ∧
    (writes → kept = none → inWindow a = false → busCause (acc true) off ≠ none ∨ Dev.isInd a = true →
      answers (.regWrite p f) w 4 0 (counted ++ bus)) ∧
    (reads → kept = none → inWindow a = false → busCause (acc false) off ≠ none ∨ Dev.isInd a = true →
      answers (.regRead p f) r 4 0 (counted ++ bus)) ∧
    (writes → kept = none → inWindow a = true → ∀ x ∈ denied w, answers (.regWrite p f) w x.1 0 (counted ++ cl)) ∧
    (reads → kept = none → inWindow a = true → ∀ x ∈ denied r, answers (.regRead p f) r x.1 0 (counted ++ cl)) ∧
    (writes → kept = none → inWindow a = true → denied w = none →
      (∀ x ∈ parts, s.dev.isSafe (Block.FS.base + stackOf x.1.1) = false) → ∃ t, exec (.regWrite p f) s = .next t ∧
      (∃ v ∈ t.dev.sh.services, v.key = s.dev.sh.nextKey ∧ v.request = w ∧ v.due = 1 ∧ v.denied = false ∧
        s.dev.Issues t.dev (((writeRequests (portRequester p) (parts.head!).1.1 ((toLe 4 f.arg0.toNat).take (parts.head!).2)
          (.ringWrite s.dev.sh.nextKey)).head?).toList)) ∧ KeepsStore s t) ∧
    (reads → kept = none → inWindow a = true → denied r = none →
      (∀ x ∈ parts, s.dev.isSafe (Block.FS.base + stackOf x.1.1) = false) → ∃ t, exec (.regRead p f) s = .next t ∧
      (∃ v ∈ t.dev.sh.services, v.key = s.dev.sh.nextKey ∧ v.request = r ∧ v.denied = false ∧
        v.ranges = parts.map (fun x => (x.1.1, x.2)) ∧
        s.dev.Issues t.dev (parts.flatMap fun x => readRequests (portRequester p) x.1.1 x.2 (.ringRead s.dev.sh.nextKey))) ∧
      KeepsStore s t))

/-- Responses and notices (R412, R420 to R423), in every state, of a frame that the port accepts: a response that no
request of its kind waits for is only counted. A READ_RSP writes its data to the piece's local range; a STATUS
that is not 0, a range without a clearing, one of another owner or a refused write fails the piece. A WRITE_ACK
with STATUS 0 completes the piece's bytes, and with the last the command. A REG_RSP ends the mailbox's request
with its result and, for a read, its data. A NOTICE leaves its source, count and stamp and sets its bit, and goes
on to the next unit if it is a broadcast.

What a command of a block does is said of states in which that block can be used (log entry 8).

The model's readings and choices that it rests on: log entry 58. -/
def Obligations.RingResponsesReceived : Prop :=
  ∀ (s : State) (p : Fin 2) (f g : RingFrame) (data : List Byte) (k : Fin 4) (id r : Nat) (x : Piece) (c : Clearing),
    s.dev.blockHeld .RP = false →
    let q := Dev.taken (asKind f 4 2) data
    let ch := s.dev.channel k
    let counted := [R.RP_RX_FRAMES_COUNT p 0, R.RP_RX_FRAMES_COUNT p 1, ⟨R.RP_STATUS p, 5, 5⟩, R.RP_STATUS_SEQ p]
    let cl := [⟨R.CL_FAULT_INFO, 31, 0⟩, R.CL_FAULT_ADDR_ADDR, R.CL_FAULT_COUNT_COUNT, ⟨R.CL_FAULT_STATUS, 31, 0⟩]
    let only := fun (t : State) (l : List Fld) => OnlyFlds s { t with dev := { t.dev with sh := s.dev.sh } } (counted ++ l)
    let waits := fun (mail : Bool) (sub : Byte) => match s.dev.requestOf f.txn with
      | some ⟨.piece _ _, g, _⟩ => !mail && g.kind == 4 && g.subtype == sub
      | some ⟨.mailbox, _, _⟩ => mail
      | none => false
    let gone := s.dev.sh.outstanding.filter (·.frame.txn != f.txn)
    let reading := s.dev.Accepts p (asKind f 4 2) data ∧ s.dev.requestOf f.txn = some ⟨.piece k id,
        { g with kind := 4, subtype := 1 }, r⟩
    let writing := s.dev.Accepts p (asKind f 6 0) data ∧ s.dev.requestOf f.txn = some ⟨.piece k id,
        { g with kind := 4, subtype := 0 }, r⟩
    let mail := s.dev.Accepts p (asKind f 5 2) data ∧ s.dev.requestOf f.txn = some ⟨.mailbox, g, r⟩
    let noted := s.dev.Accepts p (asKind f 7 0) data
    let known := ch.pieces.find? (·.id == id) = some x
    let piece := reading ∧ known ∧ q.status = 0
    let here := s.dev.clearingAt x.addr = some c
    let fails := fun (cmd : Instr) (code : Nat) (l : List Fld) => ∃ t, exec cmd s = .next t ∧
        t.dev.sh.outstanding = gone ∧
      PieceFails s t k x code (counted ++ l)
    let ws := writeRequests (portRequester ch.port) x.addr q.payload (.channelWrite k id)
    let left := ch.pieces.filter (·.id != id)
    let counts := writing ∧ known ∧ f.status = 0 ∧ x.cmd = ch.cmd ∧ s.dev.rqBusy k = true
    let all := s.dev.fld (R.SH_RQ_LENGTH_BYTES k) ≤ ch.next ∧ (∀ y ∈ left, y.phase ≠ .reading)
    let last := left.any (·.cmd == ch.cmd) = false
    let bytes := fun (t : State) => t.dev.fld (R.SH_RQ_DONE_BYTES_BYTES k) =
      (s.dev.fld (R.SH_RQ_DONE_BYTES_BYTES k) + x.len) % 2 ^ 32
    let n := f.arg0.toNat
    let strange := ch.pieces.find? (·.id == id) = none ∧ (∀ z ∈ ch.pieces, z.phase ≠ .reading) ∧
      (s.dev.rqBusy k = false ∨ s.dev.fld (R.SH_RQ_LENGTH_BYTES k) ≤ ch.next ∧ ch.pieces.any (·.cmd == ch.cmd) = true)
    let passes := fun (cmd : Instr) => ∃ t, exec cmd s = .next t ∧ t.dev.sh.outstanding = gone ∧
        t.dev.channel k = ch ∧ only t []
    (∀ y ∈ [(4, 2, Instr.readRsp p f, waits false 1), (6, 0, .writeAck p f, waits false 0), (5, 2, .regRsp p f,
       waits true 0)],
      s.dev.Accepts p (asKind f y.1 y.2.1) data → y.2.2.2 = false → ∃ t, exec y.2.2.1 s = .next t ∧
          OnlyFlds s t counted) ∧
    (reading → strange → passes (.readRsp p f)) ∧ (writing → strange → passes (.writeAck p f)) ∧
    (reading → known → f.status ≠ 0 → fails (.readRsp p f) f.status.toNat []) ∧
    (writing → known → f.status ≠ 0 → fails (.writeAck p f) f.status.toNat []) ∧
    (piece → s.dev.clearingAt x.addr = none → fails (.readRsp p f) 11 []) ∧
    (piece → here → c.owner ≠ f.owner.toNat → fails (.readRsp p f) 11 cl) ∧
    (piece → here → c.owner = f.owner.toNat → ws ≠ [] → (∀ w ∈ ws, s.dev.Passes w) →
       ∃ t, exec (.readRsp p f) s = .next t ∧
      t.dev.sh.outstanding = gone ∧ s.dev.Issues t.dev ws ∧ t.dev.channel k = { ch with
        pieces := ch.pieces.map fun y => if y.id = id then
          { y with phase := .writing, port := p, due := ws.length, poison := false } else y } ∧
      OnlyFlds s { t with dev := { t.dev with sh := s.dev.sh, fs := s.dev.fs } } (counted ++
          [R.CL_TAG_STATUS_HIGH_WATER])) ∧
    (piece → here → c.owner = f.owner.toNat → ws.length = 1 → (∀ w ∈ ws, s.dev.fs.tagFree w = true ∧
      s.dev.fs.waiting.any w.sameSource = false ∧ ¬ s.dev.Passes w) → fails (.readRsp p f) 11 cl) ∧
    (piece → here → c.owner = f.owner.toNat → ws = [] → x.cmd = ch.cmd → s.dev.rqBusy k = true →
      ∃ t, exec (.readRsp p f) s = .next t ∧ bytes t ∧ KeepsStore s t) ∧
    (counts → ∃ t, exec (.writeAck p f) s = .next t ∧ bytes t ∧ gone.isPrefixOf t.dev.sh.outstanding = true ∧
       KeepsStore s t) ∧
    (counts → ch.abort = false → all → last → ∃ t, exec (.writeAck p f) s = .next t ∧
      t.dev.fld (R.SH_RQ_STATE_STATE k) = 2 ∧ t.dev.fld (R.SH_RQ_STATE_CODE k) = 0 ∧ bytes t ∧
      t.dev.channel k = { ch with pieces := left } ∧ (s.dev.fld (R.SH_RQ_CTRL_IRQ k) = 1 →
          t.dev.fld ⟨R.SH_STATUS, 7, 7⟩ = 1) ∧
      only t (R.SH_RQ_DONE_BYTES_BYTES k :: (if s.dev.fld (R.SH_RQ_CTRL_IRQ k) = 1 then endFlds k else
        [R.SH_RQ_STATE_STATE k, R.SH_RQ_STATE_CODE k]))) ∧
    (counts → ch.abort = true → last → ∃ t, exec (.writeAck p f) s = .next t ∧ bytes t ∧
       s.dev.FailsChannel t.dev k 10 left ∧
      only t (R.SH_RQ_DONE_BYTES_BYTES k :: endFlds k)) ∧
    (counts → ch.abort = true ∨ all → ¬ last → ∃ t, exec (.writeAck p f) s = .next t ∧ bytes t ∧
      t.dev.channel k = { ch with pieces := left } ∧ only t [R.SH_RQ_DONE_BYTES_BYTES k]) ∧
    (mail → ∃ t, exec (.regRsp p f) s = .next t ∧ t.dev.sh.outstanding = gone ∧ t.dev.fld R.SH_RMT_STATUS_BUSY = 0 ∧
      t.dev.fld R.SH_RMT_STATUS_RESULT = f.status.toNat % 16 ∧ t.dev.fld ⟨R.SH_STATUS, 9, 9⟩ = 1 ∧
      t.dev.get R.SH_RMT_DATA = (if g.subtype = 1 ∧ f.status = 0 then f.arg0 else s.dev.get R.SH_RMT_DATA) ∧
      only t [R.SH_RMT_STATUS_BUSY, R.SH_RMT_STATUS_RESULT, R.SH_RMT_DATA_DATA, ⟨R.SH_STATUS, 9, 9⟩, R.SH_STATUS_SEQ]) ∧
    (noted → ∃ t, exec (.notice p f) s = .next t ∧ t.dev.fld (R.SH_NOTICE_SRCn_SRC n) = f.src.toNat ∧
      t.dev.fld (R.SH_NOTICE_SRCn_COUNT n) = (s.dev.fld (R.SH_NOTICE_SRCn_COUNT n) + 1) % 2 ^ 16 ∧
      t.dev.get (R.SH_NOTICE_TIMEn n) = f.arg1 ∧ t.dev.fld ⟨R.SH_NOTICE_STATUS, n, n⟩ = 1 ∧ KeepsStore s t ∧
      (f.dest ≠ 0 ∨ f.hops.toNat ≤ 1 → (∀ e < 48, s.dev.pinMode e ≠ 4) → OnlyFlds s t (counted ++ [R.SH_NOTICE_SRCn_SRC n,
        R.SH_NOTICE_SRCn_COUNT n, R.SH_NOTICE_TIMEn_TIME n, ⟨R.SH_NOTICE_STATUS, n, n⟩, R.SH_NOTICE_STATUS_SEQ]))) ∧
    (s.dev.linkUp p = true → s.dev.rxBuffered p + f.bytes ≤ 524288 → s.dev.configured = true →
       headerOk (asKind f 7 0) = true →
      f.dest = 0 → s.dev.unitAddr ≠ 0 → f.src.toNat ≠ s.dev.unitAddr → 2 ≤ f.hops.toNat → s.dev.linkUp (1 - p) = true →
      s.dev.hasRoom (1 - p) (.device (asKind f 7 0)) = true → ∃ t, exec (.notice p f) s = .next t ∧ KeepsStore s t ∧
        s.dev.Queues t.dev (1 - p) (.device { asKind f 7 0 with hops := BitVec.ofNat 8 (f.hops.toNat - 1) }))

/-- Channel commands (R420, R540), in every state: GO of a busy channel does nothing. Otherwise it ends the channel's
command at once with STATE 3 and a code: 12 with SH in its safe state; 13 for no other unit; 11 without its local
clearing, for no bytes, past the clearing's end, and where the clearing refuses the port, logged; 9 with both
links down. Otherwise the channel is busy with CODE 0 and DONE_BYTES 0, and its pieces are issued, at most 32
outstanding: reads of the local range, or READ_REQ frames. A first read that the stack refuses ends it with 11.
ABORT drops the pieces not yet sent, and ends the command with code 10 once none that was sent is outstanding.

The mailbox, timeouts and notices (R420 to R423), in every state: a busy mailbox ignores GO; a request to no other
unit ends with result 10, and one that finds no link, or of an unconfigured unit, with 9; otherwise the mailbox is
busy and its request frame leaves. A request without a response in time is sent again with RETRY and counted; after
RETRIES times it ends with code 8, and with code 9 where it finds no link; one that has ended ends nothing. NOTICE_TX
sends its notice, stamped on Calendar A.

What a command of a block does is said of states in which that block can be used (log entry 8).

The model's readings and choices that it rests on: log entries 58 and 96. -/
def Obligations.RingRequestsSent : Prop :=
  (∀ (s : State) (k : Fin 4) (n : Nat) (c : Clearing), s.dev.blockHeld .SH = false →
    let ch := s.dev.channel k
    let dest := s.dev.fld (R.SH_RQ_CTRL_DEST k)
    let op := s.dev.fld (R.SH_RQ_CTRL_OP k)
    let len := s.dev.fld (R.SH_RQ_LENGTH_BYTES k)
    let off := s.dev.fld (R.SH_RQ_LOCAL_OFF_OFF k)
    let local' := s.dev.clearings.find? (·.number == s.dev.fld (R.SH_RQ_TAGS_LOCAL_CLR k))
    let only := fun (t : State) (l : List Fld) => OnlyFlds s { t with dev := { t.dev with sh := s.dev.sh } } l
    let fails := fun (code : Nat) (l : List Fld) => ∃ t, exec (.rqGo k) s = .next t ∧
      s.dev.FailsChannel t.dev k code ch.pieces ∧ only t (l ++ endFlds k)
    let cl := [⟨R.CL_FAULT_INFO, 31, 0⟩, R.CL_FAULT_ADDR_ADDR, R.CL_FAULT_COUNT_COUNT, ⟨R.CL_FAULT_STATUS, 31, 0⟩]
    let idle := s.dev.rqBusy k = false ∧ s.dev.shSafe = false
    let other := idle ∧ dest ≠ 0 ∧ dest ≠ s.dev.unitAddr
    let ranged := other ∧ local' = some c ∧ len ≠ 0 ∧ off + len ≤ c.size
    let refused := s.dev.refusal (probe ((s.dev.routeOf dest).getD 1) (c.base + off) (op == 1)) ≠ none
    let goes := ranged ∧ ¬ refused ∧ s.dev.routeOf dest = some n ∧ s.dev.configured = true ∧
      (∀ x ∈ ch.pieces, x.phase ≠ .reading)
    let most := if c.isProtected then 9136 else 9152
    let made := (List.range (min (32 - ch.pieces.length) (ceilDiv len most))).map fun i => (i * most,
        min most (len - i * most))
    let ids := made.zip (List.range' s.dev.sh.nextKey made.length)
    let reads := ids.map fun x => readRequests (portRequester n) (c.base + off + x.1.1) x.1.2 (.channelRead k x.2)
    let frames := (made.zip (List.range' s.dev.sh.nextTxn made.length)).map fun x =>
      { s.dev.newFrame 4 1 dest with
        txn := BitVec.ofNat 16 x.2, tag := BitVec.ofNat 16 (s.dev.fld (R.SH_RQ_TAGS_REMOTE_TAG k)),
            arg0 := BitVec.ofNat 32 x.1.2,
        offset := BitVec.ofNat 32 (s.dev.fld (R.SH_RQ_REMOTE_OFF_OFF k) + x.1.1) }
    let pieces := fun (ph : PiecePhase) => ids.map fun x =>
      ⟨x.2, ch.cmd + 1, x.1.1, c.base + off + x.1.1, x.1.2, ph, n, if ph = .sent then 0 else
        (burstSpans (c.base + off + x.1.1) x.1.2).length, [], false⟩
    let busy := fun (t : State) (ph : PiecePhase) => t.dev.fld (R.SH_RQ_STATE_STATE k) = 1 ∧
        t.dev.fld (R.SH_RQ_STATE_CODE k) = 0 ∧
      t.dev.fld (R.SH_RQ_DONE_BYTES_BYTES k) = 0 ∧ t.dev.channel k = { ch with
        cmd := ch.cmd + 1, next := (made.map (·.2)).sum, abort := false, guarded := c.isProtected, owner := c.owner,
            port := n,
        pieces := ch.pieces ++ pieces ph }
    let starts := [R.SH_RQ_STATE_STATE k, R.SH_RQ_STATE_CODE k, R.SH_RQ_DONE_BYTES_BYTES k]
    let sent := ch.pieces.filter (·.phase != .reading)
    let mine := sent.any (·.cmd == ch.cmd)
    (s.dev.rqBusy k = true → exec (.rqGo k) s = .next s) ∧
    (s.dev.rqBusy k = false → s.dev.shSafe = true → fails 12 []) ∧
    (idle → dest = 0 ∨ dest = s.dev.unitAddr → fails 13 []) ∧
    (other → local' = none → fails 11 []) ∧
    (other → local' = some c → len = 0 ∨ c.size < off + len → fails 11 []) ∧
    (ranged → refused → fails 11 cl) ∧
    (ranged → ¬ refused → s.dev.routeOf dest = none → fails 9 []) ∧
    (goes → op = 0 → (∀ q ∈ reads.flatten, s.dev.Passes q) → ∃ t, exec (.rqGo k) s = .next t ∧ busy t .reading ∧
      s.dev.Issues t.dev reads.flatten ∧ t.dev.sh.outstanding = s.dev.sh.outstanding ∧
      OnlyFlds s { t with dev := { t.dev with sh := s.dev.sh, fs := s.dev.fs } } (R.CL_TAG_STATUS_HIGH_WATER :: starts)) ∧
    (goes → op = 0 → (∃ q ∈ reads.flatten.head?, s.dev.fs.tagFree q = true ∧ s.dev.fs.waiting.any q.sameSource = false ∧
        ¬ s.dev.Passes q) → ∃ t, exec (.rqGo k) s = .next t ∧
      t.dev.fld (R.SH_RQ_STATE_STATE k) = 3 ∧ t.dev.fld (R.SH_RQ_STATE_CODE k) = 11 ∧ KeepsStore s t) ∧
    (goes → op = 1 → ∃ t, exec (.rqGo k) s = .next t ∧ busy t .sent ∧
      t.dev.sh.outstanding = s.dev.sh.outstanding ++ (ids.zip frames).map (fun x => ⟨.piece k x.1.2, x.2, 0⟩) ∧
      (∀ g ∈ frames, s.dev.stampFrame g ∈ (t.dev.classOf n (s.dev.stampFrame g).queue).queue ∨
        (n, .device g) ∈ t.dev.sh.waiting) ∧
      OnlyFlds s { t with dev := { t.dev with sh := s.dev.sh, rp := s.dev.rp } } starts) ∧
    (s.dev.rqBusy k = false → exec (.rqAbort k) s = .next s) ∧
    (s.dev.rqBusy k = true → mine = false → ∃ t, exec (.rqAbort k) s = .next t ∧ s.dev.FailsChannel t.dev k 10 sent ∧
      only t (endFlds k)) ∧
    (s.dev.rqBusy k = true → mine = true → ∃ t, exec (.rqAbort k) s = .next t ∧
      t.dev.channel k = { ch with abort := true, pieces := sent } ∧ only t [])) ∧
  (∀ (s : State) (txn : BitVec 16) (g : RingFrame) (r : Nat) (k : Fin 4) (id : Nat) (x : Piece),
     s.dev.blockHeld .SH = false →
    let dest := s.dev.fld R.SH_RMT_CTRL_DEST
    let wr := s.dev.fld R.SH_RMT_CTRL_WRITE
    let idle := s.dev.fld R.SH_RMT_STATUS_BUSY = 0
    let other := dest ≠ 0 ∧ dest ≠ s.dev.unitAddr
    let way := fun (to' : Nat) => s.dev.configured = true ∧ s.dev.routeOf to' ≠ none
    let q := { s.dev.newFrame 5 (1 - wr) dest with
      txn := BitVec.ofNat 16 s.dev.sh.nextTxn, offset := BitVec.ofNat 32 (4 * s.dev.fld R.SH_RMT_ADDR_OFFSET),
      arg0 := if wr = 1 then s.dev.get R.SH_RMT_DATA else 0 }
    let note := { s.dev.newFrame 7 0 (s.dev.fld R.SH_NOTICE_TX_DEST) with
      txn := BitVec.ofNat 16 s.dev.sh.nextTxn, arg0 := BitVec.ofNat 32 (s.dev.fld R.SH_NOTICE_TX_NUMBER),
      arg1 := BitVec.ofNat 32 (s.dev.calStamp 0) }
    let ends := [R.SH_RMT_STATUS_BUSY, R.SH_RMT_STATUS_RESULT, ⟨R.SH_STATUS, 9, 9⟩, R.SH_STATUS_SEQ]
    let only := fun (t : State) (l : List Fld) => OnlyFlds s { t with dev := { t.dev with sh := s.dev.sh, rp := s.dev.rp } } l
    let result := fun (t : State) (code : Nat) => t.dev.fld R.SH_RMT_STATUS_BUSY = 0 ∧
      t.dev.fld R.SH_RMT_STATUS_RESULT = code ∧ t.dev.fld ⟨R.SH_STATUS, 9, 9⟩ = 1 ∧ t.dev.rp = s.dev.rp ∧ only t ends
    let tries := s.dev.fld R.SH_RING_CFG_RETRIES
    let gone := s.dev.sh.outstanding.filter (·.frame.txn != txn)
    let mail := s.dev.requestOf txn = some ⟨.mailbox, g, r⟩
    let piece := s.dev.requestOf txn = some ⟨.piece k id, g, r⟩
    let out := fun (code : Nat) => (mail → ∃ t, exec (.ringRequestTimeout txn) s = .next t ∧ result t code ∧
        t.dev.sh.outstanding = gone) ∧
      (piece → (s.dev.channel k).pieces.find? (·.id == id) = some x → ∃ t, exec (.ringRequestTimeout txn) s = .next t ∧
        t.dev.sh.outstanding = gone ∧ PieceFails s t k x code [])
    (¬ idle → exec .rmtGo s = .next s) ∧
    (idle → ¬ other → ∃ t, exec .rmtGo s = .next t ∧ t.dev.sh = s.dev.sh ∧ result t 10) ∧
    (idle → other → ¬ way dest → ∃ t, exec .rmtGo s = .next t ∧ t.dev.sh = s.dev.sh ∧ result t 9) ∧
    (idle → other → way dest → ∃ t, exec .rmtGo s = .next t ∧ t.dev.fld R.SH_RMT_STATUS_BUSY = 1 ∧ s.dev.Leaves t.dev q ∧
      t.dev.sh.outstanding = s.dev.sh.outstanding ++ [⟨.mailbox, q, 0⟩] ∧ only t [R.SH_RMT_STATUS_BUSY]) ∧
    (s.dev.requestOf txn = none → exec (.ringRequestTimeout txn) s = .next s) ∧
    (tries ≤ r → out 8) ∧ (r < tries → ¬ way g.dest.toNat → out 9) ∧
    (r < tries → way g.dest.toNat → mail ∨ piece → ∃ t, exec (.ringRequestTimeout txn) s = .next t ∧
      s.dev.Leaves t.dev { g with flags := g.flags ||| 2 } ∧
      t.dev.sh.outstanding = s.dev.sh.outstanding.map (fun o => if o.frame.txn =
          txn then { o with resends := o.resends + 1 } else o) ∧
      t.dev.fld R.SH_RETRY_COUNT_COUNT = min (s.dev.fld R.SH_RETRY_COUNT_COUNT + 1) (2 ^ 32 - 1) ∧
      only t [R.SH_RETRY_COUNT_COUNT, ⟨R.SH_STATUS, 10, 10⟩, R.SH_STATUS_SEQ]) ∧
    ∃ t, exec .noticeTx s = .next t ∧ s.dev.Leaves t.dev note ∧ t.dev.sh.nextTxn = (s.dev.sh.nextTxn + 1) % 2 ^ 16 ∧
      t.dev.sh.outstanding = s.dev.sh.outstanding ∧ only t [])

/-- Streams (R426 to R428, R430, R445), in every state: EN of a stream whose checks pass starts it at frame 0 with its
bands; the first check that fails leaves EN 0 with its code and STR_ERR; EN 0 is stored. Of a tile that the port
accepts: one for a stream that is not enabled, past its size or across a band is dropped with cause 2 and counted;
a poisoned one only sets TILE_POISON; one of an old or a much later frame, or for a closed band, and one that its
clearing refuses, is discarded and counted. Another is kept until its rows, in the half of the buffer of its
frame, are written.

Sources (R424, R425), in every state: SEND of a source whose EN is 0 does nothing. It records an error, with STR_ERR,
and sends nothing: 4 from a busy source; 6 to no other unit; 1 without its clearing, and where the clearing refuses
the port, logged; 2 past the clearing's end; 3 with both links down. Otherwise the source is busy without error, with
its frame's tiles to send, and reads the first; a source without tiles counts its frame at once, and one whose read
the stack refuses records 1.

What a command of a block does is said of states in which that block can be used (log entry 8).

The model's readings and choices that it rests on: log entry 59. -/
def Obligations.StreamsAndSources : Prop :=
  (∀ (s : State) (m : Fin 16) (p : Fin 2) (f : RingFrame) (data : List Byte) (c : Clearing) (why : Nat × Nat),
    let size := s.dev.strRows m
    let bytes := s.dev.strRowBytes m
    let band := s.dev.strBandRows m
    let off := s.dev.fld (R.SH_STR_BUF_OFF_OFF m)
    let stride := s.dev.fld (R.SH_STR_BUF_STRIDE_STRIDE m)
    let pitch := s.dev.fld (R.SH_STR_PITCH_PITCH m)
    let clr := s.dev.clearings.find? (·.number == s.dev.fld (R.SH_STR_CTRL_CLEARING m))
    let room := (clr.map (·.size)).getD 0
    let checks := [(1, (clr.map Clearing.ringVisible).getD false),
      (2, ((s.dev.fp.leRec (s.dev.fld (R.SH_STR_CTRL_LE m))).map (·.head == s.dev.fld (R.SH_STR_CTRL_HEAD m))).getD false),
      (3, off % 64 == 0 && stride % 64 == 0 && decide (bytes ≤ pitch ∧ size ≠ 0 ∧ ceilDiv size band ≤ 64)),
      (4, decide ((size - 1) * pitch + bytes ≤ stride ∧ off + 2 * stride ≤ room))]
    let failed := (checks.find? (fun x => !x.2)).map (·.1)
    let q := Dev.taken (asKind f 3 0) data
    let here := s.dev.blockHeld .RP = false ∧ s.dev.Accepts p (asKind f 3 0) data ∧ f.tag.toNat = m
    let row := f.offset.toNat / 65536
    let byte := f.offset.toNat % 65536
    let rows := f.arg0.toNat / 65536
    let w := f.arg0.toNat % 65536
    let fits := s.dev.fld (R.SH_STR_CTRL_EN m) = 1 ∧ row + rows ≤ size ∧ byte + w ≤ bytes ∧
      (0 < rows → (row + rows - 1) / band = row / band)
    let d := (f.frame.toNat + 65536 - s.dev.strFrame m) % 65536
    let shut := ((s.dev.stream m).now[row / band]?.map (·.closed)).getD false
    let sound := here ∧ fits ∧ f.poison = false
    let taken := sound ∧ (d = 0 ∧ shut = false ∨ d = 1)
    let counted := [R.RP_RX_FRAMES_COUNT p 0, R.RP_RX_FRAMES_COUNT p 1, ⟨R.RP_STATUS p, 5, 5⟩, R.RP_STATUS_SEQ p]
    let stale := [R.SH_STALE_COUNT_COUNT, ⟨R.SH_STATUS, 10, 10⟩, R.SH_STATUS_SEQ]
    let cl := [⟨R.CL_FAULT_INFO, 31, 0⟩, R.CL_FAULT_ADDR_ADDR, R.CL_FAULT_COUNT_COUNT, ⟨R.CL_FAULT_STATUS, 31, 0⟩]
    let drops := [R.RP_DROP_INFO_CAUSE p, R.RP_DROP_INFO_SRC p, R.RP_DROP_COUNT_COUNT p, ⟨R.RP_STATUS p, 2, 2⟩]
    let lost := fun (t : State) => t.dev.fld R.SH_STALE_COUNT_COUNT =
        min (s.dev.fld R.SH_STALE_COUNT_COUNT + 1) (2 ^ 32 - 1)
    let discards := fun (ev : Nat) => ∃ t, exec (.tile p f) s = .next t ∧ lost t ∧ t.dev.fld ⟨R.SH_STATUS, ev, ev⟩ = 1 ∧
      OnlyFlds s t (counted ++ stale ++ [⟨R.SH_STATUS, ev, ev⟩])
    let at0 := (clr.map (·.base)).getD 0 + off + f.frame.toNat % 2 * stride + byte
    let refused := if s.dev.ringClosed c then some (4, c.number) else
      (s.dev.refusal (probe p at0 true)).or (if c.owner = f.owner.toNat then none else some (1, c.number))
    let ws := (List.range rows).flatMap fun i => writeRequests (portRequester p) (at0 + (row + i) * pitch)
      (slice data (i * w) w) (.ringWrite s.dev.sh.nextKey)
    (s.dev.blockHeld .SH = false → ∃ t, exec (.streamEnable m false) s = .next t ∧ t.dev.fld (R.SH_STR_CTRL_EN m) = 0 ∧
      OnlyFlds s t [R.SH_STR_CTRL_EN m]) ∧
    (s.dev.blockHeld .SH = false → ∀ e ∈ failed, ∃ t, exec (.streamEnable m true) s = .next t ∧
      t.dev.fld (R.SH_STR_CTRL_EN m) = 0 ∧ t.dev.fld (R.SH_STR_STATE_ERR m) = e ∧ t.dev.fld ⟨R.SH_STATUS, 6, 6⟩ = 1 ∧
      OnlyFlds s t [R.SH_STR_CTRL_EN m, R.SH_STR_STATE_ERR m, ⟨R.SH_STATUS, 6, 6⟩, R.SH_STATUS_SEQ]) ∧
    (s.dev.blockHeld .SH = false → failed = none → ∃ t, exec (.streamEnable m true) s = .next t ∧
      t.dev.fld (R.SH_STR_CTRL_EN m) = 1 ∧ t.dev.fld (R.SH_STR_STATE_ERR m) = 0 ∧ t.dev.strFrame m = 0 ∧
      t.dev.fld (R.SH_STR_STATE_BANDS m) = ceilDiv size band ∧
      t.dev.stream m = ⟨.replicate 64 ⟨0, false⟩, .replicate 64 ⟨0, false⟩⟩ ∧
      (∀ k < 16, k ≠ m.val → t.dev.stream k = s.dev.stream k) ∧
      OnlyFlds s { t with dev := { t.dev with sh := s.dev.sh } } [R.SH_STR_CTRL_EN m, R.SH_STR_STATE_ERR m,
        R.SH_STR_STATE_SFRAME m, R.SH_STR_STATE_BANDS m]) ∧
    (here → ¬ fits → ∃ t, exec (.tile p f) s = .next t ∧ t.dev.fld (R.RP_DROP_INFO_CAUSE p) = 2 ∧ lost t ∧
      t.dev.fld (R.RP_DROP_COUNT_COUNT p) = min (s.dev.fld (R.RP_DROP_COUNT_COUNT p) + 1) (2 ^ 32 - 1) ∧
      OnlyFlds s t (counted ++ drops ++ stale)) ∧
    (here → fits → f.poison = true → ∃ t, exec (.tile p f) s = .next t ∧ t.dev.fld ⟨R.SH_STATUS, 3, 3⟩ = 1 ∧
      OnlyFlds s t (counted ++ [⟨R.SH_STATUS, 3, 3⟩, R.SH_STATUS_SEQ])) ∧
    (sound → 32768 ≤ d ∨ d = 0 ∧ shut = true → discards 1) ∧
    (sound → 2 ≤ d → d < 32768 → discards 2) ∧
    (taken → clr = none → ∃ t, exec (.tile p f) s = .next t ∧ lost t ∧ OnlyFlds s t (counted ++ stale)) ∧
    (taken → clr = some c → refused = some why → ∃ t, exec (.tile p f) s = .next t ∧ lost t ∧
      t.dev.fld R.CL_FAULT_STATUS_ACCESS_FAULT = 1 ∧ OnlyFlds s t (counted ++ stale ++ cl)) ∧
    (taken → clr = some c → refused = none → ws ≠ [] → (∀ x ∈ ws, s.dev.Passes x) → ∃ t, exec (.tile p f) s = .next t ∧
      s.dev.Issues t.dev ws ∧ t.dev.sh = { s.dev.sh with
        nextKey := s.dev.sh.nextKey + 1, services := s.dev.sh.services.filter (·.key != s.dev.sh.nextKey) ++
          [⟨s.dev.sh.nextKey, p, q, [], [], ws.length, 0, [], false, false, false, 0⟩] } ∧
      OnlyFlds s { t with dev := { t.dev with sh := s.dev.sh, fs := s.dev.fs } } (counted ++
          [R.CL_TAG_STATUS_HIGH_WATER]))) ∧
  (∀ (s : State) (k : Fin 8) (n : Nat) (c : Clearing), s.dev.blockHeld .SH = false →
    let dest := s.dev.fld (R.SH_SRC_CTRL_DEST k)
    let off := s.dev.fld (R.SH_SRC_OFF_OFF k)
    let pitch := s.dev.fld (R.SH_SRC_PITCH_PITCH k)
    let rows := s.dev.fld (R.SH_SRC_SIZE_ROWS k)
    let bytes := s.dev.fld (R.SH_SRC_SIZE_ROW_BYTES k)
    let clr := s.dev.clearings.find? (·.number == s.dev.fld (R.SH_SRC_CLR_CLEARING k))
    let on := s.dev.fld (R.SH_SRC_CTRL_EN k) = 1
    let idle := on ∧ s.dev.fld (R.SH_SRC_STATE_BUSY k) = 0
    let other := idle ∧ dest ≠ 0 ∧ dest ≠ s.dev.unitAddr
    let named := other ∧ clr = some c
    let refused := s.dev.refusal (probe ((s.dev.routeOf dest).getD 1) c.base false) ≠ none
    let allowed := named ∧ ¬ refused
    let inside := off + (rows - 1) * pitch + bytes ≤ c.size
    let plan := Dev.tilePlan rows bytes (s.dev.fld (R.SH_SRC_CTRL_BAND_ROWS_M1 k) + 1) (if c.isProtected then 9136 else 9152)
    let reads := plan.head?.toList.flatMap fun x => (List.range x.rows).flatMap fun i =>
      readRequests (portRequester n) (c.base + off + (x.row + i) * pitch + x.byte) x.bytes (.sourceRead k)
    let goes := allowed ∧ inside ∧ s.dev.routeOf dest = some n
    let cl := [⟨R.CL_FAULT_INFO, 31, 0⟩, R.CL_FAULT_ADDR_ADDR, R.CL_FAULT_COUNT_COUNT, ⟨R.CL_FAULT_STATUS, 31, 0⟩]
    let errs := [R.SH_SRC_STATE_ERR k, ⟨R.SH_STATUS, 6, 6⟩, R.SH_STATUS_SEQ]
    let records := fun (e : Nat) (l : List Fld) => ∃ t, exec (.sourceSend k) s = .next t ∧
      t.dev.fld (R.SH_SRC_STATE_ERR k) = e ∧ t.dev.fld ⟨R.SH_STATUS, 6, 6⟩ = 1 ∧ OnlyFlds s t (l ++ errs)
    let holds := fun (t : State) (x : SourceSt) => t.dev.source k = x ∧
        ∀ j < 8, j ≠ k.val → t.dev.source j = s.dev.source j
    (¬ on → exec (.sourceSend k) s = .next s) ∧
    (on → s.dev.fld (R.SH_SRC_STATE_BUSY k) = 1 → records 4 []) ∧
    (idle → dest = 0 ∨ dest = s.dev.unitAddr → records 6 []) ∧
    (other → clr = none → records 1 []) ∧
    (named → refused → records 1 cl) ∧
    (allowed → ¬ inside → records 2 []) ∧
    (allowed → inside → s.dev.routeOf dest = none → records 3 []) ∧
    (goes → plan = [] → ∃ t, exec (.sourceSend k) s = .next t ∧ holds t ⟨[], 0, [], false, n⟩ ∧
      t.dev.fld (R.SH_SRC_STATE_BUSY k) = 0 ∧ t.dev.fld (R.SH_SRC_STATE_ERR k) = 0 ∧
      t.dev.fld (R.SH_SRC_STATE_FRAME k) = (s.dev.fld (R.SH_SRC_STATE_FRAME k) + 1) % 2 ^ 16 ∧
      OnlyFlds s { t with dev := { t.dev with sh := s.dev.sh } } [R.SH_SRC_STATE_BUSY k, R.SH_SRC_STATE_ERR k,
        R.SH_SRC_STATE_FRAME k]) ∧
    (goes → plan ≠ [] → (∀ x ∈ reads, s.dev.Passes x) → ∃ t, exec (.sourceSend k) s = .next t ∧
      holds t ⟨plan, reads.length, [], false, n⟩ ∧ s.dev.Issues t.dev reads ∧
      t.dev.fld (R.SH_SRC_STATE_BUSY k) = 1 ∧ t.dev.fld (R.SH_SRC_STATE_ERR k) = 0 ∧
      OnlyFlds s { t with dev := { t.dev with sh := s.dev.sh, fs := s.dev.fs } } [R.SH_SRC_STATE_BUSY k,
        R.SH_SRC_STATE_ERR k, R.CL_TAG_STATUS_HIGH_WATER]) ∧
    (goes → (∃ x ∈ reads.head?, s.dev.fs.tagFree x = true ∧ s.dev.fs.waiting.any x.sameSource = false ∧
       ¬ s.dev.Passes x) →
      ∃ t, exec (.sourceSend k) s = .next t ∧ holds t .reset ∧ t.dev.fld (R.SH_SRC_STATE_BUSY k) = 0 ∧
        t.dev.fld (R.SH_SRC_STATE_ERR k) = 1 ∧ t.dev.fld ⟨R.SH_STATUS, 6, 6⟩ = 1 ∧ KeepsStore s t))

/-- Shapers and almanacs (R435, R438 to R440), in every state: a write of a shaper register stores it, held to its
range, and gives the class, on both ports, an empty committed bucket and a full peak bucket. CHANGE checks the
pending list: a failure is recorded with ALM_ERROR; otherwise the change is armed for its base time, or, with that
gone, for the first of its cycles at least a microsecond ahead. CANCEL takes it back. At its time the list is in
force from entry 0, and ENTRY then follows the calendar. A start or an entry boundary with nothing armed or in
force does nothing.

What a command of a block does is said of states in which that block can be used (log entry 8).

The model's readings and choices that it rests on: log entries 60 and 61. -/
def Obligations.ShapersAndAlmanacs : Prop :=
  ∀ (s : State) (c : Fin 8) (w : Word) (p : Fin 2) (at' cal k : Nat),
    let open' := s.dev.blockHeld .SH = false
    let store := fun (r : Fin 4) (f : Fld) (v : Nat) => ∃ t, exec (.shaperWrite c r w) s = .next t ∧ t.dev.fld f = v ∧
      (∀ n < 2, (t.dev.classOf n c).committed = 0 ∧
        (t.dev.classOf n c).peak = (t.dev.fld (R.SH_TC_PBS_BYTES c) * Dev.bucketUnit : Nat)) ∧
      (∀ n < 2, ∀ j < 8, (t.dev.classOf n j).queue = (s.dev.classOf n j).queue) ∧
      OnlyFlds s { t with dev := { t.dev with rp := s.dev.rp } } [f]
    let count := s.dev.fld (R.SH_ALM_CTRL_PEND_COUNT p)
    let bank := s.dev.pendBank p
    let e := s.dev.almCheck p bank count
    let on := s.dev.fld (R.SH_ALM_CTRL_CAL p)
    let now := s.dev.calNow on
    let base := nearestTime now (s.dev.fld (R.SH_ALM_BASE_S_S p)) (s.dev.fld (R.SH_ALM_BASE_NS_NS p))
    let lag := calDiff ((now + 1000 * nsUnits) % calWrap) base
    let cycle := s.dev.almCycle p bank count
    let only := fun (t : State) (l : List Fld) => (∀ q < 2, q ≠ p.val → t.dev.almanac q = s.dev.almanac q) ∧
      OnlyFlds s { t with dev := { t.dev with sh := { t.dev.sh with almanacs := s.dev.sh.almanacs } } } l
    let armed := fun (t : State) (x : Option (Nat × Nat × Nat)) => t.dev.almanac p =
        { s.dev.almanac p with pending := x } ∧
      t.dev.fld (R.SH_ALM_STATE_PENDING p) = b2n x.isSome
    let states := [R.SH_ALM_STATE_ERR p, R.SH_ALM_STATE_PENDING p]
    (open' → store 0 (R.SH_TC_CIR_MBPS c) (min (bits w.toNat 16 0) 100000) ∧
      store 1 (R.SH_TC_PIR_MBPS c) (min (bits w.toNat 16 0) 100000) ∧ store 2 (R.SH_TC_CBS_BYTES c) (bits w.toNat 19 0) ∧
      store 3 (R.SH_TC_PBS_BYTES c) (max (bits w.toNat 19 0) 9236)) ∧
    (open' → e ≠ 0 → ∃ t, exec (.almanacChange p) s = .next t ∧ t.dev.fld (R.SH_ALM_STATE_ERR p) = e ∧
      t.dev.fld ⟨R.SH_STATUS, 5, 5⟩ = 1 ∧ OnlyFlds s t [R.SH_ALM_STATE_ERR p, ⟨R.SH_STATUS, 5, 5⟩, R.SH_STATUS_SEQ]) ∧
    (open' → e = 0 → lag ≤ 0 → ∃ t, exec (.almanacChange p) s = .next t ∧ t.dev.fld (R.SH_ALM_STATE_ERR p) = 0 ∧
      armed t (some (base, on, count)) ∧ only t states) ∧
    (open' → e = 0 → 0 < lag → ∃ t, exec (.almanacChange p) s = .next t ∧ t.dev.fld (R.SH_ALM_STATE_ERR p) = 0 ∧
      armed t (some ((base + ceilDiv lag.toNat cycle * cycle) % calWrap, on, count)) ∧ t.dev.fld ⟨R.SH_STATUS, 4, 4⟩ = 1 ∧
      only t (states ++ [⟨R.SH_STATUS, 4, 4⟩, R.SH_STATUS_SEQ])) ∧
    (open' → ∃ t, exec (.almanacCancel p) s = .next t ∧ armed t none ∧ only t [R.SH_ALM_STATE_PENDING p]) ∧
    (open' → (s.dev.almanac p).pending = none → exec (.almanacStart p) s = .next s) ∧
    (open' → (s.dev.almanac p).pending = some (at', cal, k) → ∃ t, exec (.almanacStart p) s = .next t ∧
      t.dev.fld (R.SH_ALM_STATE_RUNNING p) = 1 ∧ t.dev.fld (R.SH_ALM_STATE_PENDING p) = 0 ∧
      t.dev.fld (R.SH_ALM_STATE_OPER_BANK p) = bank ∧ t.dev.fld (R.SH_ALM_STATE_OPER_COUNT p) = k % 2 ^ 16 ∧
      t.dev.fld (R.SH_ALM_STATE_ENTRY p) = 0 ∧ t.dev.fld (R.SH_ALM_START_S_S p) = at' / secUnits % 2 ^ 32 ∧
      t.dev.fld (R.SH_ALM_START_NS_NS p) = at' / nsUnits % 1000000000 ∧ t.dev.almanac p = ⟨at', cal, none⟩ ∧
      only t [R.SH_ALM_STATE_RUNNING p, R.SH_ALM_STATE_PENDING p, R.SH_ALM_STATE_OPER_BANK p, R.SH_ALM_STATE_OPER_COUNT p,
        R.SH_ALM_STATE_ENTRY p, R.SH_ALM_START_S_S p, R.SH_ALM_START_NS_NS p]) ∧
    (open' → s.dev.fld (R.SH_ALM_STATE_RUNNING p) = 0 → exec (.almanacEntryBoundary p) s = .next s) ∧
    (open' → s.dev.fld (R.SH_ALM_STATE_RUNNING p) = 1 → ∃ t, exec (.almanacEntryBoundary p) s = .next t ∧
      t.dev.fld (R.SH_ALM_STATE_ENTRY p) = (s.dev.almNow p).1 % 256 ∧ OnlyFlds s t [R.SH_ALM_STATE_ENTRY p])


/-! ### Time and events (chapter 14) -/

/-- R458: SNAP latches the raw counter, both calendars and the active view of R460 at one instant, and changes nothing
else; TS_RAW_LO and TS_RAW_HI read the raw counter itself. Of every state in which TS can be used. -/
def Obligations.SnapshotLatchesAllTimes : Prop :=
  ∀ s : State, s.dev.blockHeld .TS = false →
    (∃ t, exec .tsSnap s = .next t ∧ t.dev.get64 (R.TS_SNAP_RAW 0) (R.TS_SNAP_RAW 1) = s.dev.raw % 2 ^ 64 ∧
      (∀ y time, y = 0 ∧ time = s.dev.calNow 0 ∨ y = 1 ∧ time = s.dev.calNow 1 ∨ y = 2 ∧ time = s.dev.activeTime →
        t.dev.get64 (R.TS_SNAP_y_S_LO y) (R.TS_SNAP_y_S_HI y) = time / secUnits ∧
        t.dev.fld (R.TS_SNAP_y_NS_NS y) = time / nsUnits % 1000000000) ∧
      OnlyFlds s t ([0, 1].map R.TS_SNAP_RAW_RAW ++ [0, 1, 2].flatMap (fun y => [⟨R.TS_SNAP_y_S_LO y, 31, 0⟩,
        ⟨R.TS_SNAP_y_S_HI y, 31, 0⟩, ⟨R.TS_SNAP_y_NS y, 31, 0⟩]))) ∧
    (∀ i < 2, s.dev.regRead (R.TS_RAW i) = BitVec.ofNat 32 (s.dev.raw / 2 ^ (32 * i)))

/-- Calendars (R455, R459), in every state: SET and STEP move a calendar that is not LOCKED, with a count in
STEP_COUNT and its hint gone, and only set STEP_REFUSED on one that is; where no pin has a schedule nothing else
changes. A write of RATE stores it within ±1,000 ppm and does not move the time.

The active view and hints (R460, R461, R467), in every state: a switch shows the other calendar, with an event, and
the view's time does not jump; with AUTO_ACTIVE 1 the write switches nothing; each slew step takes at most 1.25 ns off
the residual, which SLEWING shows. The write of a hint's seconds latches it with the calendar's stamp; a hint that
expires is not valid.

What a command of a block does is said of states in which that block can be used (log entry 8).

The model's readings and choices that it rests on: log entry 60. -/
def Obligations.CalendarsAndHints : Prop :=
  (∀ (s : State) (x : Fin 2) (w : Word), s.dev.blockHeld .TS = false →
    let unlocked := s.dev.calState x ≠ 2
    let set := (s.dev.get64 (R.TS_CAL_SET_S_LO x) (R.TS_CAL_SET_S_HI x) * secUnits +
      s.dev.fld (R.TS_CAL_SET_NS_NS x) * nsUnits) % calWrap
    let by' := signed 32 (s.dev.fld (R.TS_CAL_STEP_S_STEP x)) * 1000000000 + signed 32 (s.dev.fld (R.TS_CAL_STEP_NS_STEP x))
    let step := (((s.dev.calNow x : Int) + by' * nsUnits) % calWrap).toNat
    let apart := fun (t : State) => ∀ y < 2, y ≠ x.val → t.dev.cal y = s.dev.cal y
    (∀ c ∈ [Instr.calSet x, .calStep x], ¬ unlocked → ∃ t, exec c s = .next t ∧ t.dev.fld ⟨R.TS_STATUS, 5, 5⟩ = 1 ∧
      OnlyFlds s t [⟨R.TS_STATUS, 5, 5⟩, R.TS_STATUS_SEQ]) ∧
    (∀ c ∈ [(Instr.calSet x, set), (.calStep x, step)], unlocked → ∃ t, exec c.1 s = .next t ∧ t.dev.calNow x = c.2 ∧
      t.dev.cal x = { s.dev.cal x with anchorRaw := s.dev.raw, anchorT := c.2, hint := none } ∧ apart t ∧
      t.dev.fld (R.TS_CAL_HINT_AGE_VALID x) = 0 ∧
      t.dev.fld (R.TS_CAL_STEP_COUNT_COUNT x) = min (s.dev.fld (R.TS_CAL_STEP_COUNT_COUNT x) + 1) (2 ^ 32 - 1) ∧
      KeepsStore s t ∧ ((∀ n < 48, (s.dev.pin n).schedule = none) → OnlyTime s t [R.TS_CAL_HINT_AGE_VALID x,
        R.TS_CAL_STEP_COUNT_COUNT x, ⟨R.TS_STATUS, 8, 8⟩, R.TS_STATUS_SEQ])) ∧
    ∃ t, exec (.calRateWrite x w) s = .next t ∧ t.dev.calRate x = clampRate (signed 32 w.toNat) ∧
      t.dev.calNow x = s.dev.calNow x ∧ apart t ∧ OnlyTime s t [R.TS_CAL_RATE_RATE x]) ∧
  (∀ (s : State) (x : Fin 2) (w : Word), s.dev.blockHeld .TS = false →
    let same := fun (t : State) => t.dev.ts = { s.dev.ts with residual := t.dev.ts.residual }
    let h : Hint := ⟨w.toNat + s.dev.fld (R.TS_CAL_HINT_S_HI_S x) * 2 ^ 32, s.dev.calNow x / nsUnits % 1000000000,
      s.dev.calStamp x, s.dev.raw⟩
    let shows := fun (t : State) => t.dev.fld R.TS_STATUS_SLEWING = b2n (t.dev.ts.residual != 0)
    (s.dev.fld R.TS_CTRL_AUTO_ACTIVE = 1 → exec (.activeWrite x) s = .next s) ∧
    (s.dev.fld R.TS_CTRL_AUTO_ACTIVE = 0 → s.dev.activeNow = x → ∃ t, exec (.activeWrite x) s = .next t ∧
      t.dev.fld R.TS_CTRL_ACTIVE = x ∧ OnlyFlds s t [R.TS_CTRL_ACTIVE]) ∧
    (s.dev.fld R.TS_CTRL_AUTO_ACTIVE = 0 → s.dev.activeNow ≠ x → ∃ t, exec (.activeWrite x) s = .next t ∧
      t.dev.fld R.TS_CTRL_ACTIVE = x ∧ t.dev.activeNow = x ∧ t.dev.activeTime = s.dev.activeTime ∧ same t ∧ shows t ∧
      t.dev.fld ⟨R.TS_STATUS, 4, 4⟩ = 1 ∧ OnlyTime s t [R.TS_CTRL_ACTIVE, R.TS_STATUS_ACTIVE_NOW, R.TS_STATUS_SLEWING,
        ⟨R.TS_STATUS, 4, 4⟩, R.TS_STATUS_SEQ]) ∧
    (∃ t, exec .activeViewSlewStep s = .next t ∧ t.dev.ts.residual.natAbs = s.dev.ts.residual.natAbs - 81920 ∧
      (0 < t.dev.ts.residual → 0 < s.dev.ts.residual) ∧ (t.dev.ts.residual < 0 → s.dev.ts.residual < 0) ∧ same t ∧
         shows t ∧
      OnlyTime s t [R.TS_STATUS_SLEWING]) ∧
    (∃ t, exec (.hintWrite x w) s = .next t ∧ t.dev.cal x = { s.dev.cal x with hint := some h } ∧
       (∀ y < 2, y ≠ x.val → t.dev.cal y = s.dev.cal y) ∧
      t.dev.fld (R.TS_CAL_HINT_S_LO_S x) = w.toNat ∧ t.dev.fld (R.TS_CAL_HINT_AGE_VALID x) = 1 ∧
      t.dev.fld (R.TS_CAL_HINT_AGE_MS x) = 0 ∧
      OnlyTime s t [R.TS_CAL_HINT_S_LO_S x, R.TS_CAL_HINT_AGE_VALID x, R.TS_CAL_HINT_AGE_MS x]) ∧
    ∃ t, exec (.hintExpire x) s = .next t ∧ t.dev.fld (R.TS_CAL_HINT_AGE_VALID x) = 0 ∧
      OnlyFlds s t [R.TS_CAL_HINT_AGE_VALID x])

/-- Time messages received (R462 to R466), in every state, on a port whose link is up and whose buffer has room: one
that no enabled instance takes counts in RX_DROP; another counts in RX_MSGS. A one-step Sync on the slave port,
and the Follow_Up of the two-step Sync that waits, give the servo its offset; a two-step Sync waits, and a Sync
wakes a calendar in HOLDOVER. An Announce renews its sender's record, and the instance decides anew; one of this
unit's own clock counts only. A Pdelay_Req is answered by a one-step Pdelay_Resp. A one-step Pdelay_Resp of the
exchange, and the follow-up of a two-step one, give the filter the link delay. A message that fits nothing that
waits counts only.

Time messages sent, and losses (R462, R463, R466, R467), in every state: a port that is not MASTER, or cannot send,
sends no Sync and no Announce; a Sync without a valid hint is withheld, with its event; each message sent joins its
port's queue, with the next sequence number of its kind. A port that hears no Announce in time forgets its masters,
and its instance decides anew. A LOCKED calendar that hears no Sync in time goes to HOLDOVER, with UNLOCK; another
stays as it is.

What a command of a block does is said of states in which that block can be used (log entry 8).

The model's readings and choices that it rests on: log entries 31, 62, 97 and 103. -/
def Obligations.TimeMessages : Prop :=
  (∀ (s : State) (p x : Fin 2) (m : TimeMsg) (a : Announce) (w : TwoStep) (e : Exchange) (t4 : Nat) (part : Int),
    s.dev.blockHeld .RP = false → s.dev.linkUp p = true → s.dev.rxBuffered p + 82 ≤ 524288 →
    let on := s.dev.fld (R.TS_RP_CFG_EN p) = 1
    let mine := on ∧ s.dev.calsOf m.domain.toNat = [x.val]
    let alone := on ∧ s.dev.calsOf a.domain.toNat = [x.val]
    let rx := [R.RP_RX_FRAMES_COUNT p 0, R.RP_RX_FRAMES_COUNT p 1, ⟨R.RP_STATUS p, 5, 5⟩, R.RP_STATUS_SEQ p]
    let counted := rx ++ [R.TS_RP_RX_MSGS_COUNT p, ⟨R.TS_STATUS, 8, 8⟩, R.TS_STATUS_SEQ]
    let plus := fun (t : State) (f : Fld) => t.dev.fld f = min (s.dev.fld f + 1) (2 ^ 32 - 1)
    let msgs := [Instr.syncRx p m, .followUpRx p m, .pdelayReqRx p m, .pdelayRespRx p m, .pdelayRespFollowUpRx p m]
    let only := fun (t : State) => plus t (R.TS_RP_RX_MSGS_COUNT p) ∧ OnlyTime s t counted
    let idle := fun (c : Instr) => ∃ t, exec c s = .next t ∧ t.dev.ts = s.dev.ts ∧ only t
    let slave := s.dev.slavePort x = some p.val
    let st := if s.dev.calState x = 3 then 1 else s.dev.calState x
    let good := if s.dev.calState x = 3 then 0 else (s.dev.cal x).good
    let bad := if s.dev.calState x = 3 then 0 else (s.dev.cal x).bad
    let t2 := s.dev.calFine x s.dev.phase
    let theta := fun (t2 : Nat) (corr : Int) => calDiff t2 (Dev.msgTime m) - corr - (s.dev.fld (R.TS_RP_PDELAY_NS p) : Nat) -
      s.dev.asymmetry p
    let still := ∀ n < 48, (s.dev.pin n).schedule = none
    let port := fun (d : Dev) => at' (d.cal x).ports p ⟨[], none⟩
    let waits := (port s.dev).sync = some w ∧ w.seq = m.seq.toNat ∧ w.clock = m.source.clock.toNat ∧
      w.port = m.source.port.toNat
    let ds : DataSet := ⟨a.gm.toNat, a.priority1.toNat, a.clockClass.toNat, a.accuracy.toNat, a.variance.toNat,
      a.priority2.toNat, a.steps.toNat, a.source.clock.toNat, a.source.port.toNat, p⟩
    let own := a.source.clock.toNat = s.dev.clockId
    let same := fun (f : Foreign) => f.ds.senderClock == ds.senderClock && f.ds.senderPort == ds.senderPort
    let seen := (port s.dev).masters
    let matched := (s.dev.tsPort p).exchange = some e ∧ e.seq = m.seq.toNat ∧ m.requester = s.dev.portId p
    let filtered := fun (t : State) (delay : Int) => t.dev.tsPort p =
        { s.dev.tsPort p with measured := true, exchange := none } ∧
      t.dev.fld (R.TS_RP_PDELAY_NS p) = min (if (s.dev.tsPort p).measured then
        (s.dev.fld (R.TS_RP_PDELAY_NS p) : Int) + (delay - (s.dev.fld (R.TS_RP_PDELAY_NS p) : Nat)) / 8 else delay).toNat (2 ^ 32 - 1) ∧
      plus t (R.TS_RP_RX_MSGS_COUNT p) ∧ OnlyTime s t (R.TS_RP_PDELAY_NS p :: counted)
    (∀ c ∈ msgs, ¬ on ∨ s.dev.calsOf m.domain.toNat = [] → ∃ t, exec c s = .next t ∧ plus t (R.TS_RP_RX_DROP_COUNT p) ∧
      t.dev.ts = s.dev.ts ∧
      OnlyTime s t (rx ++ [R.TS_RP_RX_DROP_COUNT p, ⟨R.TS_STATUS, 8, 8⟩, R.TS_STATUS_SEQ])) ∧
    (¬ on ∨ s.dev.calsOf a.domain.toNat = [] → ∃ t, exec (.announceRx p a) s = .next t ∧
       plus t (R.TS_RP_RX_DROP_COUNT p) ∧
      OnlyFlds s t (rx ++ [R.TS_RP_RX_DROP_COUNT p, ⟨R.TS_STATUS, 8, 8⟩, R.TS_STATUS_SEQ])) ∧
    (mine → ¬ slave → idle (.syncRx p m) ∧ idle (.followUpRx p m)) ∧
    (mine → slave → m.twoStep = false → ∃ t, exec (.syncRx p m) s = .next t ∧
      s.dev.ServoActs t.dev x p (theta t2 m.correction.toInt) st good bad ∧ plus t (R.TS_RP_RX_MSGS_COUNT p) ∧
      KeepsStore s t ∧ (still → OnlyTime s t (counted ++ servoFlds x))) ∧
    (mine → slave → m.twoStep = true → ∃ t, exec (.syncRx p m) s = .next t ∧ plus t (R.TS_RP_RX_MSGS_COUNT p) ∧
      (port t.dev).sync = some ⟨m.seq.toNat, m.source.clock.toNat, m.source.port.toNat, t2, m.correction.toInt⟩ ∧
      (port t.dev).masters = seen ∧ t.dev.calState x = st ∧ t.dev.calNow x = s.dev.calNow x ∧
      OnlyTime s t (if s.dev.calState x = 3 then counted ++ servoFlds x else counted)) ∧
    (mine → slave → waits → ∃ t, exec (.followUpRx p m) s = .next t ∧ (port t.dev).sync = none ∧
      s.dev.ServoActs t.dev x p (theta w.t2 (w.correction + m.correction.toInt)) (s.dev.calState x) (s.dev.cal x).good
        (s.dev.cal x).bad ∧ plus t (R.TS_RP_RX_MSGS_COUNT p) ∧ KeepsStore s t ∧
      (still → OnlyTime s t (counted ++ servoFlds x))) ∧
    (mine → (port s.dev).sync = none ∨ (port s.dev).sync = some w ∧ ¬ (w.seq = m.seq.toNat ∧
       w.clock = m.source.clock.toNat ∧
      w.port = m.source.port.toNat) → idle (.followUpRx p m)) ∧
    (alone → own → ∃ t, exec (.announceRx p a) s = .next t ∧ plus t (R.TS_RP_RX_MSGS_COUNT p) ∧ OnlyFlds s t counted) ∧
    (alone → ¬ own → ∃ t, exec (.announceRx p a) s = .next t ∧ plus t (R.TS_RP_RX_MSGS_COUNT p) ∧ s.dev.Decides t.dev x ∧
      (port t.dev).masters = (match seen.find? same with
        | some f => seen.map (fun g => if same g then ⟨ds, min 2 (f.seen + 1)⟩ else g)
        | none => seen ++ [⟨ds, 1⟩]) ∧ t.dev.calNow x = s.dev.calNow x ∧ OnlyTime s t (counted ++ decisionFlds x)) ∧
    (mine → ∃ t, exec (.pdelayReqRx p m) s = .next t ∧ plus t (R.TS_RP_RX_MSGS_COUNT p) ∧
       s.dev.Sends t.dev p (.time (.pdelayResp
        ⟨m.domain, s.dev.portId p, m.seq, false, m.correction, 0, 0, m.source⟩) x s.dev.rawTime) ∧
      OnlyFlds s { t with dev := { t.dev with rp := s.dev.rp, sh := s.dev.sh, freeCount := s.dev.freeCount } } counted) ∧
    (mine → (s.dev.tsPort p).exchange = none ∨ (s.dev.tsPort p).exchange = some e ∧ ¬ (e.seq = m.seq.toNat ∧
      m.requester = s.dev.portId p) → idle (.pdelayRespRx p m) ∧ idle (.pdelayRespFollowUpRx p m)) ∧
    (mine → matched → m.twoStep = false → ∃ t, exec (.pdelayRespRx p m) s = .next t ∧
      filtered t (((s.dev.rawTime : Int) - e.sent - m.correction.toInt) / 2)) ∧
    (mine → matched → m.twoStep = true → ∃ t, exec (.pdelayRespRx p m) s = .next t ∧ only t ∧ t.dev.tsPort p =
      { s.dev.tsPort p with exchange := some { e with got := some (s.dev.rawTime, m.correction.toInt - (Dev.msgTime m : Int)) } }) ∧
    (mine → matched → e.got = none → idle (.pdelayRespFollowUpRx p m)) ∧
    (mine → matched → e.got = some (t4, part) → ∃ t, exec (.pdelayRespFollowUpRx p m) s = .next t ∧
      filtered t (((t4 : Int) - e.sent - (part + (Dev.msgTime m : Int) + m.correction.toInt)) / 2))) ∧
  (∀ (s : State) (x p : Fin 2), s.dev.blockHeld .TS = false →
    let can := s.dev.fld (R.TS_RP_CFG_EN p) = 1 ∧ s.dev.linkUp p = true
    let master := can ∧ s.dev.portState x p = 6
    let hinted := s.dev.fld (R.TS_CAL_HINT_AGE_VALID x) = 1 ∧ (s.dev.cal x).hint ≠ none
    let domain := BitVec.ofNat 8 (s.dev.calDomain x)
    let id := s.dev.portId p
    let msg := fun (q : Nat) => (⟨domain, id, BitVec.ofNat 16 q, false, 0, 0, 0, ⟨0, 0⟩⟩ : TimeMsg)
    let g := ((s.dev.cal x).parent).getD (s.dev.ownSet x)
    let a : Announce := ⟨domain, id, BitVec.ofNat 16 (s.dev.cal x).seqAnnounce, BitVec.ofNat 64 g.gm,
        BitVec.ofNat 8 g.priority1,
      BitVec.ofNat 8 g.clockClass, BitVec.ofNat 8 g.accuracy, BitVec.ofNat 16 g.variance, BitVec.ofNat 8 g.priority2,
      BitVec.ofNat 16 (if g.gm = s.dev.clockId then 0 else g.steps + 1)⟩
    let sends := fun (t : State) (f : TimeFrame) => s.dev.Sends t.dev p (.time f x 0) ∧
      OnlyFlds s { t with dev := { t.dev with ts := s.dev.ts, rp := s.dev.rp, sh := s.dev.sh } } []
    let next := fun (q : Nat) => (q + 1) % 2 ^ 16
    (¬ master → exec (.syncTx x p) s = .next s ∧ exec (.announceTx x p) s = .next s) ∧
    (master → ¬ hinted → ∃ t, exec (.syncTx x p) s = .next t ∧ t.dev.fld ⟨R.TS_STATUS, 6, 6⟩ = 1 ∧
      OnlyFlds s t [⟨R.TS_STATUS, 6, 6⟩, R.TS_STATUS_SEQ]) ∧
    (master → hinted → ∃ t, exec (.syncTx x p) s = .next t ∧ sends t (.sync (msg (s.dev.cal x).seqSync)) ∧
      t.dev.cal x = { s.dev.cal x with seqSync := next (s.dev.cal x).seqSync }) ∧
    (master → ∃ t, exec (.announceTx x p) s = .next t ∧ sends t (.announce a) ∧
      t.dev.cal x = { s.dev.cal x with seqAnnounce := next (s.dev.cal x).seqAnnounce }) ∧
    (¬ can ∨ s.dev.calMode x = 0 → exec (.pdelayReqTx x p) s = .next s) ∧
    (can → s.dev.calMode x ≠ 0 → ∃ t, exec (.pdelayReqTx x p) s = .next t ∧
       sends t (.pdelayReq (msg (s.dev.tsPort p).seq)) ∧
      t.dev.tsPort p = { s.dev.tsPort p with seq := next (s.dev.tsPort p).seq }) ∧
    (s.dev.calMode x = 0 → exec (.announceReceiptTimeout x p) s = .next s) ∧
    (s.dev.calMode x ≠ 0 → ∃ t, exec (.announceReceiptTimeout x p) s = .next t ∧ s.dev.Decides t.dev x ∧
      (at' (t.dev.cal x).ports p ⟨[], none⟩).masters = [] ∧ t.dev.calNow x = s.dev.calNow x ∧
         OnlyTime s t (decisionFlds x)) ∧
    (s.dev.calState x = 2 → ∃ t, exec (.syncLossHoldover x) s = .next t ∧ t.dev.calState x = 3 ∧
      t.dev.fld ⟨R.TS_STATUS, 2 * x + 1, 2 * x + 1⟩ = 1 ∧ t.dev.calNow x = s.dev.calNow x ∧
      t.dev.calRate x = s.dev.calRate x ∧ OnlyTime s t (servoFlds x)) ∧
    (s.dev.calState x ≠ 2 → exec (.syncLossHoldover x) s = .next s))

/-- Schedules of an event pin (R469 to R472), in every state: a new MODE ends the schedule in force, is stored as OFF
where an unconfigured unit may not have it, and drives the inactive level, or LEVEL in mode 3. ARM outside
SCHEDULE mode does nothing; times too short give error 1; otherwise the schedule is armed, with the pin inactive.
A start less than 200 ns ahead is late: with SKIP_LATE the schedule goes on at the first pulse at least 200 ns
ahead, with LATE and SKIPPED; otherwise one pulse comes at once, with LATE. Each edge drives the pin; an active
one counts; after the last one, and by DISARM, the schedule ends, with DONE unless it was a notice's pulse. A pin
without a schedule has no edge.

Capture (R473), in every state, of a pin that no enabled link names: an edge at a pin in an output mode does nothing;
one at a pin that is OFF, or that EDGE does not select, only shows in PIN. A selected one that finds 16 entries is
dropped, with OVERFLOW and a count in MISS; another enters the FIFO with the calendar's stamp, counts in EDGES, and
broadcasts its notice if NOTICE_EN asks for one, unless the pin's last one is still unsent. POP takes the oldest entry
out and shows the next.

What a command of a block does is said of states in which that block can be used (log entry 8).

The model's readings and choices that it rests on: log entries 64 and 65. -/
def Obligations.EventPins : Prop :=
  (∀ (s : State) (n : Fin 48) (m : Fin 8) (q : Schedule), s.dev.blockHeld .EV = false →
    let sched := (s.dev.pin n).schedule
    let pol := s.dev.fld (R.EV_CTRL_POL n)
    let safe := s.dev.isSafe Block.EV.base
    let mode := if s.dev.configured = false ∧ 2 ≤ m.val ∧ m.val ≤ 4 then 0 else m.val
    let pns := s.dev.fld (R.EV_PERIOD_NS_NS n)
    let wns := s.dev.fld (R.EV_WIDTH_NS n)
    let count := s.dev.fld (R.EV_COUNT_COUNT n)
    let period := if pns = 0 then 0 else pns * fineNs + s.dev.fld (R.EV_PERIOD_FRAC_FRAC n)
    let short := wns < 10 ∨ 0 < pns ∧ pns < 40 ∨ 0 < pns ∧ count ≠ 1 ∧ period < (wns + 20) * fineNs
    let cal := s.dev.fld (R.EV_CTRL_CAL n)
    let start := nearestTime (s.dev.viewTime cal) (s.dev.fld (R.EV_START_S_S n)) (s.dev.fld (R.EV_START_NS_NS n)) * 65536
    let new : Schedule := ⟨start, period, wns * fineNs, if pns = 0 then some 1 else if count =
        0 then none else some count, 0,
      cal, none, false⟩
    let ta := s.dev.fineNow cal
    let late := fineDiff (start % fineWrap) ta < 200 * fineNs
    let skip := s.dev.fld (R.EV_CTRL_SKIP_LATE n) = 1
    let kept := Dev.resumeAt new ((ta + 200 * fineNs) % fineWrap)
    let edge := (ta + Config.lateLead s.dev.freeCount % 201 * fineNs) % fineWrap
    let off := (edge + wns * fineNs) % fineWrap
    let armed := s.dev.pinMode n = 2 ∧ ¬ short
    let holds := fun (t : State) (x : Option Schedule) (high : Bool) =>
      t.dev.pin n = { s.dev.pin n with schedule := x, high := high }
    let drives := fun (t : State) (active : Bool) => t.dev.fld (R.EV_STATUS_PIN n) =
        if active && !safe then 1 - pol else pol
    let event := fun (t : State) (b : Nat) => t.dev.fld ⟨R.EV_STATUS n, b, b⟩ = 1
    let lateAt := fun (t : State) (x : Nat) => t.dev.fld (R.EV_LATE_S_S n) = x / fineNs / 1000000000 % 2 ^ 32 ∧
      t.dev.fld (R.EV_LATE_NS_NS n) = x / fineNs % 1000000000
    let counts := fun (t : State) => t.dev.fld (R.EV_EDGES_COUNT n) =
        min (s.dev.fld (R.EV_EDGES_COUNT n) + 1) (2 ^ 32 - 1)
    let done := [R.EV_STATUS_ARMED n, ⟨R.EV_STATUS n, 1, 1⟩, R.EV_STATUS_SEQ n]
    let ended := fun (t : State) (x : Schedule) (l : List Fld) => (x.notice = false →
        t.dev.fld (R.EV_STATUS_ARMED n) = 0 ∧
        event t 1 ∧ OnlyPin s t n (l ++ done)) ∧ (x.notice = true → OnlyPin s t n l)
    let arms := [R.EV_STATUS_ARMED n, R.EV_CAP_INFO_ERR n, R.EV_STATUS_PIN n]
    let lates := [R.EV_LATE_S_S n, R.EV_LATE_NS_NS n, ⟨R.EV_STATUS n, 2, 2⟩, R.EV_STATUS_SEQ n]
    let edges := [R.EV_EDGES_COUNT n, ⟨R.EV_STATUS n, 5, 5⟩, R.EV_STATUS_SEQ n]
    let level := fun (t : State) => (mode = 2 ∨ mode = 4 → drives t false) ∧
      (mode = 3 → t.dev.fld (R.EV_STATUS_PIN n) = if safe then pol else s.dev.fld (R.EV_CTRL_LEVEL n))
    (sched = none → ∃ t, exec (.evModeWrite n m) s = .next t ∧ t.dev.fld (R.EV_CTRL_MODE n) = mode ∧
       holds t none false ∧ level t ∧
      (2 ≤ mode → mode ≤ 4 → OnlyPin s t n [R.EV_CTRL_MODE n, R.EV_STATUS_PIN n]) ∧
      (mode < 2 ∨ 4 < mode → OnlyPin s t n [R.EV_CTRL_MODE n])) ∧
    (sched = some q → ∃ t, exec (.evModeWrite n m) s = .next t ∧ t.dev.fld (R.EV_CTRL_MODE n) = mode ∧
       holds t none false ∧
      level t ∧ (mode < 2 ∨ 4 < mode → drives t false) ∧ ended t q [R.EV_CTRL_MODE n, R.EV_STATUS_PIN n]) ∧
    (s.dev.pinMode n ≠ 2 → exec (.evArm n) s = .next s) ∧
    (s.dev.pinMode n = 2 → short → ∃ t, exec (.evArm n) s = .next t ∧ t.dev.fld (R.EV_CAP_INFO_ERR n) = 1 ∧
      OnlyFlds s t [R.EV_CAP_INFO_ERR n]) ∧
    (armed → ¬ late → ∃ t, exec (.evArm n) s = .next t ∧ holds t (some new) false ∧ drives t false ∧
      t.dev.fld (R.EV_STATUS_ARMED n) = 1 ∧ t.dev.fld (R.EV_CAP_INFO_ERR n) = 0 ∧ OnlyPin s t n arms) ∧
    (armed → late → skip → new.has kept = true → ∃ t, exec (.evArm n) s = .next t ∧
       holds t (some { new with k := kept }) false ∧
      drives t false ∧ t.dev.fld (R.EV_STATUS_ARMED n) = 1 ∧ t.dev.fld (R.EV_CAP_INFO_ERR n) = 0 ∧ lateAt t ta ∧
          event t 2 ∧
      event t 4 ∧ OnlyPin s t n (⟨R.EV_STATUS n, 4, 4⟩ :: arms ++ lates)) ∧
    (armed → late → skip → new.has kept = false → ∃ t, exec (.evArm n) s = .next t ∧ holds t none false ∧ drives t false ∧
      t.dev.fld (R.EV_STATUS_ARMED n) = 0 ∧ t.dev.fld (R.EV_CAP_INFO_ERR n) = 0 ∧ lateAt t ta ∧ event t 1 ∧ event t 2 ∧
      event t 4 ∧ OnlyPin s t n (⟨R.EV_STATUS n, 1, 1⟩ :: ⟨R.EV_STATUS n, 4, 4⟩ :: arms ++ lates)) ∧
    (armed → late → ¬ skip → ∃ t, exec (.evArm n) s = .next t ∧
      holds t (some { new with k := Dev.resumeAt new ((off + 20 * fineNs) % fineWrap), off := some off }) true ∧
          drives t true ∧
      t.dev.fld (R.EV_STATUS_ARMED n) = 1 ∧ t.dev.fld (R.EV_CAP_INFO_ERR n) = 0 ∧ lateAt t edge ∧ event t 2 ∧ counts t ∧
      OnlyPin s t n (arms ++ lates ++ edges)) ∧
    (sched = none → exec (.evDisarm n) s = .next s ∧ exec (.evScheduledEdge n) s = .next s) ∧
    (sched = some q → ∃ t, exec (.evDisarm n) s = .next t ∧ holds t none false ∧ drives t false ∧
      ended t q [R.EV_STATUS_PIN n]) ∧
    (sched = some q → q.off ≠ none → q.has q.k = false → ∃ t, exec (.evScheduledEdge n) s = .next t ∧ holds t none false ∧
      drives t false ∧ ended t q [R.EV_STATUS_PIN n]) ∧
    (sched = some q → q.off = none → q.has q.k = false → ∃ t, exec (.evScheduledEdge n) s = .next t ∧
      holds t none (s.dev.pin n).high ∧ ended t q []) ∧
    (sched = some q → q.off ≠ none → q.has q.k = true → ∃ t, exec (.evScheduledEdge n) s = .next t ∧
      holds t (some { q with off := none }) false ∧ drives t false ∧ OnlyPin s t n [R.EV_STATUS_PIN n]) ∧
    (sched = some q → q.off = none → q.has q.k = true → ∃ t, exec (.evScheduledEdge n) s = .next t ∧
      holds t (some { q with k := q.k + 1, off := some ((q.time q.k + q.width) % fineWrap) }) true ∧ drives t true ∧
          counts t ∧
      OnlyPin s t n (R.EV_STATUS_PIN n :: edges))) ∧
  (∀ (s : State) (n : Fin 48) (level : Bool) (us : Nat) (sink : SinkStatus) (e : Nat × Bool) (rest : List (Nat × Bool)),
    s.dev.blockHeld .EV = false → (∀ h < 8, s.dev.fld (R.DP_HPD_CTRL_EN h) = 0 ∨ s.dev.fld (R.DP_HPD_CTRL_SRC h) ≠ n) →
    let c := Instr.evPinEdge n level us sink
    let chosen := bit (s.dev.fld (R.EV_CTRL_EDGE n)) (if level then 0 else 1) = true
    let takes := s.dev.pinMode n = 1 ∧ chosen
    let fifo := (s.dev.pin n).fifo
    let new := fifo ++ [(s.dev.viewTime (s.dev.fld (R.EV_CTRL_CAL n)) / nsUnits % 2 ^ 32, level)]
    let plus := fun (t : State) (f : Fld) => t.dev.fld f = min (s.dev.fld f + 1) (2 ^ 32 - 1)
    let shows := fun (t : State) (q : List (Nat × Bool)) => t.dev.fld (R.EV_STATUS_FIFO_LEVEL n) = q.length % 32 ∧
      t.dev.fld (R.EV_CAP_INFO_VALID n) = b2n (!q.isEmpty) ∧
      (∀ x ∈ q.head?, t.dev.fld (R.EV_CAP_INFO_LEVEL n) = b2n x.2 ∧ t.dev.fld (R.EV_CAP_TS_TS n) = x.1 % 2 ^ 32)
    let head := [R.EV_STATUS_FIFO_LEVEL n, R.EV_CAP_INFO_VALID n, R.EV_CAP_INFO_LEVEL n, R.EV_CAP_TS_TS n]
    let enters := fun (t : State) => (t.dev.pin n).fifo = new ∧ shows t new ∧ t.dev.fld ⟨R.EV_STATUS n, 0, 0⟩ = 1 ∧
      plus t (R.EV_EDGES_COUNT n) ∧ t.dev.fld (R.EV_STATUS_PIN n) = b2n level
    let flds := head ++ [R.EV_STATUS_PIN n, R.EV_EDGES_COUNT n, ⟨R.EV_STATUS n, 0, 0⟩, ⟨R.EV_STATUS n, 5, 5⟩,
      R.EV_STATUS_SEQ n]
    let notes := s.dev.fld (R.EV_CTRL_NOTICE_EN n) = 1
    let unsent := ((s.dev.pin n).notice.map s.dev.noticeUnsent).getD false
    let note := { s.dev.newFrame 7 0 0 with
      txn := BitVec.ofNat 16 s.dev.sh.nextTxn, arg0 := BitVec.ofNat 32 (s.dev.fld (R.EV_CTRL_NUMBER n)),
      arg1 := BitVec.ofNat 32 (s.dev.calStamp 0) }
    (2 ≤ s.dev.pinMode n → exec c s = .next s) ∧
    (s.dev.pinMode n = 0 ∨ s.dev.pinMode n = 1 ∧ ¬ chosen → ∃ t, exec c s = .next t ∧
      t.dev.fld (R.EV_STATUS_PIN n) = b2n level ∧ OnlyFlds s t [R.EV_STATUS_PIN n]) ∧
    (takes → 16 ≤ fifo.length → ∃ t, exec c s = .next t ∧ t.dev.fld ⟨R.EV_STATUS n, 3, 3⟩ = 1 ∧
       plus t (R.EV_MISS_COUNT n) ∧
      t.dev.fld (R.EV_STATUS_PIN n) = b2n level ∧ OnlyFlds s t [R.EV_STATUS_PIN n, R.EV_MISS_COUNT n,
        ⟨R.EV_STATUS n, 3, 3⟩, ⟨R.EV_STATUS n, 5, 5⟩, R.EV_STATUS_SEQ n]) ∧
    (takes → fifo.length < 16 → ¬ notes → ∃ t, exec c s = .next t ∧ enters t ∧
      t.dev.pin n = { s.dev.pin n with fifo := new } ∧ OnlyPin s t n flds) ∧
    (takes → fifo.length < 16 → notes → unsent = true → ∃ t, exec c s = .next t ∧ enters t ∧ plus t (R.EV_MISS_COUNT n) ∧
      t.dev.pin n = { s.dev.pin n with fifo := new } ∧ OnlyPin s t n (R.EV_MISS_COUNT n :: flds)) ∧
    (takes → fifo.length < 16 → notes → unsent = false → ∃ t, exec c s = .next t ∧ enters t ∧ s.dev.Leaves t.dev note ∧
      t.dev.pin n = { s.dev.pin n with fifo := new, notice := some s.dev.sh.nextTxn } ∧
      OnlyPin s { t with dev := { t.dev with sh := s.dev.sh, rp := s.dev.rp } } n flds) ∧
    (fifo = e :: rest → ∃ t, exec (.evPop n) s = .next t ∧ t.dev.pin n = { s.dev.pin n with fifo := rest } ∧
       shows t rest ∧
      OnlyPin s t n head) ∧
    (fifo = [] → ∃ t, exec (.evPop n) s = .next t ∧ t.dev.pin n = s.dev.pin n ∧ shows t [] ∧ OnlyPin s t n head))

/-! ### Interrupts (chapter 15) -/

/-- Edges, claims and completions (R25, R482, R485, R488, R489, R492, R493), in every state: an edge reaches IC only
if it is on its way and no earlier word of its island's crossing is; it latches its pending bit and counts in its
closed group, which opens at COUNT. A claim returns the best candidate with its priority, clears its pending bit
and pushes it; without one it returns 0x3FF and changes nothing else. A completion is stored; of the top entry it
pops it, any other puts the target into its fault; one for a target in its fault, or of 0x3FF, does nothing more.
A write of PEND sets and clears the pending bits of assigned sources. Each then computes the request lines anew.

What a command of a block does is said of states in which that block can be used (log entry 8).

The model's readings and choices that it rests on: log entry 85. -/
def Obligations.InterruptController : Prop :=
  ∀ (s : State) (x : Fin 16) (src : Fin 1024) (n : BitVec 10) (w : Fin 32) (v : Word) (b : List Nat) (e : StackEntry)
    (rest : List StackEntry),
    let first := s.dev.ic.inflight.find? (fun b => b.any (fun e => islandOf e == islandOf src.val))
    let latch := ⟨R.IC_PEND_w (src.val / 32), src.val % 32, src.val % 32⟩
    let g := s.dev.srcCoal src
    let grp := s.dev.coal g
    let closed := g ≠ 0 ∧ grp.isOpen = false
    let lands := fun (t : State) => t.dev.ic.inflight = Dev.takeEdge src s.dev.ic.inflight ∧
        s.dev.KeepsTargets t.dev none ∧
      s.dev.LinesFollow t.dev none []
    let usable := s.dev.blockHeld .IC = false
    let can := usable ∧ s.dev.canClaim x = true ∧ s.dev.bestCandidate x = some src.val
    let level := s.dev.levelOf src
    let stored := R.IC_T_COMPLETE_SOURCE x
    let live := usable ∧ (s.dev.icTarget x).fault = false ∧ n ≠ 0x3FF
    let top := (s.dev.icTarget x).stack = e :: rest ∧ e.src = n.toNat
    (first = none → exec (.icSourceEdge src) s = .next s) ∧
    (first = some b → src.val ∉ b → exec (.icSourceEdge src) s = .next s) ∧
    (first = some b → src.val ∈ b → assigned src = false → ∃ t, exec (.icSourceEdge src) s = .next t ∧ lands t ∧
      s.dev.KeepsGroups t.dev none ∧ OnlyIc s t [R.IC_PBA_PENDING]) ∧
    (first = some b → src.val ∈ b → assigned src = true → ∃ t, exec (.icSourceEdge src) s = .next t ∧ lands t ∧
      t.dev.pend src = true ∧ (¬ closed → s.dev.KeepsGroups t.dev none) ∧
      (closed → s.dev.KeepsGroups t.dev (some g) ∧ t.dev.coal g =
        ⟨decide (s.dev.fld (R.IC_COALg_COUNT (g - 1)) ≤ grp.count + 1), grp.count + 1, some (grp.since.getD s.dev.raw)⟩) ∧
      OnlyIc s t [latch, R.IC_PBA_PENDING]) ∧
    (usable → s.dev.canClaim x = false → exec (.icClaim x) s = .next { s with dev := { s.dev with
      out := s.dev.out ++ [.readData (R.IC_T_CLAIM x) 0x3FF] } }) ∧
    (can → ∃ t, exec (.icClaim x) s = .next t ∧ t.dev.pend src = false ∧
      (t.dev.icTarget x).stack = ⟨src, s.dev.srcPrio src⟩ :: (s.dev.icTarget x).stack ∧ (t.dev.icTarget x).fault = false ∧
      s.dev.KeepsTargets t.dev (some x) ∧ s.dev.KeepsGroups t.dev none ∧
      s.dev.LinesFollow t.dev (some x) [.readData (R.IC_T_CLAIM x) (BitVec.ofNat 32 (s.dev.srcPrio src * 2 ^ 24 + src))] ∧
      (level = true → OnlyIc s t [latch, R.IC_PBA_PENDING]) ∧
      (level = false → t.dev.fld R.IC_EMPTY_CLAIM_COUNT = min (s.dev.fld R.IC_EMPTY_CLAIM_COUNT + 1) (2 ^ 32 - 1) ∧
        OnlyIc s t [latch, R.IC_PBA_PENDING, R.IC_EMPTY_CLAIM_COUNT, R.IC_STATUS_STAT_SAT, R.IC_STATUS_SEQ])) ∧
    (usable → ¬ live → ∃ t, exec (.icComplete x n) s = .next t ∧ t.dev.fld stored = n.toNat ∧ OnlyFlds s t [stored]) ∧
    (live → top → ∃ t, exec (.icComplete x n) s = .next t ∧ t.dev.fld stored = n.toNat ∧ (t.dev.icTarget x).stack = rest ∧
      (t.dev.icTarget x).fault = false ∧ s.dev.KeepsTargets t.dev (some x) ∧ s.dev.KeepsGroups t.dev none ∧
      s.dev.LinesFollow t.dev (some x) [] ∧ OnlyIc s t [stored, R.IC_PBA_PENDING]) ∧
    (live → (s.dev.icTarget x).stack.head?.map (·.src) ≠ some n.toNat → ∃ t, exec (.icComplete x n) s = .next t ∧
      t.dev.fld stored = n.toNat ∧ (t.dev.icTarget x).stack = (s.dev.icTarget x).stack ∧ (t.dev.icTarget x).fault = true ∧
      (t.dev.icTarget x).faultSrc = n.toNat ∧ t.dev.fld R.IC_STATUS_STACK_FAULT = 1 ∧ s.dev.KeepsTargets t.dev (some x) ∧
      s.dev.KeepsGroups t.dev none ∧ s.dev.LinesFollow t.dev none [] ∧
      OnlyIc s t [stored, R.IC_PBA_PENDING, R.IC_STATUS_STACK_FAULT, R.IC_STATUS_SEQ]) ∧
    (usable → ∃ t, exec (.icPendWrite w v) s = .next t ∧
      (∀ k < 32, t.dev.pend (32 * w + k) = if assigned (32 * w + k) then bit v.toNat k else
        s.dev.pend (32 * w + k) && bit v.toNat k) ∧ t.dev.ic.inflight = s.dev.ic.inflight ∧
            s.dev.KeepsTargets t.dev none ∧
      s.dev.LinesFollow t.dev none [] ∧ OnlyIc s t [R.IC_PEND_w_PEND w, R.IC_PBA_PENDING])

/-- R490: RESET empties the stack of its target and clears FAULT and FAULT_SRC, so that IC_Tt_STATE shows depth 0 and
no top entry. It touches no pending bit, brings no edge on its way, and leaves the stack and the fault of every
other target. Of every state in which IC can be used. -/
def Obligations.TargetResetEmptiesStack : Prop :=
  ∀ (s : State) (x : Fin 16), s.dev.blockHeld .IC = false →
    ∃ t, exec (.icTargetReset x) s = .next t ∧ (t.dev.icTarget x).stack = [] ∧
      (t.dev.icTarget x).fault = false ∧ (t.dev.icTarget x).faultSrc = 0 ∧
      bits (t.dev.regRead (R.IC_T_STATE x)).toNat 31 31 = 0 ∧ bits (t.dev.regRead (R.IC_T_STATE x)).toNat 28 24 = 0 ∧
      bits (t.dev.regRead (R.IC_T_STATE x)).toNat 9 0 = 0x3FF ∧
      (∀ src < 1024, t.dev.pend src = s.dev.pend src) ∧ t.dev.ic.inflight = s.dev.ic.inflight ∧
      s.dev.KeepsTargets t.dev (some x) ∧ s.dev.KeepsGroups t.dev none ∧ s.dev.LinesFollow t.dev none [] ∧
      OnlyIc s t [R.IC_PBA_PENDING]

/-- Coalescing, wake latches and MSI-X (R96, R486, R493, R494, R500), in every state: a flush, and the timer of a
closed group that counts with a time set, open the group if one of its sources is pending; another timer does
nothing. A wake input's edge sets its latch, with an edge to IC where CTL runs; one that is set, or without a
latch, does nothing; WAKE_CLR clears the one latch. A unit that is not ready answers a write of the MSI-X
capability with a retry. Disabling MSI-X clears the Pending bits; enabling it makes each line at 1 a delivery
event; with it enabled, a message that was masked goes out as its vector is unmasked.

What a command of a block does is said of states in which that block can be used (log entry 8).

The model's readings and choices that it rests on: log entries 8, 66 and 85. -/
def Obligations.InterruptDelivery : Prop :=
  ∀ (s : State) (g : Fin 32) (w : Fin 64) (mask : Bool) (u : Fin 16),
    let grp := s.dev.coal g
    let counts := grp.isOpen = false ∧ grp.since ≠ none ∧ s.dev.fld (R.IC_COALg_TIME_US (g.val - 1)) ≠ 0
    let opens := fun (t : State) => t.dev.coal g = (if s.dev.pendingSources.any (fun k => s.dev.srcCoal k == g.val) then
        { grp with isOpen := grp.isOpen || g != 0 } else if grp.isOpen || g != 0 then ⟨false, 0, none⟩ else grp) ∧
      s.dev.KeepsGroups t.dev (some g) ∧ s.dev.KeepsTargets t.dev none ∧ s.dev.LinesFollow t.dev none [] ∧
      t.dev.ic.inflight = s.dev.ic.inflight ∧ OnlyIc s t [R.IC_PBA_PENDING]
    let latched := fun (t : State) (set : Bool) => t.dev.wakeLatch w = set ∧
      (∀ k < 64, k ≠ w.val → t.dev.wakeLatch k = s.dev.wakeLatch k)
    let only := fun (t : State) => OnlyFlds s { t with dev := { t.dev with rx := s.dev.rx } } []
    let retries := fun (c : Instr) => exec c s = .next { s with dev := { s.dev with out := s.dev.out ++ [.configRetry] } }
    let capable := s.dev.configRetry = false
    let line := fun (k : Nat) => (s.dev.icTarget k).line && !s.dev.ic.msixEnable
    let hidden := fun (f : Bool) (k : Nat) => f || s.dev.fld (R.IC_MSIXv_CTRL_MASK k) == 1
    let msgs := fun (p : Nat → Bool) => ((List.range 14).filter p).map OutMsg.msix
    let vectors := fun (t : State) (f : Bool) => t.dev.ic = { s.dev.ic with msixEnable := true, funcMask := f } ∧
      t.dev.out = s.dev.out ++ msgs (fun k => line k && !hidden f k) ++ msgs (fun k => s.dev.pba k && !hidden f k) ∧
      (∀ k < 14, t.dev.pba k = ((s.dev.pba k || line k) && hidden f k)) ∧
      OnlyFlds s { t with dev := { t.dev with ic := s.dev.ic, out := s.dev.out } } [R.IC_PBA_PENDING]
    let goes := s.dev.ic.msixEnable && !s.dev.ic.funcMask
    let sees := fun (k : Nat) => if k = u.val then false else hidden false k
    (s.dev.blockHeld .IC = false → ∃ t, exec (.coalFlush g) s = .next t ∧ opens t) ∧
    (counts → ∃ t, exec (.coalTimer g) s = .next t ∧ opens t) ∧
    (¬ counts → exec (.coalTimer g) s = .next s) ∧
    (54 < w.val ∨ s.dev.wakeLatch w = true → exec (.wakeInputEdge w) s = .next s) ∧
    (w.val ≤ 54 → s.dev.wakeLatch w = false → ∃ t, exec (.wakeInputEdge w) s = .next t ∧ latched t true ∧
      t.dev.ic.inflight = s.dev.ic.inflight ++ (if s.dev.chain.controlUp then [[0x0C0 + w.val]] else []) ∧ only t) ∧
    (s.dev.blockHeld .IC = false → ∃ t, exec (.wakeClr w) s = .next t ∧ latched t false ∧
      t.dev.ic.inflight = s.dev.ic.inflight ∧ only t) ∧
    (¬ capable → retries (.msixEnableWrite true mask) ∧ retries (.msixEnableWrite false mask) ∧
       retries (.msixUnmask none)) ∧
    (capable → ∃ t, exec (.msixEnableWrite false mask) s = .next t ∧ t.dev.fld R.IC_PBA_PENDING = 0 ∧
      t.dev.ic = { s.dev.ic with msixEnable := false, funcMask := mask } ∧
      OnlyFlds s { t with dev := { t.dev with ic := s.dev.ic } } [R.IC_PBA_PENDING]) ∧
    (capable → ∃ t, exec (.msixEnableWrite true mask) s = .next t ∧ vectors t mask) ∧
    (capable → s.dev.ic.msixEnable = true → ∃ t, exec (.msixUnmask none) s = .next t ∧ vectors t false) ∧
    (capable → s.dev.ic.msixEnable = false → exec (.msixUnmask none) s =
      .next { s with dev := { s.dev with ic := { s.dev.ic with funcMask := false } } }) ∧
    (s.dev.blockHeld .IC = false → ∃ t, exec (.msixUnmask (some u)) s = .next t ∧
      t.dev.fld (R.IC_MSIXv_CTRL_MASK u) = 0 ∧ t.dev.ic = s.dev.ic ∧
      t.dev.out = s.dev.out ++ msgs (fun k => goes && s.dev.pba k && !sees k) ∧
      (∀ k < 14, t.dev.pba k = (s.dev.pba k && (!goes || sees k))) ∧
      OnlyFlds s { t with dev := { t.dev with ic := s.dev.ic, out := s.dev.out } } [R.IC_MSIXv_CTRL_MASK u,
          R.IC_PBA_PENDING])

/-! ### The board (chapters 05 and 16) -/

/-- Temperatures (R187, R191, R516, R517), in every state: a reading of the logic sensors shows the hottest in TJ_C
and its comparison in WARN; a trip sets TRIPPED and puts the unit into the CRST state, held; a stack's reading
shows in its temperature register and, above 85 °C, in HOT. In POR the sensors show in no register and no trip
acts.

The management port (R494, R518), in every state: a write sets the pointer to its first byte modulo 16, a read returns
the byte at the pointer and moves it on; each is a wake input's edge of latch 54; in POR the port does nothing.

The test port (R519), in every state: each instruction is selected with what its data register captures,
SAMPLE/PRELOAD also loads the boundary register; nothing else of the unit changes.

What a command of a block does is said of states in which that block can be used (log entry 8).

The model's readings and choices that it rests on: log entry 67. -/
def Obligations.TemperaturesManagementAndTest : Prop :=
  (∀ (s : State) (l : List Int) (n : Fin 4) (c : Int),
    let por := s.dev.chain.power = .por
    let stack := s.dev.blockHeld .FS = false
    (¬ por → ∃ t, exec (.thermalUpdate l) s = .next t ∧ t.dev.fld R.SY_THERMAL_TJ_C = unsigned 8 (Dev.hottest l) ∧
      t.dev.fld R.SY_THERMAL_WARN = b2n (decide ((s.dev.fld R.SY_THERMAL_WARN_C : Int) ≤ Dev.hottest l)) ∧
      t.dev.board = { s.dev.board with logicC := l } ∧
      OnlyFlds s { t with dev := { t.dev with board := s.dev.board } } [R.SY_THERMAL_TJ_C, R.SY_THERMAL_WARN]) ∧
    (por → exec (.thermalUpdate l) s = .next { s with dev := { s.dev with board := { s.dev.board with logicC := l } } }) ∧
    (por → exec .thermalTrip s = .next s) ∧
    (¬ por → ∃ t, exec .thermalTrip s = .next t ∧ t.dev.fld R.SY_THERMAL_TRIPPED = 1 ∧ t.dev.chain.tripHold = true ∧
      t.dev.chain.addr = .held ∧ t.dev.inReset = true ∧ t.dev.fp = Floorplan.blank ∧ t.dev.loader = LoaderSt.reset ∧
      t.dev.fld R.SY_RESET_CAUSE_CRST = 1 ∧ t.dev.otp = s.dev.otp ∧ KeepsStore s t) ∧
    (stack → ∃ t, exec (.hot n c) s = .next t ∧ t.dev.fld (R.FS_STATE_HOT n) = b2n (decide (85 < c)) ∧
      t.dev.getRx (Block.FS.base + n) 4 = BitVec.ofNat 32 (unsigned 8 c) ∧
      t.dev.board = { s.dev.board with stackC := s.dev.board.stackC.set n c } ∧
      OnlyFlds s { t with dev := { t.dev with board := s.dev.board, rx := s.dev.rx } } [R.FS_STATE_HOT n])) ∧
  (∀ (s : State) (b : Byte) (l : List Byte),
    let por := s.dev.chain.power = .por
    let wakes := fun (t : State) => t.dev.wakeLatch 54 = true ∧ (∀ k < 54, t.dev.wakeLatch k = s.dev.wakeLatch k) ∧
      t.dev.ic.inflight = s.dev.ic.inflight ++ (if s.dev.chain.controlUp && !s.dev.wakeLatch 54 then [[0x0F6]] else [])
    let only := fun (t : State) => OnlyFlds s { t with dev := { t.dev with rx := s.dev.rx, board := s.dev.board, out := s.dev.out } } []
    let bytes := [0x84, 0x16, 0xB1, s.dev.unitAddr, b2n s.dev.ready + 2 * b2n s.dev.configured +
      4 * s.dev.fld R.SY_THERMAL_WARN + 8 * s.dev.fld R.SY_THERMAL_TRIPPED + 16 * b2n s.dev.cerrDrive,
      s.dev.fld R.SY_THERMAL_TJ_C] ++ (List.range 4).map (fun k => unsigned 8 (s.dev.board.stackC.getD k 0))
    (por → exec (.mgmtWrite l) s = .next s ∧ exec .mgmtRead s = .next s) ∧
    (¬ por → ∃ t, exec (.mgmtWrite []) s = .next t ∧ wakes t ∧ t.dev.board = s.dev.board ∧ t.dev.out = s.dev.out ∧
       only t) ∧
    (¬ por → ∃ t, exec (.mgmtWrite (b :: l)) s = .next t ∧ wakes t ∧
       t.dev.board = { s.dev.board with ptr := b.toNat % 16 } ∧
      t.dev.out = s.dev.out ∧ only t) ∧
    (¬ por → ∃ t, exec .mgmtRead s = .next t ∧ wakes t ∧ t.dev.board =
       { s.dev.board with ptr := (s.dev.board.ptr + 1) % 16 } ∧
      t.dev.out = s.dev.out ++ [.mgmtByte (BitVec.ofNat 8 (bytes.getD s.dev.board.ptr 0xFF))] ∧ only t)) ∧
  (∀ (s : State) (pins data : BitVec 180),
    let cells := s.dev.board.boundary.foldr (fun b a => b2n b + 2 * a) 0
    let does := fun (c : Instr) (x : BoardSt) => exec c s = .next { s with dev := { s.dev with board := x } }
    let selects := fun (c : Instr) (tap : TapInstr) (shift : Nat) => does c { s.dev.board with tap := tap, shift := shift }
    selects .tapReset .idcode 0xB841654F ∧ selects .idcode .idcode 0xB841654F ∧ selects .extest .extest cells ∧
      selects .clamp .clamp 0 ∧ selects .highz .highz 0 ∧ selects .bypass .bypass 0 ∧
      does (.samplePreload pins data) { s.dev.board with
        tap := .samplePreload, shift := pins.toNat, boundary := (List.range 180).map (fun i => data.getLsbD i) })
end

