-- ==== Sys2Proof/Laws/Sparse.lean ====
section
/-!
SUPPORT. Lemmas about sparse stores and bit fields: what a cell holds after a write, that writes keep the canonical
form, and what a field reads after a field is written.
-/
namespace Sys2Proof.Machine

/-! Sparse stores. -/

theorem cellAt_putCell {α : Type} (d : Nat → α) (m : List (Nat × α)) (a b : Nat) (x : α) :
    cellAt d (putCell m a x) b = if b = a then x else cellAt d m b := by
  induction m with
  | nil => simp [putCell, cellAt]
  | cons c t ih =>
    obtain ⟨k, y⟩ := c
    simp only [putCell]
    split
    · simp [cellAt]
    · split
      · subst_vars; simp only [cellAt]; split <;> simp_all
      · simp only [cellAt, ih]; split <;> split <;> simp_all

theorem cellAt_filter {α : Type} (d : Nat → α) (p : Nat → Bool) (m : List (Nat × α)) (b : Nat) :
    cellAt d (m.filter (fun c => p c.1)) b = if p b then cellAt d m b else d b := by
  induction m with
  | nil => simp [cellAt]
  | cons c t ih =>
    obtain ⟨k, y⟩ := c
    by_cases hk : p k = true
    · simp only [List.filter_cons, hk, if_true, cellAt, ih]
      split
      · subst_vars; simp [hk]
      · rfl
    · have hf : List.filter (fun c => p c.1) ((k, y) :: t) = List.filter (fun c => p c.1) t := by simp [hk]
      rw [hf, ih]
      by_cases hb : b = k
      · subst hb; simp [hk]
      · simp [cellAt, hb]

/-- What a cell holds after a write. -/
theorem cellAt_setCell {α : Type} [DecidableEq α] (d : Nat → α) (m : List (Nat × α)) (a b : Nat) (x : α) :
    cellAt d (setCell d m a x) b = if b = a then x else cellAt d m b := by
  unfold setCell
  split
  · rename_i h
    rw [cellAt_filter d (fun k => k != a)]
    by_cases hb : b = a
    · subst hb; simp [h]
    · simp [hb]
  · exact cellAt_putCell d m a b x

/-- The canonical form as a pairwise order with no cell at the unlisted value. -/
theorem wfCells_iff {α : Type} [DecidableEq α] (d : Nat → α) (m : List (Nat × α)) :
    wfCells d m = true ↔ (m.Pairwise (fun c e => c.1 < e.1)) ∧ ∀ c ∈ m, c.2 ≠ d c.1 := by
  induction m with
  | nil => simp [wfCells]
  | cons c t ih =>
    obtain ⟨k, y⟩ := c
    simp only [wfCells, Bool.and_eq_true, decide_eq_true_eq, List.all_eq_true, ih, List.pairwise_cons,
      List.mem_cons, forall_eq_or_imp]
    constructor
    · rintro ⟨⟨a, b⟩, c, e⟩; exact ⟨⟨b, c⟩, a, e⟩
    · rintro ⟨⟨b, c⟩, a, e⟩; exact ⟨⟨a, b⟩, c, e⟩

theorem wfCells_filter {α : Type} [DecidableEq α] (d : Nat → α) (p : Nat × α → Bool) (m : List (Nat × α))
    (h : wfCells d m = true) : wfCells d (m.filter p) = true := by
  rw [wfCells_iff] at *
  exact ⟨h.1.filter p, fun c hc => h.2 c (List.mem_filter.1 hc).1⟩

theorem mem_putCell {α : Type} (m : List (Nat × α)) (a : Nat) (x : α) (c : Nat × α) (h : c ∈ putCell m a x) :
    c = (a, x) ∨ c ∈ m := by
  induction m with
  | nil => simpa [putCell] using h
  | cons e t ih =>
    obtain ⟨k, y⟩ := e
    simp only [putCell] at h
    split at h
    · simpa using h
    · split at h
      · rcases List.mem_cons.1 h with h | h
        · exact .inl h
        · exact .inr (List.mem_cons_of_mem _ h)
      · rcases List.mem_cons.1 h with h | h
        · exact .inr (h ▸ List.mem_cons_self)
        · rcases ih h with h | h
          · exact .inl h
          · exact .inr (List.mem_cons_of_mem _ h)

theorem wfCells_putCell {α : Type} [DecidableEq α] (d : Nat → α) (m : List (Nat × α)) (a : Nat) (x : α)
    (h : wfCells d m = true) (hx : x ≠ d a) : wfCells d (putCell m a x) = true := by
  induction m with
  | nil => simp [putCell, wfCells, hx]
  | cons c t ih =>
    obtain ⟨k, y⟩ := c
    have ht := h
    simp only [wfCells, Bool.and_eq_true, decide_eq_true_eq, List.all_eq_true] at ht
    obtain ⟨⟨h1, h2⟩, h3⟩ := ht
    simp only [putCell]
    split
    · rename_i hlt
      simp only [wfCells, Bool.and_eq_true, decide_eq_true_eq, List.all_eq_true, List.mem_cons, forall_eq_or_imp]
      exact ⟨⟨hx, hlt, fun e he => Nat.lt_trans hlt (h2 e he)⟩, ⟨h1, h2⟩, h3⟩
    · split
      · rename_i heq
        subst heq
        simp only [wfCells, Bool.and_eq_true, decide_eq_true_eq, List.all_eq_true]
        exact ⟨⟨hx, h2⟩, h3⟩
      · rename_i hlt heq
        simp only [wfCells, Bool.and_eq_true, decide_eq_true_eq, List.all_eq_true]
        refine ⟨⟨h1, fun e he => ?_⟩, ih h3⟩
        rcases mem_putCell t a x e he with rfl | he
        · exact Nat.lt_of_le_of_ne (Nat.le_of_not_lt hlt) (fun q => heq q.symm)
        · exact h2 e he

/-- A write keeps the canonical form. -/
theorem wfCells_setCell {α : Type} [DecidableEq α] (d : Nat → α) (m : List (Nat × α)) (a : Nat) (x : α)
    (h : wfCells d m = true) : wfCells d (setCell d m a x) = true := by
  unfold setCell
  split
  · exact wfCells_filter d _ m h
  · exact wfCells_putCell d m a x h ‹_›

theorem mem_mapCells {α : Type} [DecidableEq α] (d : Nat → α) (f : Nat → α → α) (m : List (Nat × α)) (c : Nat × α)
    (h : c ∈ mapCells d f m) : c.2 ≠ d c.1 ∧ ∃ y, (c.1, y) ∈ m := by
  induction m with
  | nil => simp [mapCells] at h
  | cons e t ih =>
    obtain ⟨k, y⟩ := e
    simp only [mapCells] at h
    split at h
    · obtain ⟨a, z, b⟩ := ih (List.mem_filter.1 h).1; exact ⟨a, z, List.mem_cons_of_mem _ b⟩
    · rcases List.mem_cons.1 h with rfl | h
      · exact ⟨‹_›, y, List.mem_cons_self⟩
      · obtain ⟨a, z, b⟩ := ih h; exact ⟨a, z, List.mem_cons_of_mem _ b⟩

theorem wfCells_mapCells {α : Type} [DecidableEq α] (d : Nat → α) (f : Nat → α → α) (m : List (Nat × α))
    (h : wfCells d m = true) : wfCells d (mapCells d f m) = true := by
  induction m with
  | nil => rfl
  | cons e t ih =>
    obtain ⟨k, y⟩ := e
    simp only [wfCells, Bool.and_eq_true, decide_eq_true_eq, List.all_eq_true] at h
    obtain ⟨⟨h1, h2⟩, h3⟩ := h
    simp only [mapCells]
    split
    · exact wfCells_filter d _ _ (ih h3)
    · simp only [wfCells, Bool.and_eq_true, decide_eq_true_eq, List.all_eq_true]
      refine ⟨⟨‹_›, fun c hc => ?_⟩, ih h3⟩
      obtain ⟨-, z, hz⟩ := mem_mapCells d f t c hc
      exact h2 (c.1, z) hz

/-- What a cell holds after a transformation: a listed one its new value, any other still the unlisted value. -/
theorem cellAt_mapCells {α : Type} [DecidableEq α] (d : Nat → α) (f : Nat → α → α) (m : List (Nat × α)) (b : Nat) :
    cellAt d (mapCells d f m) b = if m.any (fun c => c.1 == b) then f b (cellAt d m b) else d b := by
  induction m with
  | nil => rfl
  | cons c t ih =>
    obtain ⟨k, y⟩ := c
    simp only [mapCells, List.any_cons]
    by_cases hb : b = k
    · subst hb
      simp only [beq_self_eq_true, Bool.true_or, if_true, cellAt]
      split
      · rename_i hf
        rw [cellAt_filter d (fun j => j != b), if_neg (by simp), hf]
      · simp [cellAt]
    · have hk : (k == b) = false := by simp; exact fun e => hb e.symm
      simp only [hk, Bool.false_or, cellAt, if_neg hb, ← ih]
      split
      · rw [cellAt_filter d (fun j => j != k), if_pos (by simpa using hb)]
      · simp [cellAt, hb]

/-- Cells at or past every listed address are unlisted. -/
theorem cellAt_of_not_mem {α : Type} (d : Nat → α) (m : List (Nat × α)) (a : Nat) (h : ∀ c ∈ m, c.1 ≠ a) :
    cellAt d m a = d a := by
  induction m with
  | nil => rfl
  | cons c t ih =>
    obtain ⟨k, y⟩ := c
    have hk : a ≠ k := fun e => h (k, y) List.mem_cons_self e.symm
    simp only [cellAt, hk, if_false]
    exact ih (fun e he => h e (List.mem_cons_of_mem _ he))

/-- In canonical form, equal contents are equal data. -/
theorem wfCells_ext {α : Type} [DecidableEq α] (d : Nat → α) (m n : List (Nat × α)) (hm : wfCells d m = true)
    (hn : wfCells d n = true) (h : ∀ a, cellAt d m a = cellAt d n a) : m = n := by
  induction m generalizing n with
  | nil =>
    cases n with
    | nil => rfl
    | cons c t =>
      obtain ⟨k, y⟩ := c
      have := h k
      simp only [wfCells, Bool.and_eq_true, decide_eq_true_eq] at hn
      simp [cellAt] at this
      exact absurd this.symm hn.1.1
  | cons e t ih =>
    obtain ⟨j, x⟩ := e
    have hm' := hm
    simp only [wfCells, Bool.and_eq_true, decide_eq_true_eq, List.all_eq_true] at hm'
    obtain ⟨⟨hx, hlt⟩, ht⟩ := hm'
    cases n with
    | nil => exact absurd (by simpa [cellAt] using h j) hx
    | cons c u =>
      obtain ⟨k, y⟩ := c
      simp only [wfCells, Bool.and_eq_true, decide_eq_true_eq, List.all_eq_true] at hn
      obtain ⟨⟨hy, hlu⟩, hu⟩ := hn
      have hjk : j = k := by
        rcases Nat.lt_trichotomy j k with hl | hl | hl
        · have := h j
          rw [cellAt_of_not_mem d ((k, y) :: u) j (by
            intro c hc; rcases List.mem_cons.1 hc with rfl | hc
            · exact Nat.ne_of_gt hl
            · exact Nat.ne_of_gt (Nat.lt_trans hl (hlu c hc)))] at this
          simp [cellAt] at this; exact absurd this hx
        · exact hl
        · have := h k
          rw [cellAt_of_not_mem d ((j, x) :: t) k (by
            intro c hc; rcases List.mem_cons.1 hc with rfl | hc
            · exact Nat.ne_of_gt hl
            · exact Nat.ne_of_gt (Nat.lt_trans hl (hlt c hc)))] at this
          simp [cellAt] at this; exact absurd this.symm hy
      subst hjk
      have hxy : x = y := by simpa [cellAt] using h j
      subst hxy
      refine congrArg _ (ih u ht hu (fun a => ?_))
      by_cases ha : a = j
      · subst ha
        rw [cellAt_of_not_mem d t a (fun c hc => Nat.ne_of_gt (hlt c hc)),
          cellAt_of_not_mem d u a (fun c hc => Nat.ne_of_gt (hlu c hc))]
      · simpa [cellAt, ha] using h a

/-! Bit fields. -/

theorem testBit_setBits (n hi lo v i : Nat) (h : lo ≤ hi) :
    (setBits n hi lo v).testBit i = if i < lo then n.testBit i else if i ≤ hi then v.testBit (i - lo) else n.testBit i := by
  have e1 : (n >>> (hi + 1)) <<< (hi + 1) + (v % 2 ^ (hi + 1 - lo)) <<< lo + n % 2 ^ lo =
      ((n >>> (hi + 1)) <<< (hi + 1 - lo) + v % 2 ^ (hi + 1 - lo)) <<< lo + n % 2 ^ lo := by
    congr 1
    have hw : hi + 1 - lo + lo = hi + 1 := by omega
    simp only [Nat.shiftLeft_eq]
    rw [Nat.add_mul, Nat.mul_assoc, ← Nat.pow_add, hw]
  unfold setBits
  rw [e1, Nat.shiftLeft_add_eq_or_of_lt (Nat.mod_lt _ (Nat.two_pow_pos _)),
    Nat.shiftLeft_add_eq_or_of_lt (Nat.mod_lt _ (Nat.two_pow_pos _))]
  simp only [Nat.testBit_or, Nat.testBit_shiftLeft, Nat.testBit_shiftRight, Nat.testBit_mod_two_pow]
  by_cases h1 : i < lo
  · simp [h1, Nat.not_le.2 h1]
  · have h2 : lo ≤ i := Nat.le_of_not_lt h1
    by_cases h3 : i ≤ hi
    · have h4 : ¬ (hi + 1 - lo ≤ i - lo) := by omega
      have h5 : i - lo < hi + 1 - lo := by omega
      simp [h1, h2, h3, h4, h5]
    · have h4 : hi + 1 - lo ≤ i - lo := by omega
      have h5 : ¬ (i - lo < hi + 1 - lo) := by omega
      have h6 : hi + 1 + (i - lo - (hi + 1 - lo)) = i := by omega
      simp [h1, h2, h3, h4, h5, h6]

theorem testBit_bits (n hi lo i : Nat) : (bits n hi lo).testBit i = (decide (i < hi + 1 - lo) && n.testBit (lo + i)) := by
  simp [bits, Nat.testBit_mod_two_pow, Nat.testBit_shiftRight]

/-- A field reads what was written to it. -/
theorem bits_setBits_same (n hi lo v : Nat) (h : lo ≤ hi) : bits (setBits n hi lo v) hi lo = v % 2 ^ (hi + 1 - lo) := by
  apply Nat.eq_of_testBit_eq
  intro i
  rw [testBit_bits, testBit_setBits _ _ _ _ _ h, Nat.testBit_mod_two_pow]
  by_cases hi' : i < hi + 1 - lo
  · have h1 : ¬ (lo + i < lo) := by omega
    have h2 : lo + i ≤ hi := by omega
    simp [hi', h1, h2]
  · simp [hi']

/-- A field does not see a write of bits apart from its own. -/
theorem bits_setBits_apart (n hi lo v hi' lo' : Nat) (h : lo ≤ hi) (hd : hi' < lo ∨ hi < lo') :
    bits (setBits n hi lo v) hi' lo' = bits n hi' lo' := by
  apply Nat.eq_of_testBit_eq
  intro i
  rw [testBit_bits, testBit_bits, testBit_setBits _ _ _ _ _ h]
  by_cases h1 : i < hi' + 1 - lo'
  · rcases hd with hd | hd
    · have : lo' + i < lo := by omega
      simp [this]
    · have h2 : ¬ (lo' + i < lo) := by omega
      have h3 : ¬ (lo' + i ≤ hi) := by omega
      simp [h2, h3]
  · simp [h1]

theorem setBits_lt (n hi lo v w : Nat) (h : lo ≤ hi) (hn : n < 2 ^ w) (hw : hi < w) : setBits n hi lo v < 2 ^ w := by
  apply Nat.lt_pow_two_of_testBit
  intro i hi'
  have h1 : ¬ (i < lo) := by omega
  have h2 : ¬ (i ≤ hi) := by omega
  rw [testBit_setBits _ _ _ _ _ h, if_neg h1, if_neg h2]
  exact Nat.testBit_lt_two_pow (Nat.lt_of_lt_of_le hn (Nat.pow_le_pow_right (by decide) hi'))

/-! Fixed-length tables. -/

theorem at'_upd {α : Type} {n : Nat} (v : Vector α n) (i j : Nat) (f : α → α) (d : α) :
    at' (upd v i f) j d = if i = j ∧ i < n then f (at' v i d) else at' v j d := by
  unfold at' upd
  split
  · rename_i x hx
    have hi : i < n := by
      by_cases h : i < n
      · exact h
      · rw [Vector.getElem?_eq_none (Nat.le_of_not_lt h)] at hx; exact absurd hx (by simp)
    by_cases hij : i = j
    · subst hij
      have hv : v[i] = x := by rw [Vector.getElem?_eq_getElem hi] at hx; exact Option.some.inj hx
      simp [hi, hv]
    · simp [hij, Vector.getElem?_setIfInBounds_ne]
  · rename_i hx
    have hi : ¬ i < n := by
      intro h; rw [Vector.getElem?_eq_getElem h] at hx; exact absurd hx (by simp)
    simp [hi]

end Sys2Proof.Machine
end

