-- ==== Sys2Proof/Laws/Registers.lean ====
section
/-!
SUPPORT. Lemmas about the register file: what a register or a field holds after a register, a field, event bits or a
counter is written, and that such writes change nothing but registers.
-/
namespace Sys2Proof.Machine

/-! Registers. -/

@[simp] theorem Dev.get_renew (d : Dev) (a m b : Nat) : (d.renew a m).get b = d.get b := rfl

@[simp] theorem Dev.fld_renew (d : Dev) (a m : Nat) (f : Fld) : (d.renew a m).fld f = d.fld f := rfl

theorem Dev.get_set (d : Dev) (a b : Nat) (w : Word) : (d.set a w).get b = if b = a then w else d.get b :=
  cellAt_setCell resetWord d.regs a b w

@[simp] theorem Dev.get_set_same (d : Dev) (a : Nat) (w : Word) : (d.set a w).get a = w := by simp [Dev.get_set]

theorem Dev.get_set_ne (d : Dev) (a b : Nat) (w : Word) (h : b ≠ a) : (d.set a w).get b = d.get b := by
  simp [Dev.get_set, h]

/-- A field is within its word. -/
abbrev Fld.Ok (f : Fld) : Prop := f.lo ≤ f.hi ∧ f.hi < 32

theorem word_of_setBits (w : Word) (f : Fld) (v : Nat) (h : f.Ok) :
    (BitVec.ofNat 32 (setBits w.toNat f.hi f.lo v)).toNat = setBits w.toNat f.hi f.lo v := by
  rw [BitVec.toNat_ofNat]
  exact Nat.mod_eq_of_lt (setBits_lt _ _ _ _ 32 h.1 w.isLt h.2)

theorem Dev.fld_set_ne (d : Dev) (a : Nat) (w : Word) (f : Fld) (h : f.addr ≠ a) : (d.set a w).fld f = d.fld f := by
  simp [Dev.fld, Dev.get_set, h]

/-- A field reads what was stored in it. -/
theorem Dev.fld_setFld_same (d : Dev) (f : Fld) (v : Nat) (h : f.Ok) :
    (d.setFld f v).fld f = v % 2 ^ (f.hi + 1 - f.lo) := by
  simp only [Dev.fld, Dev.setFld, Dev.get_renew, Dev.get_set_same, word_of_setBits _ f v h]
  exact bits_setBits_same _ _ _ _ h.1

/-- A field does not see a store to a field apart from it. -/
theorem Dev.fld_setFld_apart (d : Dev) (f g : Fld) (v : Nat) (h : g.Ok) (ha : f.Apart g) :
    (d.setFld g v).fld f = d.fld f := by
  by_cases e : f.addr = g.addr
  · rcases ha with ha | ha
    · exact absurd e ha
    · simp only [Dev.fld, Dev.setFld, e, Dev.get_renew, Dev.get_set_same, word_of_setBits _ g v h]
      exact bits_setBits_apart _ _ _ _ _ _ h.1 ha
  · exact Dev.fld_set_ne _ _ _ _ e

theorem Dev.get_put (d : Dev) (a b : Nat) (w : Word) : (d.put a w).get b = if b = a then w else d.get b := d.get_set a b w

/-! The rest of the unit. -/

theorem Dev.SameButRegs.refl (d : Dev) : d.SameButRegs d := rfl

theorem Dev.SameButRegs.trans {d e f : Dev} (h : d.SameButRegs e) (k : e.SameButRegs f) : d.SameButRegs f := by
  unfold Dev.SameButRegs at *
  rw [k, h]

theorem Dev.sameButRegs_set (d : Dev) (a : Nat) (w : Word) : d.SameButRegs (d.set a w) := rfl

theorem Dev.sameButRegs_put (d : Dev) (a : Nat) (w : Word) : d.SameButRegs (d.put a w) := rfl

theorem Dev.sameButRegs_setFld (d : Dev) (f : Fld) (v : Nat) : d.SameButRegs (d.setFld f v) := rfl

theorem Dev.sameButRegs_edges (d : Dev) (l : List Nat) : d.SameButRegs (d.edges l) := rfl

theorem Dev.sameButRegs_setFlds (d : Dev) (l : List (Fld × Nat)) : d.SameButRegs (d.setFlds l) := by
  unfold Dev.setFlds
  induction l generalizing d with
  | nil => exact .refl d
  | cons p t ih => exact (d.sameButRegs_setFld p.1 p.2).trans (ih _)

/-! Event bits (R142). -/

theorem Dev.event_nil (d : Dev) (a : Nat) : d.event a [] = d := rfl

/-- The word a status register holds after event bits are set. -/
def eventWord (w : Nat) (evs : List Nat) : Nat :=
  let x := evs.foldl (fun x b => setBits x b b 1) w
  setBits x 31 24 (bits x 31 24 + 1)

theorem Dev.event_cons (d : Dev) (a b : Nat) (t : List Nat) : d.event a (b :: t) =
    (d.set a (BitVec.ofNat 32 (eventWord (d.get a).toNat (b :: t)))).edges
      ((b :: t).filterMap (sourceOf a)).eraseDups := rfl

theorem foldl_setBits_lt (evs : List Nat) (w : Nat) (h : ∀ b ∈ evs, b < 24) (hw : w < 2 ^ 32) :
    evs.foldl (fun x b => setBits x b b 1) w < 2 ^ 32 := by
  induction evs generalizing w with
  | nil => exact hw
  | cons b t ih =>
    have hb : b < 24 := h b List.mem_cons_self
    exact ih _ (fun c hc => h c (List.mem_cons_of_mem _ hc)) (setBits_lt _ _ _ _ 32 (Nat.le_refl b) hw (by omega))

theorem testBit_foldl_setBits (evs : List Nat) (w i : Nat) :
    (evs.foldl (fun x b => setBits x b b 1) w).testBit i = (decide (i ∈ evs) || w.testBit i) := by
  induction evs generalizing w with
  | nil => simp
  | cons b t ih =>
    rw [List.foldl_cons, ih, testBit_setBits _ _ _ _ _ (Nat.le_refl b)]
    by_cases h : i = b
    · subst h; simp
    · by_cases h1 : i < b
      · simp [h, h1]
      · have h2 : ¬ (i ≤ b) := by omega
        simp [h, h1, h2]

theorem eventWord_lt (w : Nat) (evs : List Nat) (h : ∀ b ∈ evs, b < 24) (hw : w < 2 ^ 32) : eventWord w evs < 2 ^ 32 :=
  setBits_lt _ _ _ _ 32 (by decide) (foldl_setBits_lt evs w h hw) (by decide)

theorem testBit_eventWord (w : Nat) (evs : List Nat) (i : Nat) (hi : i < 24) :
    (eventWord w evs).testBit i = (decide (i ∈ evs) || w.testBit i) := by
  unfold eventWord
  rw [testBit_setBits _ _ _ _ _ (by decide), if_pos hi, testBit_foldl_setBits]

/-- An event bit reads 1 once set. -/
theorem Dev.fld_event_bit (d : Dev) (a b : Nat) (evs : List Nat) (hb : b ∈ evs) (h : ∀ c ∈ evs, c < 24) :
    (d.event a evs).fld ⟨a, b, b⟩ = 1 := by
  match evs, hb with
  | c :: t, hb =>
    have hlt := eventWord_lt (d.get a).toNat (c :: t) h (d.get a).isLt
    rw [Dev.event_cons]
    change bits ((d.set a _).get a).toNat b b = 1
    rw [Dev.get_set_same, BitVec.toNat_ofNat, Nat.mod_eq_of_lt hlt]
    apply Nat.eq_of_testBit_eq
    intro i
    rw [testBit_bits]
    by_cases hi : i = 0
    · subst hi
      simp only [Nat.add_zero]
      rw [testBit_eventWord _ _ _ (h b hb)]
      simp [hb]
    · have : ¬ (i < b + 1 - b) := by omega
      rw [Nat.testBit_lt_two_pow (x := 1) (i := i) (Nat.one_lt_two_pow hi), decide_eq_false this, Bool.false_and]

/-- SEQ counts once (R142). -/
theorem Dev.fld_event_seq (d : Dev) (a : Nat) (evs : List Nat) (hne : evs ≠ []) (h : ∀ c ∈ evs, c < 24) :
    (d.event a evs).fld ⟨a, 31, 24⟩ = (d.fld ⟨a, 31, 24⟩ + 1) % 256 := by
  match evs, hne with
  | c :: t, _ =>
    have hlt := eventWord_lt (d.get a).toNat (c :: t) h (d.get a).isLt
    rw [Dev.event_cons]
    change bits ((d.set a _).get a).toNat 31 24 = _
    rw [Dev.get_set_same, BitVec.toNat_ofNat, Nat.mod_eq_of_lt hlt]
    unfold eventWord
    rw [bits_setBits_same _ _ _ _ (by decide)]
    have : bits ((c :: t).foldl (fun x b => setBits x b b 1) (d.get a).toNat) 31 24 = d.fld ⟨a, 31, 24⟩ := by
      apply Nat.eq_of_testBit_eq
      intro i
      unfold Dev.fld
      rw [testBit_bits, testBit_bits, testBit_foldl_setBits]
      have hn : 24 + i ∉ c :: t := fun hm => absurd (h _ hm) (by omega)
      simp [hn]
    exact congrArg (fun x => (x + 1) % 256) this

theorem Dev.fld_event_ne (d : Dev) (a : Nat) (evs : List Nat) (f : Fld) (h : f.addr ≠ a) :
    (d.event a evs).fld f = d.fld f := by
  match evs with
  | [] => rfl
  | c :: t => rw [Dev.event_cons]; exact Dev.fld_set_ne d a _ f h

/-- A field below SEQ that holds none of the event bits does not see them. -/
theorem Dev.fld_event_apart (d : Dev) (a : Nat) (evs : List Nat) (f : Fld) (hf : f.hi < 24)
    (h : ∀ c ∈ evs, c < 24 ∧ (c < f.lo ∨ f.hi < c)) : (d.event a evs).fld f = d.fld f := by
  by_cases e : f.addr = a
  · match evs with
    | [] => rfl
    | c :: t =>
      have hlt := eventWord_lt (d.get a).toNat (c :: t) (fun b hb => (h b hb).1) (d.get a).isLt
      rw [Dev.event_cons]
      change bits ((d.set a _).get f.addr).toNat f.hi f.lo = _
      rw [e, Dev.get_set_same, BitVec.toNat_ofNat, Nat.mod_eq_of_lt hlt]
      apply Nat.eq_of_testBit_eq
      intro i
      unfold Dev.fld
      rw [testBit_bits, testBit_bits, e]
      by_cases hi : i < f.hi + 1 - f.lo
      · rw [testBit_eventWord _ _ _ (by omega)]
        have hn : f.lo + i ∉ c :: t := fun hm => by
          rcases (h _ hm).2 with q | q <;> omega
        simp [hn]
      · simp [hi]
  · exact Dev.fld_event_ne d a evs f e

theorem Dev.sameButRegs_event (d : Dev) (a : Nat) (evs : List Nat) : d.SameButRegs (d.event a evs) := by
  match evs with
  | [] => rfl
  | _ :: _ => rfl

theorem Dev.sameButRegs_eventF (d : Dev) (evs : List Fld) : d.SameButRegs (d.eventF evs) := by
  unfold Dev.eventF
  split
  · exact .refl d
  · exact d.sameButRegs_event _ _

/-! Counters (R16). -/

theorem Dev.sameButRegs_satAdd (d : Dev) (f : Fld) (k : Nat) : d.SameButRegs (d.satAdd f k).1 := by
  unfold Dev.satAdd; dsimp only; split <;> rfl

theorem Dev.fld_satAdd_apart (d : Dev) (f g : Fld) (k : Nat) (h : g.Ok) (ha : f.Apart g) :
    (d.satAdd g k).1.fld f = d.fld f := by
  unfold Dev.satAdd; dsimp only; split <;> exact Dev.fld_setFld_apart _ _ _ _ h ha

/-- A saturating counter stops at all ones. -/
theorem Dev.fld_satAdd_same (d : Dev) (f : Fld) (k : Nat) (h : f.Ok) :
    (d.satAdd f k).1.fld f = min (d.fld f + k) (2 ^ (f.hi + 1 - f.lo) - 1) := by
  have hp : 0 < 2 ^ (f.hi + 1 - f.lo) := Nat.two_pow_pos _
  unfold Dev.satAdd
  dsimp only
  split
  · rw [Dev.fld_setFld_same _ _ _ h, Nat.mod_eq_of_lt (by omega)]; omega
  · rw [Dev.fld_setFld_same _ _ _ h, Nat.mod_eq_of_lt (by omega)]; omega

/-- A wrapping counter. -/
theorem Dev.fld_wrapAdd_same (d : Dev) (f : Fld) (k : Nat) (h : f.Ok) :
    (d.wrapAdd f k).fld f = (d.fld f + k) % 2 ^ (f.hi + 1 - f.lo) := Dev.fld_setFld_same _ _ _ h

theorem Dev.sameButRegs_wrapAdd (d : Dev) (f : Fld) (k : Nat) : d.SameButRegs (d.wrapAdd f k) := rfl

theorem Dev.sameButRegs_count (d : Dev) (cnt : Fld) (k : Nat) (sat : Fld) (evs : List Fld) :
    d.SameButRegs (d.count cnt k sat evs) :=
  (d.sameButRegs_satAdd cnt k).trans (Dev.sameButRegs_eventF _ _)

/-! Fields apart from everything that is written. -/

theorem Dev.fld_setFlds_keeps (d : Dev) (l : List (Fld × Nat)) (f : Fld) (hok : ∀ p ∈ l, p.1.Ok)
    (h : ∀ p ∈ l, f.Apart p.1) : (d.setFlds l).fld f = d.fld f := by
  unfold Dev.setFlds
  induction l generalizing d with
  | nil => rfl
  | cons p t ih =>
    rw [List.foldl_cons, ih _ (fun q hq => hok q (List.mem_cons_of_mem _ hq)) (fun q hq => h q (List.mem_cons_of_mem _ hq))]
    exact Dev.fld_setFld_apart d f p.1 p.2 (hok p List.mem_cons_self) (h p List.mem_cons_self)

/-- Event bits leave every field alone that holds neither one of them nor a bit of SEQ. -/
theorem Dev.fld_event_keeps (d : Dev) (a : Nat) (evs : List Nat) (f : Fld) (hlt : ∀ c ∈ evs, c < 24)
    (hs : f.Apart ⟨a, 31, 24⟩) (h : ∀ c ∈ evs, f.Apart ⟨a, c, c⟩) : (d.event a evs).fld f = d.fld f := by
  by_cases e : f.addr = a
  · match evs with
    | [] => rfl
    | c :: t =>
      have hw := eventWord_lt (d.get a).toNat (c :: t) hlt (d.get a).isLt
      rw [Dev.event_cons]
      change bits ((d.set a _).get f.addr).toNat f.hi f.lo = _
      rw [e, Dev.get_set_same, BitVec.toNat_ofNat, Nat.mod_eq_of_lt hw]
      apply Nat.eq_of_testBit_eq
      intro i
      unfold Dev.fld
      rw [testBit_bits, testBit_bits, e]
      by_cases hi : i < f.hi + 1 - f.lo
      · congr 1
        unfold eventWord
        have hs' : f.lo + i < 24 ∨ 31 < f.lo + i := by
          rcases hs with q | q | q
          · exact absurd e q
          · dsimp only at q; omega
          · dsimp only at q; omega
        have hn : f.lo + i ∉ c :: t := fun hm => by
          rcases h _ hm with q | q | q
          · exact absurd e q
          · dsimp only at q; omega
          · dsimp only at q; omega
        rw [testBit_setBits _ _ _ _ _ (by decide), testBit_foldl_setBits]
        rcases hs' with q | q
        · rw [if_pos q]; simp [hn]
        · rw [if_neg (by omega), if_neg (by omega)]; simp [hn]
      · simp [hi]
  · exact Dev.fld_event_ne d a evs f e

theorem Dev.fld_eventF_keeps (d : Dev) (a : Nat) (evs : List Fld) (f : Fld)
    (hev : ∀ g ∈ evs, g.addr = a ∧ g.hi = g.lo ∧ g.lo < 24) (hs : f.Apart ⟨a, 31, 24⟩) (h : ∀ g ∈ evs, f.Apart g) :
    (d.eventF evs).fld f = d.fld f := by
  unfold Dev.eventF
  split
  · rfl
  · rename_i g t
    obtain ⟨ha, -, -⟩ := hev g List.mem_cons_self
    rw [ha]
    refine Dev.fld_event_keeps d a _ f ?_ hs ?_
    · intro c hc
      obtain ⟨x, hx, rfl⟩ := List.mem_map.1 hc
      exact (hev x hx).2.2
    · intro c hc
      obtain ⟨x, hx, rfl⟩ := List.mem_map.1 hc
      obtain ⟨h1, h2, -⟩ := hev x hx
      have := h x hx
      unfold Fld.Apart at *
      rw [h1, h2] at this
      exact this

/-- A counter with its event bits leaves every other field alone. -/
theorem Dev.fld_count_keeps (d : Dev) (cnt : Fld) (k : Nat) (sat : Fld) (evs : List Fld) (f : Fld) (hc : cnt.Ok)
    (hsat : sat.hi = sat.lo ∧ sat.lo < 24) (hev : ∀ g ∈ evs, g.addr = sat.addr ∧ g.hi = g.lo ∧ g.lo < 24)
    (h1 : f.Apart cnt) (h2 : f.Apart ⟨sat.addr, 31, 24⟩) (h3 : f.Apart sat) (h4 : ∀ g ∈ evs, f.Apart g) :
    (d.count cnt k sat evs).fld f = d.fld f := by
  unfold Dev.count
  dsimp only
  rw [Dev.fld_eventF_keeps _ sat.addr _ f ?_ h2 ?_, Dev.fld_satAdd_apart _ _ _ _ hc h1]
  · intro g hg
    split at hg
    · rcases List.mem_append.1 hg with hg | hg
      · exact hev g hg
      · rw [List.mem_singleton] at hg; subst hg; exact ⟨rfl, hsat⟩
    · exact hev g hg
  · intro g hg
    split at hg
    · rcases List.mem_append.1 hg with hg | hg
      · exact h4 g hg
      · rw [List.mem_singleton] at hg; subst hg; exact h3
    · exact h4 g hg

/-- The counter's new value, where it is not in the status register. -/
theorem Dev.fld_count_same (d : Dev) (cnt : Fld) (k : Nat) (sat : Fld) (evs : List Fld) (hc : cnt.Ok)
    (hne : cnt.addr ≠ sat.addr) (hev : ∀ g ∈ evs, g.addr = sat.addr) :
    (d.count cnt k sat evs).fld cnt = min (d.fld cnt + k) (2 ^ (cnt.hi + 1 - cnt.lo) - 1) := by
  unfold Dev.count Dev.eventF
  dsimp only
  rw [← Dev.fld_satAdd_same d cnt k hc]
  split
  · rfl
  · rename_i g t hg
    refine Dev.fld_event_ne _ _ _ _ ?_
    have hm : g ∈ (if (d.satAdd cnt k).2 = true then evs ++ [sat] else evs) := hg ▸ List.mem_cons_self
    have ha : g.addr = sat.addr := by
      split at hm
      · rcases List.mem_append.1 hm with q | q
        · exact hev g q
        · rw [List.mem_singleton] at q; rw [q]
      · exact hev g hm
    rw [ha]; exact hne

theorem Dev.fld_eventF_bit (d : Dev) (a : Nat) (evs : List Fld) (g : Fld)
    (hev : ∀ x ∈ evs, x.addr = a ∧ x.hi = x.lo ∧ x.lo < 24) (hg : g ∈ evs) : (d.eventF evs).fld g = 1 := by
  match evs, hg with
  | x :: t, hg =>
    obtain ⟨h1, h2, -⟩ := hev g hg
    obtain ⟨h4, -, -⟩ := hev x List.mem_cons_self
    have hgeq : g = ⟨x.addr, g.lo, g.lo⟩ := by
      cases g; simp only at *; rw [h1, h4, h2]
    have := Dev.fld_event_bit d x.addr g.lo ((x :: t).map (·.lo)) (List.mem_map.2 ⟨g, hg, rfl⟩) (by
      intro c hc
      obtain ⟨y, hy, rfl⟩ := List.mem_map.1 hc
      exact (hev y hy).2.2)
    rw [hgeq]
    exact this

/-- An event bit counted with reads 1. -/
theorem Dev.fld_count_event (d : Dev) (cnt : Fld) (k : Nat) (sat : Fld) (evs : List Fld) (g : Fld)
    (hsat : sat.hi = sat.lo ∧ sat.lo < 24) (hev : ∀ x ∈ evs, x.addr = sat.addr ∧ x.hi = x.lo ∧ x.lo < 24) (hg : g ∈ evs) :
    (d.count cnt k sat evs).fld g = 1 := by
  unfold Dev.count
  dsimp only
  split
  · refine Dev.fld_eventF_bit _ sat.addr _ g ?_ (List.mem_append_left _ hg)
    intro x hx
    rcases List.mem_append.1 hx with q | q
    · exact hev x q
    · rw [List.mem_singleton] at q; subst q; exact ⟨rfl, hsat⟩
  · exact Dev.fld_eventF_bit _ sat.addr _ g hev hg

theorem Dev.SameButRegs.raw {d e : Dev} (h : d.SameButRegs e) : e.raw = d.raw := by rw [h]
theorem Dev.SameButRegs.out {d e : Dev} (h : d.SameButRegs e) : e.out = d.out := by rw [h]

end Sys2Proof.Machine
end

