-- ==== Sys2Proof/Laws/State.lean ====
section
/-!
SUPPORT. One lemma per field per named update of the unit, so that no later proof unfolds a record update.
-/
namespace Sys2Proof.Machine.Dev

section On_set
variable (d : Dev) (a : Nat) (w : Word)
@[simp] theorem set_rx : (d.set a w).rx = d.rx := rfl
@[simp] theorem set_raw : (d.set a w).raw = d.raw := rfl
@[simp] theorem set_freeCount : (d.set a w).freeCount = d.freeCount := rfl
@[simp] theorem set_out : (d.set a w).out = d.out := rfl
@[simp] theorem set_badParity : (d.set a w).badParity = d.badParity := rfl
@[simp] theorem set_faulted : (d.set a w).faulted = d.faulted := rfl
@[simp] theorem set_safe : (d.set a w).safe = d.safe := rfl
@[simp] theorem set_indFetch : (d.set a w).indFetch = d.indFetch := rfl
@[simp] theorem set_chain : (d.set a w).chain = d.chain := rfl
@[simp] theorem set_loader : (d.set a w).loader = d.loader := rfl
@[simp] theorem set_fp : (d.set a w).fp = d.fp := rfl
@[simp] theorem set_otp : (d.set a w).otp = d.otp := rfl
@[simp] theorem set_shadow : (d.set a w).shadow = d.shadow := rfl
@[simp] theorem set_ic : (d.set a w).ic = d.ic := rfl
@[simp] theorem set_board : (d.set a w).board = d.board := rfl
@[simp] theorem set_fs : (d.set a w).fs = d.fs := rfl
@[simp] theorem set_le : (d.set a w).le = d.le := rfl
@[simp] theorem set_gv : (d.set a w).gv = d.gv := rfl
@[simp] theorem set_hd : (d.set a w).hd = d.hd := rfl
@[simp] theorem set_dp : (d.set a w).dp = d.dp := rfl
@[simp] theorem set_srm : (d.set a w).srm = d.srm := rfl
@[simp] theorem set_bx : (d.set a w).bx = d.bx := rfl
@[simp] theorem set_cp : (d.set a w).cp = d.cp := rfl
@[simp] theorem set_streamer : (d.set a w).streamer = d.streamer := rfl
@[simp] theorem set_ky : (d.set a w).ky = d.ky := rfl
@[simp] theorem set_rp : (d.set a w).rp = d.rp := rfl
@[simp] theorem set_sh : (d.set a w).sh = d.sh := rfl
@[simp] theorem set_ts : (d.set a w).ts = d.ts := rfl
@[simp] theorem set_ev : (d.set a w).ev = d.ev := rfl
@[simp] theorem set_srsts : (d.set a w).srsts = d.srsts := rfl

end On_set

section On_renew
variable (d : Dev) (a m : Nat)
@[simp] theorem renew_rx : (d.renew a m).rx = d.rx := rfl
@[simp] theorem renew_raw : (d.renew a m).raw = d.raw := rfl
@[simp] theorem renew_freeCount : (d.renew a m).freeCount = d.freeCount := rfl
@[simp] theorem renew_out : (d.renew a m).out = d.out := rfl
@[simp] theorem renew_faulted : (d.renew a m).faulted = d.faulted := rfl
@[simp] theorem renew_safe : (d.renew a m).safe = d.safe := rfl
@[simp] theorem renew_indFetch : (d.renew a m).indFetch = d.indFetch := rfl
@[simp] theorem renew_chain : (d.renew a m).chain = d.chain := rfl
@[simp] theorem renew_loader : (d.renew a m).loader = d.loader := rfl
@[simp] theorem renew_fp : (d.renew a m).fp = d.fp := rfl
@[simp] theorem renew_otp : (d.renew a m).otp = d.otp := rfl
@[simp] theorem renew_shadow : (d.renew a m).shadow = d.shadow := rfl
@[simp] theorem renew_ic : (d.renew a m).ic = d.ic := rfl
@[simp] theorem renew_board : (d.renew a m).board = d.board := rfl
@[simp] theorem renew_fs : (d.renew a m).fs = d.fs := rfl
@[simp] theorem renew_le : (d.renew a m).le = d.le := rfl
@[simp] theorem renew_gv : (d.renew a m).gv = d.gv := rfl
@[simp] theorem renew_hd : (d.renew a m).hd = d.hd := rfl
@[simp] theorem renew_dp : (d.renew a m).dp = d.dp := rfl
@[simp] theorem renew_srm : (d.renew a m).srm = d.srm := rfl
@[simp] theorem renew_bx : (d.renew a m).bx = d.bx := rfl
@[simp] theorem renew_cp : (d.renew a m).cp = d.cp := rfl
@[simp] theorem renew_streamer : (d.renew a m).streamer = d.streamer := rfl
@[simp] theorem renew_ky : (d.renew a m).ky = d.ky := rfl
@[simp] theorem renew_rp : (d.renew a m).rp = d.rp := rfl
@[simp] theorem renew_sh : (d.renew a m).sh = d.sh := rfl
@[simp] theorem renew_ts : (d.renew a m).ts = d.ts := rfl
@[simp] theorem renew_ev : (d.renew a m).ev = d.ev := rfl
@[simp] theorem renew_srsts : (d.renew a m).srsts = d.srsts := rfl
@[simp] theorem renew_get (x : Nat) : (d.renew a m).get x = d.get x := rfl
@[simp] theorem renew_fld (x : Fld) : (d.renew a m).fld x = d.fld x := rfl
@[simp] theorem renew_flag (x : Fld) : (d.renew a m).flag x = d.flag x := rfl

end On_renew

section On_put
variable (d : Dev) (a : Nat) (w : Word)
@[simp] theorem put_rx : (d.put a w).rx = d.rx := rfl
@[simp] theorem put_raw : (d.put a w).raw = d.raw := rfl
@[simp] theorem put_freeCount : (d.put a w).freeCount = d.freeCount := rfl
@[simp] theorem put_out : (d.put a w).out = d.out := rfl
@[simp] theorem put_faulted : (d.put a w).faulted = d.faulted := rfl
@[simp] theorem put_safe : (d.put a w).safe = d.safe := rfl
@[simp] theorem put_indFetch : (d.put a w).indFetch = d.indFetch := rfl
@[simp] theorem put_chain : (d.put a w).chain = d.chain := rfl
@[simp] theorem put_loader : (d.put a w).loader = d.loader := rfl
@[simp] theorem put_fp : (d.put a w).fp = d.fp := rfl
@[simp] theorem put_otp : (d.put a w).otp = d.otp := rfl
@[simp] theorem put_shadow : (d.put a w).shadow = d.shadow := rfl
@[simp] theorem put_ic : (d.put a w).ic = d.ic := rfl
@[simp] theorem put_board : (d.put a w).board = d.board := rfl
@[simp] theorem put_fs : (d.put a w).fs = d.fs := rfl
@[simp] theorem put_le : (d.put a w).le = d.le := rfl
@[simp] theorem put_gv : (d.put a w).gv = d.gv := rfl
@[simp] theorem put_hd : (d.put a w).hd = d.hd := rfl
@[simp] theorem put_dp : (d.put a w).dp = d.dp := rfl
@[simp] theorem put_srm : (d.put a w).srm = d.srm := rfl
@[simp] theorem put_bx : (d.put a w).bx = d.bx := rfl
@[simp] theorem put_cp : (d.put a w).cp = d.cp := rfl
@[simp] theorem put_streamer : (d.put a w).streamer = d.streamer := rfl
@[simp] theorem put_ky : (d.put a w).ky = d.ky := rfl
@[simp] theorem put_rp : (d.put a w).rp = d.rp := rfl
@[simp] theorem put_sh : (d.put a w).sh = d.sh := rfl
@[simp] theorem put_ts : (d.put a w).ts = d.ts := rfl
@[simp] theorem put_ev : (d.put a w).ev = d.ev := rfl
@[simp] theorem put_srsts : (d.put a w).srsts = d.srsts := rfl

end On_put

section On_setFld
variable (d : Dev) (f : Fld) (v : Nat)
@[simp] theorem setFld_rx : (d.setFld f v).rx = d.rx := rfl
@[simp] theorem setFld_raw : (d.setFld f v).raw = d.raw := rfl
@[simp] theorem setFld_freeCount : (d.setFld f v).freeCount = d.freeCount := rfl
@[simp] theorem setFld_out : (d.setFld f v).out = d.out := rfl
@[simp] theorem setFld_faulted : (d.setFld f v).faulted = d.faulted := rfl
@[simp] theorem setFld_safe : (d.setFld f v).safe = d.safe := rfl
@[simp] theorem setFld_indFetch : (d.setFld f v).indFetch = d.indFetch := rfl
@[simp] theorem setFld_chain : (d.setFld f v).chain = d.chain := rfl
@[simp] theorem setFld_loader : (d.setFld f v).loader = d.loader := rfl
@[simp] theorem setFld_fp : (d.setFld f v).fp = d.fp := rfl
@[simp] theorem setFld_otp : (d.setFld f v).otp = d.otp := rfl
@[simp] theorem setFld_shadow : (d.setFld f v).shadow = d.shadow := rfl
@[simp] theorem setFld_ic : (d.setFld f v).ic = d.ic := rfl
@[simp] theorem setFld_board : (d.setFld f v).board = d.board := rfl
@[simp] theorem setFld_fs : (d.setFld f v).fs = d.fs := rfl
@[simp] theorem setFld_le : (d.setFld f v).le = d.le := rfl
@[simp] theorem setFld_gv : (d.setFld f v).gv = d.gv := rfl
@[simp] theorem setFld_hd : (d.setFld f v).hd = d.hd := rfl
@[simp] theorem setFld_dp : (d.setFld f v).dp = d.dp := rfl
@[simp] theorem setFld_srm : (d.setFld f v).srm = d.srm := rfl
@[simp] theorem setFld_bx : (d.setFld f v).bx = d.bx := rfl
@[simp] theorem setFld_cp : (d.setFld f v).cp = d.cp := rfl
@[simp] theorem setFld_streamer : (d.setFld f v).streamer = d.streamer := rfl
@[simp] theorem setFld_ky : (d.setFld f v).ky = d.ky := rfl
@[simp] theorem setFld_rp : (d.setFld f v).rp = d.rp := rfl
@[simp] theorem setFld_sh : (d.setFld f v).sh = d.sh := rfl
@[simp] theorem setFld_ts : (d.setFld f v).ts = d.ts := rfl
@[simp] theorem setFld_ev : (d.setFld f v).ev = d.ev := rfl
@[simp] theorem setFld_srsts : (d.setFld f v).srsts = d.srsts := rfl

end On_setFld

section On_edges
variable (d : Dev) (l : List Nat)
@[simp] theorem edges_rx : (d.edges l).rx = d.rx := rfl
@[simp] theorem edges_raw : (d.edges l).raw = d.raw := rfl
@[simp] theorem edges_freeCount : (d.edges l).freeCount = d.freeCount := rfl
@[simp] theorem edges_out : (d.edges l).out = d.out := rfl
@[simp] theorem edges_badParity : (d.edges l).badParity = d.badParity := rfl
@[simp] theorem edges_faulted : (d.edges l).faulted = d.faulted := rfl
@[simp] theorem edges_safe : (d.edges l).safe = d.safe := rfl
@[simp] theorem edges_indFetch : (d.edges l).indFetch = d.indFetch := rfl
@[simp] theorem edges_chain : (d.edges l).chain = d.chain := rfl
@[simp] theorem edges_loader : (d.edges l).loader = d.loader := rfl
@[simp] theorem edges_fp : (d.edges l).fp = d.fp := rfl
@[simp] theorem edges_otp : (d.edges l).otp = d.otp := rfl
@[simp] theorem edges_shadow : (d.edges l).shadow = d.shadow := rfl
@[simp] theorem edges_board : (d.edges l).board = d.board := rfl
@[simp] theorem edges_fs : (d.edges l).fs = d.fs := rfl
@[simp] theorem edges_le : (d.edges l).le = d.le := rfl
@[simp] theorem edges_gv : (d.edges l).gv = d.gv := rfl
@[simp] theorem edges_hd : (d.edges l).hd = d.hd := rfl
@[simp] theorem edges_dp : (d.edges l).dp = d.dp := rfl
@[simp] theorem edges_srm : (d.edges l).srm = d.srm := rfl
@[simp] theorem edges_bx : (d.edges l).bx = d.bx := rfl
@[simp] theorem edges_cp : (d.edges l).cp = d.cp := rfl
@[simp] theorem edges_streamer : (d.edges l).streamer = d.streamer := rfl
@[simp] theorem edges_ky : (d.edges l).ky = d.ky := rfl
@[simp] theorem edges_rp : (d.edges l).rp = d.rp := rfl
@[simp] theorem edges_sh : (d.edges l).sh = d.sh := rfl
@[simp] theorem edges_ts : (d.edges l).ts = d.ts := rfl
@[simp] theorem edges_ev : (d.edges l).ev = d.ev := rfl
@[simp] theorem edges_srsts : (d.edges l).srsts = d.srsts := rfl
@[simp] theorem edges_get (x : Nat) : (d.edges l).get x = d.get x := rfl
@[simp] theorem edges_fld (x : Fld) : (d.edges l).fld x = d.fld x := rfl
@[simp] theorem edges_flag (x : Fld) : (d.edges l).flag x = d.flag x := rfl

end On_edges

section On_setRx
variable (d : Dev) (i j : Nat) (w : Word)
@[simp] theorem setRx_raw : (d.setRx i j w).raw = d.raw := rfl
@[simp] theorem setRx_freeCount : (d.setRx i j w).freeCount = d.freeCount := rfl
@[simp] theorem setRx_out : (d.setRx i j w).out = d.out := rfl
@[simp] theorem setRx_badParity : (d.setRx i j w).badParity = d.badParity := rfl
@[simp] theorem setRx_faulted : (d.setRx i j w).faulted = d.faulted := rfl
@[simp] theorem setRx_safe : (d.setRx i j w).safe = d.safe := rfl
@[simp] theorem setRx_indFetch : (d.setRx i j w).indFetch = d.indFetch := rfl
@[simp] theorem setRx_chain : (d.setRx i j w).chain = d.chain := rfl
@[simp] theorem setRx_loader : (d.setRx i j w).loader = d.loader := rfl
@[simp] theorem setRx_fp : (d.setRx i j w).fp = d.fp := rfl
@[simp] theorem setRx_otp : (d.setRx i j w).otp = d.otp := rfl
@[simp] theorem setRx_shadow : (d.setRx i j w).shadow = d.shadow := rfl
@[simp] theorem setRx_ic : (d.setRx i j w).ic = d.ic := rfl
@[simp] theorem setRx_board : (d.setRx i j w).board = d.board := rfl
@[simp] theorem setRx_fs : (d.setRx i j w).fs = d.fs := rfl
@[simp] theorem setRx_le : (d.setRx i j w).le = d.le := rfl
@[simp] theorem setRx_gv : (d.setRx i j w).gv = d.gv := rfl
@[simp] theorem setRx_hd : (d.setRx i j w).hd = d.hd := rfl
@[simp] theorem setRx_dp : (d.setRx i j w).dp = d.dp := rfl
@[simp] theorem setRx_srm : (d.setRx i j w).srm = d.srm := rfl
@[simp] theorem setRx_bx : (d.setRx i j w).bx = d.bx := rfl
@[simp] theorem setRx_cp : (d.setRx i j w).cp = d.cp := rfl
@[simp] theorem setRx_streamer : (d.setRx i j w).streamer = d.streamer := rfl
@[simp] theorem setRx_ky : (d.setRx i j w).ky = d.ky := rfl
@[simp] theorem setRx_rp : (d.setRx i j w).rp = d.rp := rfl
@[simp] theorem setRx_sh : (d.setRx i j w).sh = d.sh := rfl
@[simp] theorem setRx_ts : (d.setRx i j w).ts = d.ts := rfl
@[simp] theorem setRx_ev : (d.setRx i j w).ev = d.ev := rfl
@[simp] theorem setRx_srsts : (d.setRx i j w).srsts = d.srsts := rfl
@[simp] theorem setRx_get (x : Nat) : (d.setRx i j w).get x = d.get x := rfl
@[simp] theorem setRx_fld (x : Fld) : (d.setRx i j w).fld x = d.fld x := rfl
@[simp] theorem setRx_flag (x : Fld) : (d.setRx i j w).flag x = d.flag x := rfl

end On_setRx

section On_emit
variable (d : Dev) (o : OutMsg)
@[simp] theorem emit_rx : (d.emit o).rx = d.rx := rfl
@[simp] theorem emit_raw : (d.emit o).raw = d.raw := rfl
@[simp] theorem emit_freeCount : (d.emit o).freeCount = d.freeCount := rfl
@[simp] theorem emit_badParity : (d.emit o).badParity = d.badParity := rfl
@[simp] theorem emit_faulted : (d.emit o).faulted = d.faulted := rfl
@[simp] theorem emit_safe : (d.emit o).safe = d.safe := rfl
@[simp] theorem emit_indFetch : (d.emit o).indFetch = d.indFetch := rfl
@[simp] theorem emit_chain : (d.emit o).chain = d.chain := rfl
@[simp] theorem emit_loader : (d.emit o).loader = d.loader := rfl
@[simp] theorem emit_fp : (d.emit o).fp = d.fp := rfl
@[simp] theorem emit_otp : (d.emit o).otp = d.otp := rfl
@[simp] theorem emit_shadow : (d.emit o).shadow = d.shadow := rfl
@[simp] theorem emit_ic : (d.emit o).ic = d.ic := rfl
@[simp] theorem emit_board : (d.emit o).board = d.board := rfl
@[simp] theorem emit_fs : (d.emit o).fs = d.fs := rfl
@[simp] theorem emit_le : (d.emit o).le = d.le := rfl
@[simp] theorem emit_gv : (d.emit o).gv = d.gv := rfl
@[simp] theorem emit_hd : (d.emit o).hd = d.hd := rfl
@[simp] theorem emit_dp : (d.emit o).dp = d.dp := rfl
@[simp] theorem emit_srm : (d.emit o).srm = d.srm := rfl
@[simp] theorem emit_bx : (d.emit o).bx = d.bx := rfl
@[simp] theorem emit_cp : (d.emit o).cp = d.cp := rfl
@[simp] theorem emit_streamer : (d.emit o).streamer = d.streamer := rfl
@[simp] theorem emit_ky : (d.emit o).ky = d.ky := rfl
@[simp] theorem emit_rp : (d.emit o).rp = d.rp := rfl
@[simp] theorem emit_sh : (d.emit o).sh = d.sh := rfl
@[simp] theorem emit_ts : (d.emit o).ts = d.ts := rfl
@[simp] theorem emit_ev : (d.emit o).ev = d.ev := rfl
@[simp] theorem emit_srsts : (d.emit o).srsts = d.srsts := rfl
@[simp] theorem emit_get (x : Nat) : (d.emit o).get x = d.get x := rfl
@[simp] theorem emit_fld (x : Fld) : (d.emit o).fld x = d.fld x := rfl
@[simp] theorem emit_flag (x : Fld) : (d.emit o).flag x = d.flag x := rfl

end On_emit

section On_fresh
variable (d : Dev) 
@[simp] theorem fresh_rx : (d.fresh).rx = d.rx := rfl
@[simp] theorem fresh_raw : (d.fresh).raw = d.raw := rfl
@[simp] theorem fresh_out : (d.fresh).out = d.out := rfl
@[simp] theorem fresh_badParity : (d.fresh).badParity = d.badParity := rfl
@[simp] theorem fresh_faulted : (d.fresh).faulted = d.faulted := rfl
@[simp] theorem fresh_safe : (d.fresh).safe = d.safe := rfl
@[simp] theorem fresh_indFetch : (d.fresh).indFetch = d.indFetch := rfl
@[simp] theorem fresh_chain : (d.fresh).chain = d.chain := rfl
@[simp] theorem fresh_loader : (d.fresh).loader = d.loader := rfl
@[simp] theorem fresh_fp : (d.fresh).fp = d.fp := rfl
@[simp] theorem fresh_otp : (d.fresh).otp = d.otp := rfl
@[simp] theorem fresh_shadow : (d.fresh).shadow = d.shadow := rfl
@[simp] theorem fresh_ic : (d.fresh).ic = d.ic := rfl
@[simp] theorem fresh_board : (d.fresh).board = d.board := rfl
@[simp] theorem fresh_fs : (d.fresh).fs = d.fs := rfl
@[simp] theorem fresh_le : (d.fresh).le = d.le := rfl
@[simp] theorem fresh_gv : (d.fresh).gv = d.gv := rfl
@[simp] theorem fresh_hd : (d.fresh).hd = d.hd := rfl
@[simp] theorem fresh_dp : (d.fresh).dp = d.dp := rfl
@[simp] theorem fresh_srm : (d.fresh).srm = d.srm := rfl
@[simp] theorem fresh_bx : (d.fresh).bx = d.bx := rfl
@[simp] theorem fresh_cp : (d.fresh).cp = d.cp := rfl
@[simp] theorem fresh_streamer : (d.fresh).streamer = d.streamer := rfl
@[simp] theorem fresh_ky : (d.fresh).ky = d.ky := rfl
@[simp] theorem fresh_rp : (d.fresh).rp = d.rp := rfl
@[simp] theorem fresh_sh : (d.fresh).sh = d.sh := rfl
@[simp] theorem fresh_ts : (d.fresh).ts = d.ts := rfl
@[simp] theorem fresh_ev : (d.fresh).ev = d.ev := rfl
@[simp] theorem fresh_srsts : (d.fresh).srsts = d.srsts := rfl
@[simp] theorem fresh_get (x : Nat) : (d.fresh).get x = d.get x := rfl
@[simp] theorem fresh_fld (x : Fld) : (d.fresh).fld x = d.fld x := rfl
@[simp] theorem fresh_flag (x : Fld) : (d.fresh).flag x = d.flag x := rfl

end On_fresh

section On_updHead
variable (d : Dev) (n : Nat) (f : HeadSt → HeadSt)
@[simp] theorem updHead_rx : (d.updHead n f).rx = d.rx := rfl
@[simp] theorem updHead_raw : (d.updHead n f).raw = d.raw := rfl
@[simp] theorem updHead_freeCount : (d.updHead n f).freeCount = d.freeCount := rfl
@[simp] theorem updHead_out : (d.updHead n f).out = d.out := rfl
@[simp] theorem updHead_badParity : (d.updHead n f).badParity = d.badParity := rfl
@[simp] theorem updHead_faulted : (d.updHead n f).faulted = d.faulted := rfl
@[simp] theorem updHead_safe : (d.updHead n f).safe = d.safe := rfl
@[simp] theorem updHead_indFetch : (d.updHead n f).indFetch = d.indFetch := rfl
@[simp] theorem updHead_chain : (d.updHead n f).chain = d.chain := rfl
@[simp] theorem updHead_loader : (d.updHead n f).loader = d.loader := rfl
@[simp] theorem updHead_fp : (d.updHead n f).fp = d.fp := rfl
@[simp] theorem updHead_otp : (d.updHead n f).otp = d.otp := rfl
@[simp] theorem updHead_shadow : (d.updHead n f).shadow = d.shadow := rfl
@[simp] theorem updHead_ic : (d.updHead n f).ic = d.ic := rfl
@[simp] theorem updHead_board : (d.updHead n f).board = d.board := rfl
@[simp] theorem updHead_fs : (d.updHead n f).fs = d.fs := rfl
@[simp] theorem updHead_le : (d.updHead n f).le = d.le := rfl
@[simp] theorem updHead_gv : (d.updHead n f).gv = d.gv := rfl
@[simp] theorem updHead_dp : (d.updHead n f).dp = d.dp := rfl
@[simp] theorem updHead_srm : (d.updHead n f).srm = d.srm := rfl
@[simp] theorem updHead_bx : (d.updHead n f).bx = d.bx := rfl
@[simp] theorem updHead_cp : (d.updHead n f).cp = d.cp := rfl
@[simp] theorem updHead_streamer : (d.updHead n f).streamer = d.streamer := rfl
@[simp] theorem updHead_ky : (d.updHead n f).ky = d.ky := rfl
@[simp] theorem updHead_rp : (d.updHead n f).rp = d.rp := rfl
@[simp] theorem updHead_sh : (d.updHead n f).sh = d.sh := rfl
@[simp] theorem updHead_ts : (d.updHead n f).ts = d.ts := rfl
@[simp] theorem updHead_ev : (d.updHead n f).ev = d.ev := rfl
@[simp] theorem updHead_srsts : (d.updHead n f).srsts = d.srsts := rfl
@[simp] theorem updHead_get (x : Nat) : (d.updHead n f).get x = d.get x := rfl
@[simp] theorem updHead_fld (x : Fld) : (d.updHead n f).fld x = d.fld x := rfl
@[simp] theorem updHead_flag (x : Fld) : (d.updHead n f).flag x = d.flag x := rfl

end On_updHead

section On_updEngine
variable (d : Dev) (n : Nat) (f : LeSt → LeSt)
@[simp] theorem updEngine_rx : (d.updEngine n f).rx = d.rx := rfl
@[simp] theorem updEngine_raw : (d.updEngine n f).raw = d.raw := rfl
@[simp] theorem updEngine_freeCount : (d.updEngine n f).freeCount = d.freeCount := rfl
@[simp] theorem updEngine_out : (d.updEngine n f).out = d.out := rfl
@[simp] theorem updEngine_badParity : (d.updEngine n f).badParity = d.badParity := rfl
@[simp] theorem updEngine_faulted : (d.updEngine n f).faulted = d.faulted := rfl
@[simp] theorem updEngine_safe : (d.updEngine n f).safe = d.safe := rfl
@[simp] theorem updEngine_indFetch : (d.updEngine n f).indFetch = d.indFetch := rfl
@[simp] theorem updEngine_chain : (d.updEngine n f).chain = d.chain := rfl
@[simp] theorem updEngine_loader : (d.updEngine n f).loader = d.loader := rfl
@[simp] theorem updEngine_fp : (d.updEngine n f).fp = d.fp := rfl
@[simp] theorem updEngine_otp : (d.updEngine n f).otp = d.otp := rfl
@[simp] theorem updEngine_shadow : (d.updEngine n f).shadow = d.shadow := rfl
@[simp] theorem updEngine_ic : (d.updEngine n f).ic = d.ic := rfl
@[simp] theorem updEngine_board : (d.updEngine n f).board = d.board := rfl
@[simp] theorem updEngine_fs : (d.updEngine n f).fs = d.fs := rfl
@[simp] theorem updEngine_gv : (d.updEngine n f).gv = d.gv := rfl
@[simp] theorem updEngine_hd : (d.updEngine n f).hd = d.hd := rfl
@[simp] theorem updEngine_dp : (d.updEngine n f).dp = d.dp := rfl
@[simp] theorem updEngine_srm : (d.updEngine n f).srm = d.srm := rfl
@[simp] theorem updEngine_bx : (d.updEngine n f).bx = d.bx := rfl
@[simp] theorem updEngine_cp : (d.updEngine n f).cp = d.cp := rfl
@[simp] theorem updEngine_streamer : (d.updEngine n f).streamer = d.streamer := rfl
@[simp] theorem updEngine_ky : (d.updEngine n f).ky = d.ky := rfl
@[simp] theorem updEngine_rp : (d.updEngine n f).rp = d.rp := rfl
@[simp] theorem updEngine_sh : (d.updEngine n f).sh = d.sh := rfl
@[simp] theorem updEngine_ts : (d.updEngine n f).ts = d.ts := rfl
@[simp] theorem updEngine_ev : (d.updEngine n f).ev = d.ev := rfl
@[simp] theorem updEngine_srsts : (d.updEngine n f).srsts = d.srsts := rfl
@[simp] theorem updEngine_get (x : Nat) : (d.updEngine n f).get x = d.get x := rfl
@[simp] theorem updEngine_fld (x : Fld) : (d.updEngine n f).fld x = d.fld x := rfl
@[simp] theorem updEngine_flag (x : Fld) : (d.updEngine n f).flag x = d.flag x := rfl

end On_updEngine

section On_updLink
variable (d : Dev) (n : Nat) (f : DpSt → DpSt)
@[simp] theorem updLink_rx : (d.updLink n f).rx = d.rx := rfl
@[simp] theorem updLink_raw : (d.updLink n f).raw = d.raw := rfl
@[simp] theorem updLink_freeCount : (d.updLink n f).freeCount = d.freeCount := rfl
@[simp] theorem updLink_out : (d.updLink n f).out = d.out := rfl
@[simp] theorem updLink_badParity : (d.updLink n f).badParity = d.badParity := rfl
@[simp] theorem updLink_faulted : (d.updLink n f).faulted = d.faulted := rfl
@[simp] theorem updLink_safe : (d.updLink n f).safe = d.safe := rfl
@[simp] theorem updLink_indFetch : (d.updLink n f).indFetch = d.indFetch := rfl
@[simp] theorem updLink_chain : (d.updLink n f).chain = d.chain := rfl
@[simp] theorem updLink_loader : (d.updLink n f).loader = d.loader := rfl
@[simp] theorem updLink_fp : (d.updLink n f).fp = d.fp := rfl
@[simp] theorem updLink_otp : (d.updLink n f).otp = d.otp := rfl
@[simp] theorem updLink_shadow : (d.updLink n f).shadow = d.shadow := rfl
@[simp] theorem updLink_ic : (d.updLink n f).ic = d.ic := rfl
@[simp] theorem updLink_board : (d.updLink n f).board = d.board := rfl
@[simp] theorem updLink_fs : (d.updLink n f).fs = d.fs := rfl
@[simp] theorem updLink_le : (d.updLink n f).le = d.le := rfl
@[simp] theorem updLink_gv : (d.updLink n f).gv = d.gv := rfl
@[simp] theorem updLink_hd : (d.updLink n f).hd = d.hd := rfl
@[simp] theorem updLink_srm : (d.updLink n f).srm = d.srm := rfl
@[simp] theorem updLink_bx : (d.updLink n f).bx = d.bx := rfl
@[simp] theorem updLink_cp : (d.updLink n f).cp = d.cp := rfl
@[simp] theorem updLink_streamer : (d.updLink n f).streamer = d.streamer := rfl
@[simp] theorem updLink_ky : (d.updLink n f).ky = d.ky := rfl
@[simp] theorem updLink_rp : (d.updLink n f).rp = d.rp := rfl
@[simp] theorem updLink_sh : (d.updLink n f).sh = d.sh := rfl
@[simp] theorem updLink_ts : (d.updLink n f).ts = d.ts := rfl
@[simp] theorem updLink_ev : (d.updLink n f).ev = d.ev := rfl
@[simp] theorem updLink_srsts : (d.updLink n f).srsts = d.srsts := rfl
@[simp] theorem updLink_get (x : Nat) : (d.updLink n f).get x = d.get x := rfl
@[simp] theorem updLink_fld (x : Fld) : (d.updLink n f).fld x = d.fld x := rfl
@[simp] theorem updLink_flag (x : Fld) : (d.updLink n f).flag x = d.flag x := rfl

end On_updLink

section On_updBx
variable (d : Dev) (n : Nat) (f : BxSt → BxSt)
@[simp] theorem updBx_rx : (d.updBx n f).rx = d.rx := rfl
@[simp] theorem updBx_raw : (d.updBx n f).raw = d.raw := rfl
@[simp] theorem updBx_freeCount : (d.updBx n f).freeCount = d.freeCount := rfl
@[simp] theorem updBx_out : (d.updBx n f).out = d.out := rfl
@[simp] theorem updBx_badParity : (d.updBx n f).badParity = d.badParity := rfl
@[simp] theorem updBx_faulted : (d.updBx n f).faulted = d.faulted := rfl
@[simp] theorem updBx_safe : (d.updBx n f).safe = d.safe := rfl
@[simp] theorem updBx_indFetch : (d.updBx n f).indFetch = d.indFetch := rfl
@[simp] theorem updBx_chain : (d.updBx n f).chain = d.chain := rfl
@[simp] theorem updBx_loader : (d.updBx n f).loader = d.loader := rfl
@[simp] theorem updBx_fp : (d.updBx n f).fp = d.fp := rfl
@[simp] theorem updBx_otp : (d.updBx n f).otp = d.otp := rfl
@[simp] theorem updBx_shadow : (d.updBx n f).shadow = d.shadow := rfl
@[simp] theorem updBx_ic : (d.updBx n f).ic = d.ic := rfl
@[simp] theorem updBx_board : (d.updBx n f).board = d.board := rfl
@[simp] theorem updBx_fs : (d.updBx n f).fs = d.fs := rfl
@[simp] theorem updBx_le : (d.updBx n f).le = d.le := rfl
@[simp] theorem updBx_gv : (d.updBx n f).gv = d.gv := rfl
@[simp] theorem updBx_hd : (d.updBx n f).hd = d.hd := rfl
@[simp] theorem updBx_dp : (d.updBx n f).dp = d.dp := rfl
@[simp] theorem updBx_srm : (d.updBx n f).srm = d.srm := rfl
@[simp] theorem updBx_cp : (d.updBx n f).cp = d.cp := rfl
@[simp] theorem updBx_streamer : (d.updBx n f).streamer = d.streamer := rfl
@[simp] theorem updBx_ky : (d.updBx n f).ky = d.ky := rfl
@[simp] theorem updBx_rp : (d.updBx n f).rp = d.rp := rfl
@[simp] theorem updBx_sh : (d.updBx n f).sh = d.sh := rfl
@[simp] theorem updBx_ts : (d.updBx n f).ts = d.ts := rfl
@[simp] theorem updBx_ev : (d.updBx n f).ev = d.ev := rfl
@[simp] theorem updBx_srsts : (d.updBx n f).srsts = d.srsts := rfl
@[simp] theorem updBx_get (x : Nat) : (d.updBx n f).get x = d.get x := rfl
@[simp] theorem updBx_fld (x : Fld) : (d.updBx n f).fld x = d.fld x := rfl
@[simp] theorem updBx_flag (x : Fld) : (d.updBx n f).flag x = d.flag x := rfl

end On_updBx

section On_updCp
variable (d : Dev) (n : Nat) (f : CpSt → CpSt)
@[simp] theorem updCp_rx : (d.updCp n f).rx = d.rx := rfl
@[simp] theorem updCp_raw : (d.updCp n f).raw = d.raw := rfl
@[simp] theorem updCp_freeCount : (d.updCp n f).freeCount = d.freeCount := rfl
@[simp] theorem updCp_out : (d.updCp n f).out = d.out := rfl
@[simp] theorem updCp_badParity : (d.updCp n f).badParity = d.badParity := rfl
@[simp] theorem updCp_faulted : (d.updCp n f).faulted = d.faulted := rfl
@[simp] theorem updCp_safe : (d.updCp n f).safe = d.safe := rfl
@[simp] theorem updCp_indFetch : (d.updCp n f).indFetch = d.indFetch := rfl
@[simp] theorem updCp_chain : (d.updCp n f).chain = d.chain := rfl
@[simp] theorem updCp_loader : (d.updCp n f).loader = d.loader := rfl
@[simp] theorem updCp_fp : (d.updCp n f).fp = d.fp := rfl
@[simp] theorem updCp_otp : (d.updCp n f).otp = d.otp := rfl
@[simp] theorem updCp_shadow : (d.updCp n f).shadow = d.shadow := rfl
@[simp] theorem updCp_ic : (d.updCp n f).ic = d.ic := rfl
@[simp] theorem updCp_board : (d.updCp n f).board = d.board := rfl
@[simp] theorem updCp_fs : (d.updCp n f).fs = d.fs := rfl
@[simp] theorem updCp_le : (d.updCp n f).le = d.le := rfl
@[simp] theorem updCp_gv : (d.updCp n f).gv = d.gv := rfl
@[simp] theorem updCp_hd : (d.updCp n f).hd = d.hd := rfl
@[simp] theorem updCp_dp : (d.updCp n f).dp = d.dp := rfl
@[simp] theorem updCp_srm : (d.updCp n f).srm = d.srm := rfl
@[simp] theorem updCp_bx : (d.updCp n f).bx = d.bx := rfl
@[simp] theorem updCp_streamer : (d.updCp n f).streamer = d.streamer := rfl
@[simp] theorem updCp_ky : (d.updCp n f).ky = d.ky := rfl
@[simp] theorem updCp_rp : (d.updCp n f).rp = d.rp := rfl
@[simp] theorem updCp_sh : (d.updCp n f).sh = d.sh := rfl
@[simp] theorem updCp_ts : (d.updCp n f).ts = d.ts := rfl
@[simp] theorem updCp_ev : (d.updCp n f).ev = d.ev := rfl
@[simp] theorem updCp_srsts : (d.updCp n f).srsts = d.srsts := rfl
@[simp] theorem updCp_get (x : Nat) : (d.updCp n f).get x = d.get x := rfl
@[simp] theorem updCp_fld (x : Fld) : (d.updCp n f).fld x = d.fld x := rfl
@[simp] theorem updCp_flag (x : Fld) : (d.updCp n f).flag x = d.flag x := rfl

end On_updCp

section On_updPin
variable (d : Dev) (n : Nat) (f : EvPin → EvPin)
@[simp] theorem updPin_rx : (d.updPin n f).rx = d.rx := rfl
@[simp] theorem updPin_raw : (d.updPin n f).raw = d.raw := rfl
@[simp] theorem updPin_freeCount : (d.updPin n f).freeCount = d.freeCount := rfl
@[simp] theorem updPin_out : (d.updPin n f).out = d.out := rfl
@[simp] theorem updPin_badParity : (d.updPin n f).badParity = d.badParity := rfl
@[simp] theorem updPin_faulted : (d.updPin n f).faulted = d.faulted := rfl
@[simp] theorem updPin_safe : (d.updPin n f).safe = d.safe := rfl
@[simp] theorem updPin_indFetch : (d.updPin n f).indFetch = d.indFetch := rfl
@[simp] theorem updPin_chain : (d.updPin n f).chain = d.chain := rfl
@[simp] theorem updPin_loader : (d.updPin n f).loader = d.loader := rfl
@[simp] theorem updPin_fp : (d.updPin n f).fp = d.fp := rfl
@[simp] theorem updPin_otp : (d.updPin n f).otp = d.otp := rfl
@[simp] theorem updPin_shadow : (d.updPin n f).shadow = d.shadow := rfl
@[simp] theorem updPin_ic : (d.updPin n f).ic = d.ic := rfl
@[simp] theorem updPin_board : (d.updPin n f).board = d.board := rfl
@[simp] theorem updPin_fs : (d.updPin n f).fs = d.fs := rfl
@[simp] theorem updPin_le : (d.updPin n f).le = d.le := rfl
@[simp] theorem updPin_gv : (d.updPin n f).gv = d.gv := rfl
@[simp] theorem updPin_hd : (d.updPin n f).hd = d.hd := rfl
@[simp] theorem updPin_dp : (d.updPin n f).dp = d.dp := rfl
@[simp] theorem updPin_srm : (d.updPin n f).srm = d.srm := rfl
@[simp] theorem updPin_bx : (d.updPin n f).bx = d.bx := rfl
@[simp] theorem updPin_cp : (d.updPin n f).cp = d.cp := rfl
@[simp] theorem updPin_streamer : (d.updPin n f).streamer = d.streamer := rfl
@[simp] theorem updPin_ky : (d.updPin n f).ky = d.ky := rfl
@[simp] theorem updPin_rp : (d.updPin n f).rp = d.rp := rfl
@[simp] theorem updPin_sh : (d.updPin n f).sh = d.sh := rfl
@[simp] theorem updPin_ts : (d.updPin n f).ts = d.ts := rfl
@[simp] theorem updPin_srsts : (d.updPin n f).srsts = d.srsts := rfl
@[simp] theorem updPin_get (x : Nat) : (d.updPin n f).get x = d.get x := rfl
@[simp] theorem updPin_fld (x : Fld) : (d.updPin n f).fld x = d.fld x := rfl
@[simp] theorem updPin_flag (x : Fld) : (d.updPin n f).flag x = d.flag x := rfl

end On_updPin

section On_updSurf
variable (d : Dev) (n : Nat) (f : SurfaceSt → SurfaceSt)
@[simp] theorem updSurf_rx : (d.updSurf n f).rx = d.rx := rfl
@[simp] theorem updSurf_raw : (d.updSurf n f).raw = d.raw := rfl
@[simp] theorem updSurf_freeCount : (d.updSurf n f).freeCount = d.freeCount := rfl
@[simp] theorem updSurf_out : (d.updSurf n f).out = d.out := rfl
@[simp] theorem updSurf_badParity : (d.updSurf n f).badParity = d.badParity := rfl
@[simp] theorem updSurf_faulted : (d.updSurf n f).faulted = d.faulted := rfl
@[simp] theorem updSurf_safe : (d.updSurf n f).safe = d.safe := rfl
@[simp] theorem updSurf_indFetch : (d.updSurf n f).indFetch = d.indFetch := rfl
@[simp] theorem updSurf_chain : (d.updSurf n f).chain = d.chain := rfl
@[simp] theorem updSurf_loader : (d.updSurf n f).loader = d.loader := rfl
@[simp] theorem updSurf_fp : (d.updSurf n f).fp = d.fp := rfl
@[simp] theorem updSurf_otp : (d.updSurf n f).otp = d.otp := rfl
@[simp] theorem updSurf_shadow : (d.updSurf n f).shadow = d.shadow := rfl
@[simp] theorem updSurf_ic : (d.updSurf n f).ic = d.ic := rfl
@[simp] theorem updSurf_board : (d.updSurf n f).board = d.board := rfl
@[simp] theorem updSurf_fs : (d.updSurf n f).fs = d.fs := rfl
@[simp] theorem updSurf_le : (d.updSurf n f).le = d.le := rfl
@[simp] theorem updSurf_hd : (d.updSurf n f).hd = d.hd := rfl
@[simp] theorem updSurf_dp : (d.updSurf n f).dp = d.dp := rfl
@[simp] theorem updSurf_srm : (d.updSurf n f).srm = d.srm := rfl
@[simp] theorem updSurf_bx : (d.updSurf n f).bx = d.bx := rfl
@[simp] theorem updSurf_cp : (d.updSurf n f).cp = d.cp := rfl
@[simp] theorem updSurf_streamer : (d.updSurf n f).streamer = d.streamer := rfl
@[simp] theorem updSurf_ky : (d.updSurf n f).ky = d.ky := rfl
@[simp] theorem updSurf_rp : (d.updSurf n f).rp = d.rp := rfl
@[simp] theorem updSurf_sh : (d.updSurf n f).sh = d.sh := rfl
@[simp] theorem updSurf_ts : (d.updSurf n f).ts = d.ts := rfl
@[simp] theorem updSurf_ev : (d.updSurf n f).ev = d.ev := rfl
@[simp] theorem updSurf_srsts : (d.updSurf n f).srsts = d.srsts := rfl
@[simp] theorem updSurf_get (x : Nat) : (d.updSurf n f).get x = d.get x := rfl
@[simp] theorem updSurf_fld (x : Fld) : (d.updSurf n f).fld x = d.fld x := rfl
@[simp] theorem updSurf_flag (x : Fld) : (d.updSurf n f).flag x = d.flag x := rfl

end On_updSurf

section On_updRes
variable (d : Dev) (n : Nat) (f : HeadRes → HeadRes)
@[simp] theorem updRes_rx : (d.updRes n f).rx = d.rx := rfl
@[simp] theorem updRes_raw : (d.updRes n f).raw = d.raw := rfl
@[simp] theorem updRes_freeCount : (d.updRes n f).freeCount = d.freeCount := rfl
@[simp] theorem updRes_out : (d.updRes n f).out = d.out := rfl
@[simp] theorem updRes_badParity : (d.updRes n f).badParity = d.badParity := rfl
@[simp] theorem updRes_faulted : (d.updRes n f).faulted = d.faulted := rfl
@[simp] theorem updRes_safe : (d.updRes n f).safe = d.safe := rfl
@[simp] theorem updRes_indFetch : (d.updRes n f).indFetch = d.indFetch := rfl
@[simp] theorem updRes_chain : (d.updRes n f).chain = d.chain := rfl
@[simp] theorem updRes_loader : (d.updRes n f).loader = d.loader := rfl
@[simp] theorem updRes_fp : (d.updRes n f).fp = d.fp := rfl
@[simp] theorem updRes_otp : (d.updRes n f).otp = d.otp := rfl
@[simp] theorem updRes_shadow : (d.updRes n f).shadow = d.shadow := rfl
@[simp] theorem updRes_ic : (d.updRes n f).ic = d.ic := rfl
@[simp] theorem updRes_board : (d.updRes n f).board = d.board := rfl
@[simp] theorem updRes_fs : (d.updRes n f).fs = d.fs := rfl
@[simp] theorem updRes_le : (d.updRes n f).le = d.le := rfl
@[simp] theorem updRes_hd : (d.updRes n f).hd = d.hd := rfl
@[simp] theorem updRes_dp : (d.updRes n f).dp = d.dp := rfl
@[simp] theorem updRes_srm : (d.updRes n f).srm = d.srm := rfl
@[simp] theorem updRes_bx : (d.updRes n f).bx = d.bx := rfl
@[simp] theorem updRes_cp : (d.updRes n f).cp = d.cp := rfl
@[simp] theorem updRes_streamer : (d.updRes n f).streamer = d.streamer := rfl
@[simp] theorem updRes_ky : (d.updRes n f).ky = d.ky := rfl
@[simp] theorem updRes_rp : (d.updRes n f).rp = d.rp := rfl
@[simp] theorem updRes_sh : (d.updRes n f).sh = d.sh := rfl
@[simp] theorem updRes_ts : (d.updRes n f).ts = d.ts := rfl
@[simp] theorem updRes_ev : (d.updRes n f).ev = d.ev := rfl
@[simp] theorem updRes_srsts : (d.updRes n f).srsts = d.srsts := rfl
@[simp] theorem updRes_get (x : Nat) : (d.updRes n f).get x = d.get x := rfl
@[simp] theorem updRes_fld (x : Fld) : (d.updRes n f).fld x = d.fld x := rfl
@[simp] theorem updRes_flag (x : Fld) : (d.updRes n f).flag x = d.flag x := rfl

end On_updRes

section On_updTarget
variable (d : Dev) (n : Nat) (f : IcTarget → IcTarget)
@[simp] theorem updTarget_rx : (d.updTarget n f).rx = d.rx := rfl
@[simp] theorem updTarget_raw : (d.updTarget n f).raw = d.raw := rfl
@[simp] theorem updTarget_freeCount : (d.updTarget n f).freeCount = d.freeCount := rfl
@[simp] theorem updTarget_out : (d.updTarget n f).out = d.out := rfl
@[simp] theorem updTarget_badParity : (d.updTarget n f).badParity = d.badParity := rfl
@[simp] theorem updTarget_faulted : (d.updTarget n f).faulted = d.faulted := rfl
@[simp] theorem updTarget_safe : (d.updTarget n f).safe = d.safe := rfl
@[simp] theorem updTarget_indFetch : (d.updTarget n f).indFetch = d.indFetch := rfl
@[simp] theorem updTarget_chain : (d.updTarget n f).chain = d.chain := rfl
@[simp] theorem updTarget_loader : (d.updTarget n f).loader = d.loader := rfl
@[simp] theorem updTarget_fp : (d.updTarget n f).fp = d.fp := rfl
@[simp] theorem updTarget_otp : (d.updTarget n f).otp = d.otp := rfl
@[simp] theorem updTarget_shadow : (d.updTarget n f).shadow = d.shadow := rfl
@[simp] theorem updTarget_board : (d.updTarget n f).board = d.board := rfl
@[simp] theorem updTarget_fs : (d.updTarget n f).fs = d.fs := rfl
@[simp] theorem updTarget_le : (d.updTarget n f).le = d.le := rfl
@[simp] theorem updTarget_gv : (d.updTarget n f).gv = d.gv := rfl
@[simp] theorem updTarget_hd : (d.updTarget n f).hd = d.hd := rfl
@[simp] theorem updTarget_dp : (d.updTarget n f).dp = d.dp := rfl
@[simp] theorem updTarget_srm : (d.updTarget n f).srm = d.srm := rfl
@[simp] theorem updTarget_bx : (d.updTarget n f).bx = d.bx := rfl
@[simp] theorem updTarget_cp : (d.updTarget n f).cp = d.cp := rfl
@[simp] theorem updTarget_streamer : (d.updTarget n f).streamer = d.streamer := rfl
@[simp] theorem updTarget_ky : (d.updTarget n f).ky = d.ky := rfl
@[simp] theorem updTarget_rp : (d.updTarget n f).rp = d.rp := rfl
@[simp] theorem updTarget_sh : (d.updTarget n f).sh = d.sh := rfl
@[simp] theorem updTarget_ts : (d.updTarget n f).ts = d.ts := rfl
@[simp] theorem updTarget_ev : (d.updTarget n f).ev = d.ev := rfl
@[simp] theorem updTarget_srsts : (d.updTarget n f).srsts = d.srsts := rfl
@[simp] theorem updTarget_get (x : Nat) : (d.updTarget n f).get x = d.get x := rfl
@[simp] theorem updTarget_fld (x : Fld) : (d.updTarget n f).fld x = d.fld x := rfl
@[simp] theorem updTarget_flag (x : Fld) : (d.updTarget n f).flag x = d.flag x := rfl

end On_updTarget

section On_updCoal
variable (d : Dev) (n : Nat) (f : CoalGroup → CoalGroup)
@[simp] theorem updCoal_rx : (d.updCoal n f).rx = d.rx := rfl
@[simp] theorem updCoal_raw : (d.updCoal n f).raw = d.raw := rfl
@[simp] theorem updCoal_freeCount : (d.updCoal n f).freeCount = d.freeCount := rfl
@[simp] theorem updCoal_out : (d.updCoal n f).out = d.out := rfl
@[simp] theorem updCoal_badParity : (d.updCoal n f).badParity = d.badParity := rfl
@[simp] theorem updCoal_faulted : (d.updCoal n f).faulted = d.faulted := rfl
@[simp] theorem updCoal_safe : (d.updCoal n f).safe = d.safe := rfl
@[simp] theorem updCoal_indFetch : (d.updCoal n f).indFetch = d.indFetch := rfl
@[simp] theorem updCoal_chain : (d.updCoal n f).chain = d.chain := rfl
@[simp] theorem updCoal_loader : (d.updCoal n f).loader = d.loader := rfl
@[simp] theorem updCoal_fp : (d.updCoal n f).fp = d.fp := rfl
@[simp] theorem updCoal_otp : (d.updCoal n f).otp = d.otp := rfl
@[simp] theorem updCoal_shadow : (d.updCoal n f).shadow = d.shadow := rfl
@[simp] theorem updCoal_board : (d.updCoal n f).board = d.board := rfl
@[simp] theorem updCoal_fs : (d.updCoal n f).fs = d.fs := rfl
@[simp] theorem updCoal_le : (d.updCoal n f).le = d.le := rfl
@[simp] theorem updCoal_gv : (d.updCoal n f).gv = d.gv := rfl
@[simp] theorem updCoal_hd : (d.updCoal n f).hd = d.hd := rfl
@[simp] theorem updCoal_dp : (d.updCoal n f).dp = d.dp := rfl
@[simp] theorem updCoal_srm : (d.updCoal n f).srm = d.srm := rfl
@[simp] theorem updCoal_bx : (d.updCoal n f).bx = d.bx := rfl
@[simp] theorem updCoal_cp : (d.updCoal n f).cp = d.cp := rfl
@[simp] theorem updCoal_streamer : (d.updCoal n f).streamer = d.streamer := rfl
@[simp] theorem updCoal_ky : (d.updCoal n f).ky = d.ky := rfl
@[simp] theorem updCoal_rp : (d.updCoal n f).rp = d.rp := rfl
@[simp] theorem updCoal_sh : (d.updCoal n f).sh = d.sh := rfl
@[simp] theorem updCoal_ts : (d.updCoal n f).ts = d.ts := rfl
@[simp] theorem updCoal_ev : (d.updCoal n f).ev = d.ev := rfl
@[simp] theorem updCoal_srsts : (d.updCoal n f).srsts = d.srsts := rfl
@[simp] theorem updCoal_get (x : Nat) : (d.updCoal n f).get x = d.get x := rfl
@[simp] theorem updCoal_fld (x : Fld) : (d.updCoal n f).fld x = d.fld x := rfl
@[simp] theorem updCoal_flag (x : Fld) : (d.updCoal n f).flag x = d.flag x := rfl

end On_updCoal

section On_updRp
variable (d : Dev) (n : Nat) (f : RpSt → RpSt)
@[simp] theorem updRp_rx : (d.updRp n f).rx = d.rx := rfl
@[simp] theorem updRp_raw : (d.updRp n f).raw = d.raw := rfl
@[simp] theorem updRp_freeCount : (d.updRp n f).freeCount = d.freeCount := rfl
@[simp] theorem updRp_out : (d.updRp n f).out = d.out := rfl
@[simp] theorem updRp_badParity : (d.updRp n f).badParity = d.badParity := rfl
@[simp] theorem updRp_faulted : (d.updRp n f).faulted = d.faulted := rfl
@[simp] theorem updRp_safe : (d.updRp n f).safe = d.safe := rfl
@[simp] theorem updRp_indFetch : (d.updRp n f).indFetch = d.indFetch := rfl
@[simp] theorem updRp_chain : (d.updRp n f).chain = d.chain := rfl
@[simp] theorem updRp_loader : (d.updRp n f).loader = d.loader := rfl
@[simp] theorem updRp_fp : (d.updRp n f).fp = d.fp := rfl
@[simp] theorem updRp_otp : (d.updRp n f).otp = d.otp := rfl
@[simp] theorem updRp_shadow : (d.updRp n f).shadow = d.shadow := rfl
@[simp] theorem updRp_ic : (d.updRp n f).ic = d.ic := rfl
@[simp] theorem updRp_board : (d.updRp n f).board = d.board := rfl
@[simp] theorem updRp_fs : (d.updRp n f).fs = d.fs := rfl
@[simp] theorem updRp_le : (d.updRp n f).le = d.le := rfl
@[simp] theorem updRp_gv : (d.updRp n f).gv = d.gv := rfl
@[simp] theorem updRp_hd : (d.updRp n f).hd = d.hd := rfl
@[simp] theorem updRp_dp : (d.updRp n f).dp = d.dp := rfl
@[simp] theorem updRp_srm : (d.updRp n f).srm = d.srm := rfl
@[simp] theorem updRp_bx : (d.updRp n f).bx = d.bx := rfl
@[simp] theorem updRp_cp : (d.updRp n f).cp = d.cp := rfl
@[simp] theorem updRp_streamer : (d.updRp n f).streamer = d.streamer := rfl
@[simp] theorem updRp_ky : (d.updRp n f).ky = d.ky := rfl
@[simp] theorem updRp_sh : (d.updRp n f).sh = d.sh := rfl
@[simp] theorem updRp_ts : (d.updRp n f).ts = d.ts := rfl
@[simp] theorem updRp_ev : (d.updRp n f).ev = d.ev := rfl
@[simp] theorem updRp_srsts : (d.updRp n f).srsts = d.srsts := rfl
@[simp] theorem updRp_get (x : Nat) : (d.updRp n f).get x = d.get x := rfl
@[simp] theorem updRp_fld (x : Fld) : (d.updRp n f).fld x = d.fld x := rfl
@[simp] theorem updRp_flag (x : Fld) : (d.updRp n f).flag x = d.flag x := rfl

end On_updRp

section On_updSh
variable (d : Dev) (f : ShSt → ShSt)
@[simp] theorem updSh_rx : (d.updSh f).rx = d.rx := rfl
@[simp] theorem updSh_raw : (d.updSh f).raw = d.raw := rfl
@[simp] theorem updSh_freeCount : (d.updSh f).freeCount = d.freeCount := rfl
@[simp] theorem updSh_out : (d.updSh f).out = d.out := rfl
@[simp] theorem updSh_badParity : (d.updSh f).badParity = d.badParity := rfl
@[simp] theorem updSh_faulted : (d.updSh f).faulted = d.faulted := rfl
@[simp] theorem updSh_safe : (d.updSh f).safe = d.safe := rfl
@[simp] theorem updSh_indFetch : (d.updSh f).indFetch = d.indFetch := rfl
@[simp] theorem updSh_chain : (d.updSh f).chain = d.chain := rfl
@[simp] theorem updSh_loader : (d.updSh f).loader = d.loader := rfl
@[simp] theorem updSh_fp : (d.updSh f).fp = d.fp := rfl
@[simp] theorem updSh_otp : (d.updSh f).otp = d.otp := rfl
@[simp] theorem updSh_shadow : (d.updSh f).shadow = d.shadow := rfl
@[simp] theorem updSh_ic : (d.updSh f).ic = d.ic := rfl
@[simp] theorem updSh_board : (d.updSh f).board = d.board := rfl
@[simp] theorem updSh_fs : (d.updSh f).fs = d.fs := rfl
@[simp] theorem updSh_le : (d.updSh f).le = d.le := rfl
@[simp] theorem updSh_gv : (d.updSh f).gv = d.gv := rfl
@[simp] theorem updSh_hd : (d.updSh f).hd = d.hd := rfl
@[simp] theorem updSh_dp : (d.updSh f).dp = d.dp := rfl
@[simp] theorem updSh_srm : (d.updSh f).srm = d.srm := rfl
@[simp] theorem updSh_bx : (d.updSh f).bx = d.bx := rfl
@[simp] theorem updSh_cp : (d.updSh f).cp = d.cp := rfl
@[simp] theorem updSh_streamer : (d.updSh f).streamer = d.streamer := rfl
@[simp] theorem updSh_ky : (d.updSh f).ky = d.ky := rfl
@[simp] theorem updSh_rp : (d.updSh f).rp = d.rp := rfl
@[simp] theorem updSh_ts : (d.updSh f).ts = d.ts := rfl
@[simp] theorem updSh_ev : (d.updSh f).ev = d.ev := rfl
@[simp] theorem updSh_srsts : (d.updSh f).srsts = d.srsts := rfl
@[simp] theorem updSh_get (x : Nat) : (d.updSh f).get x = d.get x := rfl
@[simp] theorem updSh_fld (x : Fld) : (d.updSh f).fld x = d.fld x := rfl
@[simp] theorem updSh_flag (x : Fld) : (d.updSh f).flag x = d.flag x := rfl

end On_updSh

section On_updClass
variable (d : Dev) (n c : Nat) (f : ClassSt → ClassSt)
@[simp] theorem updClass_rx : (d.updClass n c f).rx = d.rx := rfl
@[simp] theorem updClass_raw : (d.updClass n c f).raw = d.raw := rfl
@[simp] theorem updClass_freeCount : (d.updClass n c f).freeCount = d.freeCount := rfl
@[simp] theorem updClass_out : (d.updClass n c f).out = d.out := rfl
@[simp] theorem updClass_badParity : (d.updClass n c f).badParity = d.badParity := rfl
@[simp] theorem updClass_faulted : (d.updClass n c f).faulted = d.faulted := rfl
@[simp] theorem updClass_safe : (d.updClass n c f).safe = d.safe := rfl
@[simp] theorem updClass_indFetch : (d.updClass n c f).indFetch = d.indFetch := rfl
@[simp] theorem updClass_chain : (d.updClass n c f).chain = d.chain := rfl
@[simp] theorem updClass_loader : (d.updClass n c f).loader = d.loader := rfl
@[simp] theorem updClass_fp : (d.updClass n c f).fp = d.fp := rfl
@[simp] theorem updClass_otp : (d.updClass n c f).otp = d.otp := rfl
@[simp] theorem updClass_shadow : (d.updClass n c f).shadow = d.shadow := rfl
@[simp] theorem updClass_ic : (d.updClass n c f).ic = d.ic := rfl
@[simp] theorem updClass_board : (d.updClass n c f).board = d.board := rfl
@[simp] theorem updClass_fs : (d.updClass n c f).fs = d.fs := rfl
@[simp] theorem updClass_le : (d.updClass n c f).le = d.le := rfl
@[simp] theorem updClass_gv : (d.updClass n c f).gv = d.gv := rfl
@[simp] theorem updClass_hd : (d.updClass n c f).hd = d.hd := rfl
@[simp] theorem updClass_dp : (d.updClass n c f).dp = d.dp := rfl
@[simp] theorem updClass_srm : (d.updClass n c f).srm = d.srm := rfl
@[simp] theorem updClass_bx : (d.updClass n c f).bx = d.bx := rfl
@[simp] theorem updClass_cp : (d.updClass n c f).cp = d.cp := rfl
@[simp] theorem updClass_streamer : (d.updClass n c f).streamer = d.streamer := rfl
@[simp] theorem updClass_ky : (d.updClass n c f).ky = d.ky := rfl
@[simp] theorem updClass_sh : (d.updClass n c f).sh = d.sh := rfl
@[simp] theorem updClass_ts : (d.updClass n c f).ts = d.ts := rfl
@[simp] theorem updClass_ev : (d.updClass n c f).ev = d.ev := rfl
@[simp] theorem updClass_srsts : (d.updClass n c f).srsts = d.srsts := rfl
@[simp] theorem updClass_get (x : Nat) : (d.updClass n c f).get x = d.get x := rfl
@[simp] theorem updClass_fld (x : Fld) : (d.updClass n c f).fld x = d.fld x := rfl
@[simp] theorem updClass_flag (x : Fld) : (d.updClass n c f).flag x = d.flag x := rfl

end On_updClass

section On_updChannel
variable (d : Dev) (k : Nat) (f : ChannelSt → ChannelSt)
@[simp] theorem updChannel_rx : (d.updChannel k f).rx = d.rx := rfl
@[simp] theorem updChannel_raw : (d.updChannel k f).raw = d.raw := rfl
@[simp] theorem updChannel_freeCount : (d.updChannel k f).freeCount = d.freeCount := rfl
@[simp] theorem updChannel_out : (d.updChannel k f).out = d.out := rfl
@[simp] theorem updChannel_badParity : (d.updChannel k f).badParity = d.badParity := rfl
@[simp] theorem updChannel_faulted : (d.updChannel k f).faulted = d.faulted := rfl
@[simp] theorem updChannel_safe : (d.updChannel k f).safe = d.safe := rfl
@[simp] theorem updChannel_indFetch : (d.updChannel k f).indFetch = d.indFetch := rfl
@[simp] theorem updChannel_chain : (d.updChannel k f).chain = d.chain := rfl
@[simp] theorem updChannel_loader : (d.updChannel k f).loader = d.loader := rfl
@[simp] theorem updChannel_fp : (d.updChannel k f).fp = d.fp := rfl
@[simp] theorem updChannel_otp : (d.updChannel k f).otp = d.otp := rfl
@[simp] theorem updChannel_shadow : (d.updChannel k f).shadow = d.shadow := rfl
@[simp] theorem updChannel_ic : (d.updChannel k f).ic = d.ic := rfl
@[simp] theorem updChannel_board : (d.updChannel k f).board = d.board := rfl
@[simp] theorem updChannel_fs : (d.updChannel k f).fs = d.fs := rfl
@[simp] theorem updChannel_le : (d.updChannel k f).le = d.le := rfl
@[simp] theorem updChannel_gv : (d.updChannel k f).gv = d.gv := rfl
@[simp] theorem updChannel_hd : (d.updChannel k f).hd = d.hd := rfl
@[simp] theorem updChannel_dp : (d.updChannel k f).dp = d.dp := rfl
@[simp] theorem updChannel_srm : (d.updChannel k f).srm = d.srm := rfl
@[simp] theorem updChannel_bx : (d.updChannel k f).bx = d.bx := rfl
@[simp] theorem updChannel_cp : (d.updChannel k f).cp = d.cp := rfl
@[simp] theorem updChannel_streamer : (d.updChannel k f).streamer = d.streamer := rfl
@[simp] theorem updChannel_ky : (d.updChannel k f).ky = d.ky := rfl
@[simp] theorem updChannel_rp : (d.updChannel k f).rp = d.rp := rfl
@[simp] theorem updChannel_ts : (d.updChannel k f).ts = d.ts := rfl
@[simp] theorem updChannel_ev : (d.updChannel k f).ev = d.ev := rfl
@[simp] theorem updChannel_srsts : (d.updChannel k f).srsts = d.srsts := rfl
@[simp] theorem updChannel_get (x : Nat) : (d.updChannel k f).get x = d.get x := rfl
@[simp] theorem updChannel_fld (x : Fld) : (d.updChannel k f).fld x = d.fld x := rfl
@[simp] theorem updChannel_flag (x : Fld) : (d.updChannel k f).flag x = d.flag x := rfl

end On_updChannel

section On_updPiece
variable (d : Dev) (k id : Nat) (f : Piece → Piece)
@[simp] theorem updPiece_rx : (d.updPiece k id f).rx = d.rx := rfl
@[simp] theorem updPiece_raw : (d.updPiece k id f).raw = d.raw := rfl
@[simp] theorem updPiece_freeCount : (d.updPiece k id f).freeCount = d.freeCount := rfl
@[simp] theorem updPiece_out : (d.updPiece k id f).out = d.out := rfl
@[simp] theorem updPiece_badParity : (d.updPiece k id f).badParity = d.badParity := rfl
@[simp] theorem updPiece_faulted : (d.updPiece k id f).faulted = d.faulted := rfl
@[simp] theorem updPiece_safe : (d.updPiece k id f).safe = d.safe := rfl
@[simp] theorem updPiece_indFetch : (d.updPiece k id f).indFetch = d.indFetch := rfl
@[simp] theorem updPiece_chain : (d.updPiece k id f).chain = d.chain := rfl
@[simp] theorem updPiece_loader : (d.updPiece k id f).loader = d.loader := rfl
@[simp] theorem updPiece_fp : (d.updPiece k id f).fp = d.fp := rfl
@[simp] theorem updPiece_otp : (d.updPiece k id f).otp = d.otp := rfl
@[simp] theorem updPiece_shadow : (d.updPiece k id f).shadow = d.shadow := rfl
@[simp] theorem updPiece_ic : (d.updPiece k id f).ic = d.ic := rfl
@[simp] theorem updPiece_board : (d.updPiece k id f).board = d.board := rfl
@[simp] theorem updPiece_fs : (d.updPiece k id f).fs = d.fs := rfl
@[simp] theorem updPiece_le : (d.updPiece k id f).le = d.le := rfl
@[simp] theorem updPiece_gv : (d.updPiece k id f).gv = d.gv := rfl
@[simp] theorem updPiece_hd : (d.updPiece k id f).hd = d.hd := rfl
@[simp] theorem updPiece_dp : (d.updPiece k id f).dp = d.dp := rfl
@[simp] theorem updPiece_srm : (d.updPiece k id f).srm = d.srm := rfl
@[simp] theorem updPiece_bx : (d.updPiece k id f).bx = d.bx := rfl
@[simp] theorem updPiece_cp : (d.updPiece k id f).cp = d.cp := rfl
@[simp] theorem updPiece_streamer : (d.updPiece k id f).streamer = d.streamer := rfl
@[simp] theorem updPiece_ky : (d.updPiece k id f).ky = d.ky := rfl
@[simp] theorem updPiece_rp : (d.updPiece k id f).rp = d.rp := rfl
@[simp] theorem updPiece_ts : (d.updPiece k id f).ts = d.ts := rfl
@[simp] theorem updPiece_ev : (d.updPiece k id f).ev = d.ev := rfl
@[simp] theorem updPiece_srsts : (d.updPiece k id f).srsts = d.srsts := rfl
@[simp] theorem updPiece_get (x : Nat) : (d.updPiece k id f).get x = d.get x := rfl
@[simp] theorem updPiece_fld (x : Fld) : (d.updPiece k id f).fld x = d.fld x := rfl
@[simp] theorem updPiece_flag (x : Fld) : (d.updPiece k id f).flag x = d.flag x := rfl

end On_updPiece

section On_updSource
variable (d : Dev) (s : Nat) (f : SourceSt → SourceSt)
@[simp] theorem updSource_rx : (d.updSource s f).rx = d.rx := rfl
@[simp] theorem updSource_raw : (d.updSource s f).raw = d.raw := rfl
@[simp] theorem updSource_freeCount : (d.updSource s f).freeCount = d.freeCount := rfl
@[simp] theorem updSource_out : (d.updSource s f).out = d.out := rfl
@[simp] theorem updSource_badParity : (d.updSource s f).badParity = d.badParity := rfl
@[simp] theorem updSource_faulted : (d.updSource s f).faulted = d.faulted := rfl
@[simp] theorem updSource_safe : (d.updSource s f).safe = d.safe := rfl
@[simp] theorem updSource_indFetch : (d.updSource s f).indFetch = d.indFetch := rfl
@[simp] theorem updSource_chain : (d.updSource s f).chain = d.chain := rfl
@[simp] theorem updSource_loader : (d.updSource s f).loader = d.loader := rfl
@[simp] theorem updSource_fp : (d.updSource s f).fp = d.fp := rfl
@[simp] theorem updSource_otp : (d.updSource s f).otp = d.otp := rfl
@[simp] theorem updSource_shadow : (d.updSource s f).shadow = d.shadow := rfl
@[simp] theorem updSource_ic : (d.updSource s f).ic = d.ic := rfl
@[simp] theorem updSource_board : (d.updSource s f).board = d.board := rfl
@[simp] theorem updSource_fs : (d.updSource s f).fs = d.fs := rfl
@[simp] theorem updSource_le : (d.updSource s f).le = d.le := rfl
@[simp] theorem updSource_gv : (d.updSource s f).gv = d.gv := rfl
@[simp] theorem updSource_hd : (d.updSource s f).hd = d.hd := rfl
@[simp] theorem updSource_dp : (d.updSource s f).dp = d.dp := rfl
@[simp] theorem updSource_srm : (d.updSource s f).srm = d.srm := rfl
@[simp] theorem updSource_bx : (d.updSource s f).bx = d.bx := rfl
@[simp] theorem updSource_cp : (d.updSource s f).cp = d.cp := rfl
@[simp] theorem updSource_streamer : (d.updSource s f).streamer = d.streamer := rfl
@[simp] theorem updSource_ky : (d.updSource s f).ky = d.ky := rfl
@[simp] theorem updSource_rp : (d.updSource s f).rp = d.rp := rfl
@[simp] theorem updSource_ts : (d.updSource s f).ts = d.ts := rfl
@[simp] theorem updSource_ev : (d.updSource s f).ev = d.ev := rfl
@[simp] theorem updSource_srsts : (d.updSource s f).srsts = d.srsts := rfl
@[simp] theorem updSource_get (x : Nat) : (d.updSource s f).get x = d.get x := rfl
@[simp] theorem updSource_fld (x : Fld) : (d.updSource s f).fld x = d.fld x := rfl
@[simp] theorem updSource_flag (x : Fld) : (d.updSource s f).flag x = d.flag x := rfl

end On_updSource

section On_updStream
variable (d : Dev) (m : Nat) (f : StreamSt → StreamSt)
@[simp] theorem updStream_rx : (d.updStream m f).rx = d.rx := rfl
@[simp] theorem updStream_raw : (d.updStream m f).raw = d.raw := rfl
@[simp] theorem updStream_freeCount : (d.updStream m f).freeCount = d.freeCount := rfl
@[simp] theorem updStream_out : (d.updStream m f).out = d.out := rfl
@[simp] theorem updStream_badParity : (d.updStream m f).badParity = d.badParity := rfl
@[simp] theorem updStream_faulted : (d.updStream m f).faulted = d.faulted := rfl
@[simp] theorem updStream_safe : (d.updStream m f).safe = d.safe := rfl
@[simp] theorem updStream_indFetch : (d.updStream m f).indFetch = d.indFetch := rfl
@[simp] theorem updStream_chain : (d.updStream m f).chain = d.chain := rfl
@[simp] theorem updStream_loader : (d.updStream m f).loader = d.loader := rfl
@[simp] theorem updStream_fp : (d.updStream m f).fp = d.fp := rfl
@[simp] theorem updStream_otp : (d.updStream m f).otp = d.otp := rfl
@[simp] theorem updStream_shadow : (d.updStream m f).shadow = d.shadow := rfl
@[simp] theorem updStream_ic : (d.updStream m f).ic = d.ic := rfl
@[simp] theorem updStream_board : (d.updStream m f).board = d.board := rfl
@[simp] theorem updStream_fs : (d.updStream m f).fs = d.fs := rfl
@[simp] theorem updStream_le : (d.updStream m f).le = d.le := rfl
@[simp] theorem updStream_gv : (d.updStream m f).gv = d.gv := rfl
@[simp] theorem updStream_hd : (d.updStream m f).hd = d.hd := rfl
@[simp] theorem updStream_dp : (d.updStream m f).dp = d.dp := rfl
@[simp] theorem updStream_srm : (d.updStream m f).srm = d.srm := rfl
@[simp] theorem updStream_bx : (d.updStream m f).bx = d.bx := rfl
@[simp] theorem updStream_cp : (d.updStream m f).cp = d.cp := rfl
@[simp] theorem updStream_streamer : (d.updStream m f).streamer = d.streamer := rfl
@[simp] theorem updStream_ky : (d.updStream m f).ky = d.ky := rfl
@[simp] theorem updStream_rp : (d.updStream m f).rp = d.rp := rfl
@[simp] theorem updStream_ts : (d.updStream m f).ts = d.ts := rfl
@[simp] theorem updStream_ev : (d.updStream m f).ev = d.ev := rfl
@[simp] theorem updStream_srsts : (d.updStream m f).srsts = d.srsts := rfl
@[simp] theorem updStream_get (x : Nat) : (d.updStream m f).get x = d.get x := rfl
@[simp] theorem updStream_fld (x : Fld) : (d.updStream m f).fld x = d.fld x := rfl
@[simp] theorem updStream_flag (x : Fld) : (d.updStream m f).flag x = d.flag x := rfl

end On_updStream

section On_updAlmanac
variable (d : Dev) (p : Nat) (f : AlmanacSt → AlmanacSt)
@[simp] theorem updAlmanac_rx : (d.updAlmanac p f).rx = d.rx := rfl
@[simp] theorem updAlmanac_raw : (d.updAlmanac p f).raw = d.raw := rfl
@[simp] theorem updAlmanac_freeCount : (d.updAlmanac p f).freeCount = d.freeCount := rfl
@[simp] theorem updAlmanac_out : (d.updAlmanac p f).out = d.out := rfl
@[simp] theorem updAlmanac_badParity : (d.updAlmanac p f).badParity = d.badParity := rfl
@[simp] theorem updAlmanac_faulted : (d.updAlmanac p f).faulted = d.faulted := rfl
@[simp] theorem updAlmanac_safe : (d.updAlmanac p f).safe = d.safe := rfl
@[simp] theorem updAlmanac_indFetch : (d.updAlmanac p f).indFetch = d.indFetch := rfl
@[simp] theorem updAlmanac_chain : (d.updAlmanac p f).chain = d.chain := rfl
@[simp] theorem updAlmanac_loader : (d.updAlmanac p f).loader = d.loader := rfl
@[simp] theorem updAlmanac_fp : (d.updAlmanac p f).fp = d.fp := rfl
@[simp] theorem updAlmanac_otp : (d.updAlmanac p f).otp = d.otp := rfl
@[simp] theorem updAlmanac_shadow : (d.updAlmanac p f).shadow = d.shadow := rfl
@[simp] theorem updAlmanac_ic : (d.updAlmanac p f).ic = d.ic := rfl
@[simp] theorem updAlmanac_board : (d.updAlmanac p f).board = d.board := rfl
@[simp] theorem updAlmanac_fs : (d.updAlmanac p f).fs = d.fs := rfl
@[simp] theorem updAlmanac_le : (d.updAlmanac p f).le = d.le := rfl
@[simp] theorem updAlmanac_gv : (d.updAlmanac p f).gv = d.gv := rfl
@[simp] theorem updAlmanac_hd : (d.updAlmanac p f).hd = d.hd := rfl
@[simp] theorem updAlmanac_dp : (d.updAlmanac p f).dp = d.dp := rfl
@[simp] theorem updAlmanac_srm : (d.updAlmanac p f).srm = d.srm := rfl
@[simp] theorem updAlmanac_bx : (d.updAlmanac p f).bx = d.bx := rfl
@[simp] theorem updAlmanac_cp : (d.updAlmanac p f).cp = d.cp := rfl
@[simp] theorem updAlmanac_streamer : (d.updAlmanac p f).streamer = d.streamer := rfl
@[simp] theorem updAlmanac_ky : (d.updAlmanac p f).ky = d.ky := rfl
@[simp] theorem updAlmanac_rp : (d.updAlmanac p f).rp = d.rp := rfl
@[simp] theorem updAlmanac_ts : (d.updAlmanac p f).ts = d.ts := rfl
@[simp] theorem updAlmanac_ev : (d.updAlmanac p f).ev = d.ev := rfl
@[simp] theorem updAlmanac_srsts : (d.updAlmanac p f).srsts = d.srsts := rfl
@[simp] theorem updAlmanac_get (x : Nat) : (d.updAlmanac p f).get x = d.get x := rfl
@[simp] theorem updAlmanac_fld (x : Fld) : (d.updAlmanac p f).fld x = d.fld x := rfl
@[simp] theorem updAlmanac_flag (x : Fld) : (d.updAlmanac p f).flag x = d.flag x := rfl

end On_updAlmanac

section On_setChain
variable (d : Dev) (f : ChainSt → ChainSt)
@[simp] theorem setChain_rx : (d.setChain f).rx = d.rx := rfl
@[simp] theorem setChain_raw : (d.setChain f).raw = d.raw := rfl
@[simp] theorem setChain_freeCount : (d.setChain f).freeCount = d.freeCount := rfl
@[simp] theorem setChain_out : (d.setChain f).out = d.out := rfl
@[simp] theorem setChain_badParity : (d.setChain f).badParity = d.badParity := rfl
@[simp] theorem setChain_faulted : (d.setChain f).faulted = d.faulted := rfl
@[simp] theorem setChain_safe : (d.setChain f).safe = d.safe := rfl
@[simp] theorem setChain_indFetch : (d.setChain f).indFetch = d.indFetch := rfl
@[simp] theorem setChain_loader : (d.setChain f).loader = d.loader := rfl
@[simp] theorem setChain_fp : (d.setChain f).fp = d.fp := rfl
@[simp] theorem setChain_otp : (d.setChain f).otp = d.otp := rfl
@[simp] theorem setChain_shadow : (d.setChain f).shadow = d.shadow := rfl
@[simp] theorem setChain_ic : (d.setChain f).ic = d.ic := rfl
@[simp] theorem setChain_board : (d.setChain f).board = d.board := rfl
@[simp] theorem setChain_fs : (d.setChain f).fs = d.fs := rfl
@[simp] theorem setChain_le : (d.setChain f).le = d.le := rfl
@[simp] theorem setChain_gv : (d.setChain f).gv = d.gv := rfl
@[simp] theorem setChain_hd : (d.setChain f).hd = d.hd := rfl
@[simp] theorem setChain_dp : (d.setChain f).dp = d.dp := rfl
@[simp] theorem setChain_srm : (d.setChain f).srm = d.srm := rfl
@[simp] theorem setChain_bx : (d.setChain f).bx = d.bx := rfl
@[simp] theorem setChain_cp : (d.setChain f).cp = d.cp := rfl
@[simp] theorem setChain_streamer : (d.setChain f).streamer = d.streamer := rfl
@[simp] theorem setChain_ky : (d.setChain f).ky = d.ky := rfl
@[simp] theorem setChain_rp : (d.setChain f).rp = d.rp := rfl
@[simp] theorem setChain_sh : (d.setChain f).sh = d.sh := rfl
@[simp] theorem setChain_ts : (d.setChain f).ts = d.ts := rfl
@[simp] theorem setChain_ev : (d.setChain f).ev = d.ev := rfl
@[simp] theorem setChain_srsts : (d.setChain f).srsts = d.srsts := rfl
@[simp] theorem setChain_get (x : Nat) : (d.setChain f).get x = d.get x := rfl
@[simp] theorem setChain_fld (x : Fld) : (d.setChain f).fld x = d.fld x := rfl
@[simp] theorem setChain_flag (x : Fld) : (d.setChain f).flag x = d.flag x := rfl

end On_setChain

section On_setBoard
variable (d : Dev) (f : BoardSt → BoardSt)
@[simp] theorem setBoard_rx : (d.setBoard f).rx = d.rx := rfl
@[simp] theorem setBoard_raw : (d.setBoard f).raw = d.raw := rfl
@[simp] theorem setBoard_freeCount : (d.setBoard f).freeCount = d.freeCount := rfl
@[simp] theorem setBoard_out : (d.setBoard f).out = d.out := rfl
@[simp] theorem setBoard_badParity : (d.setBoard f).badParity = d.badParity := rfl
@[simp] theorem setBoard_faulted : (d.setBoard f).faulted = d.faulted := rfl
@[simp] theorem setBoard_safe : (d.setBoard f).safe = d.safe := rfl
@[simp] theorem setBoard_indFetch : (d.setBoard f).indFetch = d.indFetch := rfl
@[simp] theorem setBoard_chain : (d.setBoard f).chain = d.chain := rfl
@[simp] theorem setBoard_loader : (d.setBoard f).loader = d.loader := rfl
@[simp] theorem setBoard_fp : (d.setBoard f).fp = d.fp := rfl
@[simp] theorem setBoard_otp : (d.setBoard f).otp = d.otp := rfl
@[simp] theorem setBoard_shadow : (d.setBoard f).shadow = d.shadow := rfl
@[simp] theorem setBoard_ic : (d.setBoard f).ic = d.ic := rfl
@[simp] theorem setBoard_fs : (d.setBoard f).fs = d.fs := rfl
@[simp] theorem setBoard_le : (d.setBoard f).le = d.le := rfl
@[simp] theorem setBoard_gv : (d.setBoard f).gv = d.gv := rfl
@[simp] theorem setBoard_hd : (d.setBoard f).hd = d.hd := rfl
@[simp] theorem setBoard_dp : (d.setBoard f).dp = d.dp := rfl
@[simp] theorem setBoard_srm : (d.setBoard f).srm = d.srm := rfl
@[simp] theorem setBoard_bx : (d.setBoard f).bx = d.bx := rfl
@[simp] theorem setBoard_cp : (d.setBoard f).cp = d.cp := rfl
@[simp] theorem setBoard_streamer : (d.setBoard f).streamer = d.streamer := rfl
@[simp] theorem setBoard_ky : (d.setBoard f).ky = d.ky := rfl
@[simp] theorem setBoard_rp : (d.setBoard f).rp = d.rp := rfl
@[simp] theorem setBoard_sh : (d.setBoard f).sh = d.sh := rfl
@[simp] theorem setBoard_ts : (d.setBoard f).ts = d.ts := rfl
@[simp] theorem setBoard_ev : (d.setBoard f).ev = d.ev := rfl
@[simp] theorem setBoard_srsts : (d.setBoard f).srsts = d.srsts := rfl
@[simp] theorem setBoard_get (x : Nat) : (d.setBoard f).get x = d.get x := rfl
@[simp] theorem setBoard_fld (x : Fld) : (d.setBoard f).fld x = d.fld x := rfl
@[simp] theorem setBoard_flag (x : Fld) : (d.setBoard f).flag x = d.flag x := rfl

end On_setBoard

section On_updLane
variable (d : Dev) (n : Nat) (f : LaneSt → LaneSt)
@[simp] theorem updLane_rx : (d.updLane n f).rx = d.rx := rfl
@[simp] theorem updLane_raw : (d.updLane n f).raw = d.raw := rfl
@[simp] theorem updLane_freeCount : (d.updLane n f).freeCount = d.freeCount := rfl
@[simp] theorem updLane_out : (d.updLane n f).out = d.out := rfl
@[simp] theorem updLane_badParity : (d.updLane n f).badParity = d.badParity := rfl
@[simp] theorem updLane_faulted : (d.updLane n f).faulted = d.faulted := rfl
@[simp] theorem updLane_safe : (d.updLane n f).safe = d.safe := rfl
@[simp] theorem updLane_indFetch : (d.updLane n f).indFetch = d.indFetch := rfl
@[simp] theorem updLane_chain : (d.updLane n f).chain = d.chain := rfl
@[simp] theorem updLane_loader : (d.updLane n f).loader = d.loader := rfl
@[simp] theorem updLane_fp : (d.updLane n f).fp = d.fp := rfl
@[simp] theorem updLane_otp : (d.updLane n f).otp = d.otp := rfl
@[simp] theorem updLane_shadow : (d.updLane n f).shadow = d.shadow := rfl
@[simp] theorem updLane_ic : (d.updLane n f).ic = d.ic := rfl
@[simp] theorem updLane_board : (d.updLane n f).board = d.board := rfl
@[simp] theorem updLane_fs : (d.updLane n f).fs = d.fs := rfl
@[simp] theorem updLane_le : (d.updLane n f).le = d.le := rfl
@[simp] theorem updLane_gv : (d.updLane n f).gv = d.gv := rfl
@[simp] theorem updLane_hd : (d.updLane n f).hd = d.hd := rfl
@[simp] theorem updLane_dp : (d.updLane n f).dp = d.dp := rfl
@[simp] theorem updLane_srm : (d.updLane n f).srm = d.srm := rfl
@[simp] theorem updLane_bx : (d.updLane n f).bx = d.bx := rfl
@[simp] theorem updLane_cp : (d.updLane n f).cp = d.cp := rfl
@[simp] theorem updLane_ky : (d.updLane n f).ky = d.ky := rfl
@[simp] theorem updLane_rp : (d.updLane n f).rp = d.rp := rfl
@[simp] theorem updLane_sh : (d.updLane n f).sh = d.sh := rfl
@[simp] theorem updLane_ts : (d.updLane n f).ts = d.ts := rfl
@[simp] theorem updLane_ev : (d.updLane n f).ev = d.ev := rfl
@[simp] theorem updLane_srsts : (d.updLane n f).srsts = d.srsts := rfl
@[simp] theorem updLane_get (x : Nat) : (d.updLane n f).get x = d.get x := rfl
@[simp] theorem updLane_fld (x : Fld) : (d.updLane n f).fld x = d.fld x := rfl
@[simp] theorem updLane_flag (x : Fld) : (d.updLane n f).flag x = d.flag x := rfl

end On_updLane

section On_updCal
variable (d : Dev) (n : Nat) (f : CalSt → CalSt)
@[simp] theorem updCal_rx : (d.updCal n f).rx = d.rx := rfl
@[simp] theorem updCal_raw : (d.updCal n f).raw = d.raw := rfl
@[simp] theorem updCal_freeCount : (d.updCal n f).freeCount = d.freeCount := rfl
@[simp] theorem updCal_out : (d.updCal n f).out = d.out := rfl
@[simp] theorem updCal_badParity : (d.updCal n f).badParity = d.badParity := rfl
@[simp] theorem updCal_faulted : (d.updCal n f).faulted = d.faulted := rfl
@[simp] theorem updCal_safe : (d.updCal n f).safe = d.safe := rfl
@[simp] theorem updCal_indFetch : (d.updCal n f).indFetch = d.indFetch := rfl
@[simp] theorem updCal_chain : (d.updCal n f).chain = d.chain := rfl
@[simp] theorem updCal_loader : (d.updCal n f).loader = d.loader := rfl
@[simp] theorem updCal_fp : (d.updCal n f).fp = d.fp := rfl
@[simp] theorem updCal_otp : (d.updCal n f).otp = d.otp := rfl
@[simp] theorem updCal_shadow : (d.updCal n f).shadow = d.shadow := rfl
@[simp] theorem updCal_ic : (d.updCal n f).ic = d.ic := rfl
@[simp] theorem updCal_board : (d.updCal n f).board = d.board := rfl
@[simp] theorem updCal_fs : (d.updCal n f).fs = d.fs := rfl
@[simp] theorem updCal_le : (d.updCal n f).le = d.le := rfl
@[simp] theorem updCal_gv : (d.updCal n f).gv = d.gv := rfl
@[simp] theorem updCal_hd : (d.updCal n f).hd = d.hd := rfl
@[simp] theorem updCal_dp : (d.updCal n f).dp = d.dp := rfl
@[simp] theorem updCal_srm : (d.updCal n f).srm = d.srm := rfl
@[simp] theorem updCal_bx : (d.updCal n f).bx = d.bx := rfl
@[simp] theorem updCal_cp : (d.updCal n f).cp = d.cp := rfl
@[simp] theorem updCal_streamer : (d.updCal n f).streamer = d.streamer := rfl
@[simp] theorem updCal_ky : (d.updCal n f).ky = d.ky := rfl
@[simp] theorem updCal_rp : (d.updCal n f).rp = d.rp := rfl
@[simp] theorem updCal_sh : (d.updCal n f).sh = d.sh := rfl
@[simp] theorem updCal_ev : (d.updCal n f).ev = d.ev := rfl
@[simp] theorem updCal_srsts : (d.updCal n f).srsts = d.srsts := rfl
@[simp] theorem updCal_get (x : Nat) : (d.updCal n f).get x = d.get x := rfl
@[simp] theorem updCal_fld (x : Fld) : (d.updCal n f).fld x = d.fld x := rfl
@[simp] theorem updCal_flag (x : Fld) : (d.updCal n f).flag x = d.flag x := rfl

end On_updCal

section On_updTsPort
variable (d : Dev) (n : Nat) (f : TsPort → TsPort)
@[simp] theorem updTsPort_rx : (d.updTsPort n f).rx = d.rx := rfl
@[simp] theorem updTsPort_raw : (d.updTsPort n f).raw = d.raw := rfl
@[simp] theorem updTsPort_freeCount : (d.updTsPort n f).freeCount = d.freeCount := rfl
@[simp] theorem updTsPort_out : (d.updTsPort n f).out = d.out := rfl
@[simp] theorem updTsPort_badParity : (d.updTsPort n f).badParity = d.badParity := rfl
@[simp] theorem updTsPort_faulted : (d.updTsPort n f).faulted = d.faulted := rfl
@[simp] theorem updTsPort_safe : (d.updTsPort n f).safe = d.safe := rfl
@[simp] theorem updTsPort_indFetch : (d.updTsPort n f).indFetch = d.indFetch := rfl
@[simp] theorem updTsPort_chain : (d.updTsPort n f).chain = d.chain := rfl
@[simp] theorem updTsPort_loader : (d.updTsPort n f).loader = d.loader := rfl
@[simp] theorem updTsPort_fp : (d.updTsPort n f).fp = d.fp := rfl
@[simp] theorem updTsPort_otp : (d.updTsPort n f).otp = d.otp := rfl
@[simp] theorem updTsPort_shadow : (d.updTsPort n f).shadow = d.shadow := rfl
@[simp] theorem updTsPort_ic : (d.updTsPort n f).ic = d.ic := rfl
@[simp] theorem updTsPort_board : (d.updTsPort n f).board = d.board := rfl
@[simp] theorem updTsPort_fs : (d.updTsPort n f).fs = d.fs := rfl
@[simp] theorem updTsPort_le : (d.updTsPort n f).le = d.le := rfl
@[simp] theorem updTsPort_gv : (d.updTsPort n f).gv = d.gv := rfl
@[simp] theorem updTsPort_hd : (d.updTsPort n f).hd = d.hd := rfl
@[simp] theorem updTsPort_dp : (d.updTsPort n f).dp = d.dp := rfl
@[simp] theorem updTsPort_srm : (d.updTsPort n f).srm = d.srm := rfl
@[simp] theorem updTsPort_bx : (d.updTsPort n f).bx = d.bx := rfl
@[simp] theorem updTsPort_cp : (d.updTsPort n f).cp = d.cp := rfl
@[simp] theorem updTsPort_streamer : (d.updTsPort n f).streamer = d.streamer := rfl
@[simp] theorem updTsPort_ky : (d.updTsPort n f).ky = d.ky := rfl
@[simp] theorem updTsPort_rp : (d.updTsPort n f).rp = d.rp := rfl
@[simp] theorem updTsPort_sh : (d.updTsPort n f).sh = d.sh := rfl
@[simp] theorem updTsPort_ev : (d.updTsPort n f).ev = d.ev := rfl
@[simp] theorem updTsPort_srsts : (d.updTsPort n f).srsts = d.srsts := rfl
@[simp] theorem updTsPort_get (x : Nat) : (d.updTsPort n f).get x = d.get x := rfl
@[simp] theorem updTsPort_fld (x : Fld) : (d.updTsPort n f).fld x = d.fld x := rfl
@[simp] theorem updTsPort_flag (x : Fld) : (d.updTsPort n f).flag x = d.flag x := rfl

end On_updTsPort

section On_setFlds
variable (d : Dev) (l : List (Fld × Nat))
@[simp] theorem setFlds_rx : (d.setFlds l).rx = d.rx := by rw [d.sameButRegs_setFlds l]
@[simp] theorem setFlds_raw : (d.setFlds l).raw = d.raw := by rw [d.sameButRegs_setFlds l]
@[simp] theorem setFlds_freeCount : (d.setFlds l).freeCount = d.freeCount := by rw [d.sameButRegs_setFlds l]
@[simp] theorem setFlds_out : (d.setFlds l).out = d.out := by rw [d.sameButRegs_setFlds l]
@[simp] theorem setFlds_faulted : (d.setFlds l).faulted = d.faulted := by rw [d.sameButRegs_setFlds l]
@[simp] theorem setFlds_safe : (d.setFlds l).safe = d.safe := by rw [d.sameButRegs_setFlds l]
@[simp] theorem setFlds_indFetch : (d.setFlds l).indFetch = d.indFetch := by rw [d.sameButRegs_setFlds l]
@[simp] theorem setFlds_chain : (d.setFlds l).chain = d.chain := by rw [d.sameButRegs_setFlds l]
@[simp] theorem setFlds_loader : (d.setFlds l).loader = d.loader := by rw [d.sameButRegs_setFlds l]
@[simp] theorem setFlds_fp : (d.setFlds l).fp = d.fp := by rw [d.sameButRegs_setFlds l]
@[simp] theorem setFlds_otp : (d.setFlds l).otp = d.otp := by rw [d.sameButRegs_setFlds l]
@[simp] theorem setFlds_shadow : (d.setFlds l).shadow = d.shadow := by rw [d.sameButRegs_setFlds l]
@[simp] theorem setFlds_board : (d.setFlds l).board = d.board := by rw [d.sameButRegs_setFlds l]
@[simp] theorem setFlds_fs : (d.setFlds l).fs = d.fs := by rw [d.sameButRegs_setFlds l]
@[simp] theorem setFlds_le : (d.setFlds l).le = d.le := by rw [d.sameButRegs_setFlds l]
@[simp] theorem setFlds_gv : (d.setFlds l).gv = d.gv := by rw [d.sameButRegs_setFlds l]
@[simp] theorem setFlds_hd : (d.setFlds l).hd = d.hd := by rw [d.sameButRegs_setFlds l]
@[simp] theorem setFlds_dp : (d.setFlds l).dp = d.dp := by rw [d.sameButRegs_setFlds l]
@[simp] theorem setFlds_srm : (d.setFlds l).srm = d.srm := by rw [d.sameButRegs_setFlds l]
@[simp] theorem setFlds_bx : (d.setFlds l).bx = d.bx := by rw [d.sameButRegs_setFlds l]
@[simp] theorem setFlds_cp : (d.setFlds l).cp = d.cp := by rw [d.sameButRegs_setFlds l]
@[simp] theorem setFlds_streamer : (d.setFlds l).streamer = d.streamer := by rw [d.sameButRegs_setFlds l]
@[simp] theorem setFlds_ky : (d.setFlds l).ky = d.ky := by rw [d.sameButRegs_setFlds l]
@[simp] theorem setFlds_rp : (d.setFlds l).rp = d.rp := by rw [d.sameButRegs_setFlds l]
@[simp] theorem setFlds_sh : (d.setFlds l).sh = d.sh := by rw [d.sameButRegs_setFlds l]
@[simp] theorem setFlds_ts : (d.setFlds l).ts = d.ts := by rw [d.sameButRegs_setFlds l]
@[simp] theorem setFlds_ev : (d.setFlds l).ev = d.ev := by rw [d.sameButRegs_setFlds l]
@[simp] theorem setFlds_srsts : (d.setFlds l).srsts = d.srsts := by rw [d.sameButRegs_setFlds l]

end On_setFlds

section On_event
variable (d : Dev) (a : Nat) (l : List Nat)
@[simp] theorem event_rx : (d.event a l).rx = d.rx := by rw [d.sameButRegs_event a l]
@[simp] theorem event_raw : (d.event a l).raw = d.raw := by rw [d.sameButRegs_event a l]
@[simp] theorem event_freeCount : (d.event a l).freeCount = d.freeCount := by rw [d.sameButRegs_event a l]
@[simp] theorem event_out : (d.event a l).out = d.out := by rw [d.sameButRegs_event a l]
@[simp] theorem event_faulted : (d.event a l).faulted = d.faulted := by rw [d.sameButRegs_event a l]
@[simp] theorem event_safe : (d.event a l).safe = d.safe := by rw [d.sameButRegs_event a l]
@[simp] theorem event_indFetch : (d.event a l).indFetch = d.indFetch := by rw [d.sameButRegs_event a l]
@[simp] theorem event_chain : (d.event a l).chain = d.chain := by rw [d.sameButRegs_event a l]
@[simp] theorem event_loader : (d.event a l).loader = d.loader := by rw [d.sameButRegs_event a l]
@[simp] theorem event_fp : (d.event a l).fp = d.fp := by rw [d.sameButRegs_event a l]
@[simp] theorem event_otp : (d.event a l).otp = d.otp := by rw [d.sameButRegs_event a l]
@[simp] theorem event_shadow : (d.event a l).shadow = d.shadow := by rw [d.sameButRegs_event a l]
@[simp] theorem event_board : (d.event a l).board = d.board := by rw [d.sameButRegs_event a l]
@[simp] theorem event_fs : (d.event a l).fs = d.fs := by rw [d.sameButRegs_event a l]
@[simp] theorem event_le : (d.event a l).le = d.le := by rw [d.sameButRegs_event a l]
@[simp] theorem event_gv : (d.event a l).gv = d.gv := by rw [d.sameButRegs_event a l]
@[simp] theorem event_hd : (d.event a l).hd = d.hd := by rw [d.sameButRegs_event a l]
@[simp] theorem event_dp : (d.event a l).dp = d.dp := by rw [d.sameButRegs_event a l]
@[simp] theorem event_srm : (d.event a l).srm = d.srm := by rw [d.sameButRegs_event a l]
@[simp] theorem event_bx : (d.event a l).bx = d.bx := by rw [d.sameButRegs_event a l]
@[simp] theorem event_cp : (d.event a l).cp = d.cp := by rw [d.sameButRegs_event a l]
@[simp] theorem event_streamer : (d.event a l).streamer = d.streamer := by rw [d.sameButRegs_event a l]
@[simp] theorem event_ky : (d.event a l).ky = d.ky := by rw [d.sameButRegs_event a l]
@[simp] theorem event_rp : (d.event a l).rp = d.rp := by rw [d.sameButRegs_event a l]
@[simp] theorem event_sh : (d.event a l).sh = d.sh := by rw [d.sameButRegs_event a l]
@[simp] theorem event_ts : (d.event a l).ts = d.ts := by rw [d.sameButRegs_event a l]
@[simp] theorem event_ev : (d.event a l).ev = d.ev := by rw [d.sameButRegs_event a l]
@[simp] theorem event_srsts : (d.event a l).srsts = d.srsts := by rw [d.sameButRegs_event a l]

end On_event

section On_eventF
variable (d : Dev) (l : List Fld)
@[simp] theorem eventF_rx : (d.eventF l).rx = d.rx := by rw [d.sameButRegs_eventF l]
@[simp] theorem eventF_raw : (d.eventF l).raw = d.raw := by rw [d.sameButRegs_eventF l]
@[simp] theorem eventF_freeCount : (d.eventF l).freeCount = d.freeCount := by rw [d.sameButRegs_eventF l]
@[simp] theorem eventF_out : (d.eventF l).out = d.out := by rw [d.sameButRegs_eventF l]
@[simp] theorem eventF_faulted : (d.eventF l).faulted = d.faulted := by rw [d.sameButRegs_eventF l]
@[simp] theorem eventF_safe : (d.eventF l).safe = d.safe := by rw [d.sameButRegs_eventF l]
@[simp] theorem eventF_indFetch : (d.eventF l).indFetch = d.indFetch := by rw [d.sameButRegs_eventF l]
@[simp] theorem eventF_chain : (d.eventF l).chain = d.chain := by rw [d.sameButRegs_eventF l]
@[simp] theorem eventF_loader : (d.eventF l).loader = d.loader := by rw [d.sameButRegs_eventF l]
@[simp] theorem eventF_fp : (d.eventF l).fp = d.fp := by rw [d.sameButRegs_eventF l]
@[simp] theorem eventF_otp : (d.eventF l).otp = d.otp := by rw [d.sameButRegs_eventF l]
@[simp] theorem eventF_shadow : (d.eventF l).shadow = d.shadow := by rw [d.sameButRegs_eventF l]
@[simp] theorem eventF_board : (d.eventF l).board = d.board := by rw [d.sameButRegs_eventF l]
@[simp] theorem eventF_fs : (d.eventF l).fs = d.fs := by rw [d.sameButRegs_eventF l]
@[simp] theorem eventF_le : (d.eventF l).le = d.le := by rw [d.sameButRegs_eventF l]
@[simp] theorem eventF_gv : (d.eventF l).gv = d.gv := by rw [d.sameButRegs_eventF l]
@[simp] theorem eventF_hd : (d.eventF l).hd = d.hd := by rw [d.sameButRegs_eventF l]
@[simp] theorem eventF_dp : (d.eventF l).dp = d.dp := by rw [d.sameButRegs_eventF l]
@[simp] theorem eventF_srm : (d.eventF l).srm = d.srm := by rw [d.sameButRegs_eventF l]
@[simp] theorem eventF_bx : (d.eventF l).bx = d.bx := by rw [d.sameButRegs_eventF l]
@[simp] theorem eventF_cp : (d.eventF l).cp = d.cp := by rw [d.sameButRegs_eventF l]
@[simp] theorem eventF_streamer : (d.eventF l).streamer = d.streamer := by rw [d.sameButRegs_eventF l]
@[simp] theorem eventF_ky : (d.eventF l).ky = d.ky := by rw [d.sameButRegs_eventF l]
@[simp] theorem eventF_rp : (d.eventF l).rp = d.rp := by rw [d.sameButRegs_eventF l]
@[simp] theorem eventF_sh : (d.eventF l).sh = d.sh := by rw [d.sameButRegs_eventF l]
@[simp] theorem eventF_ts : (d.eventF l).ts = d.ts := by rw [d.sameButRegs_eventF l]
@[simp] theorem eventF_ev : (d.eventF l).ev = d.ev := by rw [d.sameButRegs_eventF l]
@[simp] theorem eventF_srsts : (d.eventF l).srsts = d.srsts := by rw [d.sameButRegs_eventF l]

end On_eventF

section On_satAdd
variable (d : Dev) (f : Fld) (k : Nat)
@[simp] theorem satAdd_rx : ((d.satAdd f k).1).rx = d.rx := by rw [d.sameButRegs_satAdd f k]
@[simp] theorem satAdd_raw : ((d.satAdd f k).1).raw = d.raw := by rw [d.sameButRegs_satAdd f k]
@[simp] theorem satAdd_freeCount : ((d.satAdd f k).1).freeCount = d.freeCount := by rw [d.sameButRegs_satAdd f k]
@[simp] theorem satAdd_out : ((d.satAdd f k).1).out = d.out := by rw [d.sameButRegs_satAdd f k]
@[simp] theorem satAdd_faulted : ((d.satAdd f k).1).faulted = d.faulted := by rw [d.sameButRegs_satAdd f k]
@[simp] theorem satAdd_safe : ((d.satAdd f k).1).safe = d.safe := by rw [d.sameButRegs_satAdd f k]
@[simp] theorem satAdd_indFetch : ((d.satAdd f k).1).indFetch = d.indFetch := by rw [d.sameButRegs_satAdd f k]
@[simp] theorem satAdd_chain : ((d.satAdd f k).1).chain = d.chain := by rw [d.sameButRegs_satAdd f k]
@[simp] theorem satAdd_loader : ((d.satAdd f k).1).loader = d.loader := by rw [d.sameButRegs_satAdd f k]
@[simp] theorem satAdd_fp : ((d.satAdd f k).1).fp = d.fp := by rw [d.sameButRegs_satAdd f k]
@[simp] theorem satAdd_otp : ((d.satAdd f k).1).otp = d.otp := by rw [d.sameButRegs_satAdd f k]
@[simp] theorem satAdd_shadow : ((d.satAdd f k).1).shadow = d.shadow := by rw [d.sameButRegs_satAdd f k]
@[simp] theorem satAdd_board : ((d.satAdd f k).1).board = d.board := by rw [d.sameButRegs_satAdd f k]
@[simp] theorem satAdd_fs : ((d.satAdd f k).1).fs = d.fs := by rw [d.sameButRegs_satAdd f k]
@[simp] theorem satAdd_le : ((d.satAdd f k).1).le = d.le := by rw [d.sameButRegs_satAdd f k]
@[simp] theorem satAdd_gv : ((d.satAdd f k).1).gv = d.gv := by rw [d.sameButRegs_satAdd f k]
@[simp] theorem satAdd_hd : ((d.satAdd f k).1).hd = d.hd := by rw [d.sameButRegs_satAdd f k]
@[simp] theorem satAdd_dp : ((d.satAdd f k).1).dp = d.dp := by rw [d.sameButRegs_satAdd f k]
@[simp] theorem satAdd_srm : ((d.satAdd f k).1).srm = d.srm := by rw [d.sameButRegs_satAdd f k]
@[simp] theorem satAdd_bx : ((d.satAdd f k).1).bx = d.bx := by rw [d.sameButRegs_satAdd f k]
@[simp] theorem satAdd_cp : ((d.satAdd f k).1).cp = d.cp := by rw [d.sameButRegs_satAdd f k]
@[simp] theorem satAdd_streamer : ((d.satAdd f k).1).streamer = d.streamer := by rw [d.sameButRegs_satAdd f k]
@[simp] theorem satAdd_ky : ((d.satAdd f k).1).ky = d.ky := by rw [d.sameButRegs_satAdd f k]
@[simp] theorem satAdd_rp : ((d.satAdd f k).1).rp = d.rp := by rw [d.sameButRegs_satAdd f k]
@[simp] theorem satAdd_sh : ((d.satAdd f k).1).sh = d.sh := by rw [d.sameButRegs_satAdd f k]
@[simp] theorem satAdd_ts : ((d.satAdd f k).1).ts = d.ts := by rw [d.sameButRegs_satAdd f k]
@[simp] theorem satAdd_ev : ((d.satAdd f k).1).ev = d.ev := by rw [d.sameButRegs_satAdd f k]
@[simp] theorem satAdd_srsts : ((d.satAdd f k).1).srsts = d.srsts := by rw [d.sameButRegs_satAdd f k]

end On_satAdd

section On_updBand
variable (d : Dev) (m frame b : Nat) (f : BandSt → BandSt)
/-- A change of a band is a change of SH. -/
theorem updBand_updSh : ∃ g, d.updBand m frame b f = d.updSh g := by
  unfold updBand
  dsimp only
  split
  · exact ⟨_, rfl⟩
  · split
    · exact ⟨_, rfl⟩
    · exact ⟨id, rfl⟩

@[simp] theorem updBand_rx : (d.updBand m frame b f).rx = d.rx := by obtain ⟨g, h⟩ := d.updBand_updSh m frame b f; rw [h]; rfl
@[simp] theorem updBand_raw : (d.updBand m frame b f).raw = d.raw := by obtain ⟨g, h⟩ := d.updBand_updSh m frame b f; rw [h]; rfl
@[simp] theorem updBand_freeCount : (d.updBand m frame b f).freeCount = d.freeCount := by obtain ⟨g, h⟩ := d.updBand_updSh m frame b f; rw [h]; rfl
@[simp] theorem updBand_out : (d.updBand m frame b f).out = d.out := by obtain ⟨g, h⟩ := d.updBand_updSh m frame b f; rw [h]; rfl
@[simp] theorem updBand_badParity : (d.updBand m frame b f).badParity = d.badParity := by obtain ⟨g, h⟩ := d.updBand_updSh m frame b f; rw [h]; rfl
@[simp] theorem updBand_faulted : (d.updBand m frame b f).faulted = d.faulted := by obtain ⟨g, h⟩ := d.updBand_updSh m frame b f; rw [h]; rfl
@[simp] theorem updBand_safe : (d.updBand m frame b f).safe = d.safe := by obtain ⟨g, h⟩ := d.updBand_updSh m frame b f; rw [h]; rfl
@[simp] theorem updBand_indFetch : (d.updBand m frame b f).indFetch = d.indFetch := by obtain ⟨g, h⟩ := d.updBand_updSh m frame b f; rw [h]; rfl
@[simp] theorem updBand_chain : (d.updBand m frame b f).chain = d.chain := by obtain ⟨g, h⟩ := d.updBand_updSh m frame b f; rw [h]; rfl
@[simp] theorem updBand_loader : (d.updBand m frame b f).loader = d.loader := by obtain ⟨g, h⟩ := d.updBand_updSh m frame b f; rw [h]; rfl
@[simp] theorem updBand_fp : (d.updBand m frame b f).fp = d.fp := by obtain ⟨g, h⟩ := d.updBand_updSh m frame b f; rw [h]; rfl
@[simp] theorem updBand_otp : (d.updBand m frame b f).otp = d.otp := by obtain ⟨g, h⟩ := d.updBand_updSh m frame b f; rw [h]; rfl
@[simp] theorem updBand_shadow : (d.updBand m frame b f).shadow = d.shadow := by obtain ⟨g, h⟩ := d.updBand_updSh m frame b f; rw [h]; rfl
@[simp] theorem updBand_ic : (d.updBand m frame b f).ic = d.ic := by obtain ⟨g, h⟩ := d.updBand_updSh m frame b f; rw [h]; rfl
@[simp] theorem updBand_board : (d.updBand m frame b f).board = d.board := by obtain ⟨g, h⟩ := d.updBand_updSh m frame b f; rw [h]; rfl
@[simp] theorem updBand_fs : (d.updBand m frame b f).fs = d.fs := by obtain ⟨g, h⟩ := d.updBand_updSh m frame b f; rw [h]; rfl
@[simp] theorem updBand_le : (d.updBand m frame b f).le = d.le := by obtain ⟨g, h⟩ := d.updBand_updSh m frame b f; rw [h]; rfl
@[simp] theorem updBand_gv : (d.updBand m frame b f).gv = d.gv := by obtain ⟨g, h⟩ := d.updBand_updSh m frame b f; rw [h]; rfl
@[simp] theorem updBand_hd : (d.updBand m frame b f).hd = d.hd := by obtain ⟨g, h⟩ := d.updBand_updSh m frame b f; rw [h]; rfl
@[simp] theorem updBand_dp : (d.updBand m frame b f).dp = d.dp := by obtain ⟨g, h⟩ := d.updBand_updSh m frame b f; rw [h]; rfl
@[simp] theorem updBand_srm : (d.updBand m frame b f).srm = d.srm := by obtain ⟨g, h⟩ := d.updBand_updSh m frame b f; rw [h]; rfl
@[simp] theorem updBand_bx : (d.updBand m frame b f).bx = d.bx := by obtain ⟨g, h⟩ := d.updBand_updSh m frame b f; rw [h]; rfl
@[simp] theorem updBand_cp : (d.updBand m frame b f).cp = d.cp := by obtain ⟨g, h⟩ := d.updBand_updSh m frame b f; rw [h]; rfl
@[simp] theorem updBand_streamer : (d.updBand m frame b f).streamer = d.streamer := by obtain ⟨g, h⟩ := d.updBand_updSh m frame b f; rw [h]; rfl
@[simp] theorem updBand_ky : (d.updBand m frame b f).ky = d.ky := by obtain ⟨g, h⟩ := d.updBand_updSh m frame b f; rw [h]; rfl
@[simp] theorem updBand_rp : (d.updBand m frame b f).rp = d.rp := by obtain ⟨g, h⟩ := d.updBand_updSh m frame b f; rw [h]; rfl
@[simp] theorem updBand_ts : (d.updBand m frame b f).ts = d.ts := by obtain ⟨g, h⟩ := d.updBand_updSh m frame b f; rw [h]; rfl
@[simp] theorem updBand_ev : (d.updBand m frame b f).ev = d.ev := by obtain ⟨g, h⟩ := d.updBand_updSh m frame b f; rw [h]; rfl
@[simp] theorem updBand_srsts : (d.updBand m frame b f).srsts = d.srsts := by obtain ⟨g, h⟩ := d.updBand_updSh m frame b f; rw [h]; rfl

end On_updBand

section On_wrapAdd
variable (d : Dev) (f : Fld) (k : Nat)
@[simp] theorem wrapAdd_rx : (d.wrapAdd f k).rx = d.rx := by rw [d.sameButRegs_wrapAdd f k]
@[simp] theorem wrapAdd_raw : (d.wrapAdd f k).raw = d.raw := by rw [d.sameButRegs_wrapAdd f k]
@[simp] theorem wrapAdd_freeCount : (d.wrapAdd f k).freeCount = d.freeCount := by rw [d.sameButRegs_wrapAdd f k]
@[simp] theorem wrapAdd_out : (d.wrapAdd f k).out = d.out := by rw [d.sameButRegs_wrapAdd f k]
@[simp] theorem wrapAdd_faulted : (d.wrapAdd f k).faulted = d.faulted := by rw [d.sameButRegs_wrapAdd f k]
@[simp] theorem wrapAdd_safe : (d.wrapAdd f k).safe = d.safe := by rw [d.sameButRegs_wrapAdd f k]
@[simp] theorem wrapAdd_indFetch : (d.wrapAdd f k).indFetch = d.indFetch := by rw [d.sameButRegs_wrapAdd f k]
@[simp] theorem wrapAdd_chain : (d.wrapAdd f k).chain = d.chain := by rw [d.sameButRegs_wrapAdd f k]
@[simp] theorem wrapAdd_loader : (d.wrapAdd f k).loader = d.loader := by rw [d.sameButRegs_wrapAdd f k]
@[simp] theorem wrapAdd_fp : (d.wrapAdd f k).fp = d.fp := by rw [d.sameButRegs_wrapAdd f k]
@[simp] theorem wrapAdd_otp : (d.wrapAdd f k).otp = d.otp := by rw [d.sameButRegs_wrapAdd f k]
@[simp] theorem wrapAdd_shadow : (d.wrapAdd f k).shadow = d.shadow := by rw [d.sameButRegs_wrapAdd f k]
@[simp] theorem wrapAdd_board : (d.wrapAdd f k).board = d.board := by rw [d.sameButRegs_wrapAdd f k]
@[simp] theorem wrapAdd_fs : (d.wrapAdd f k).fs = d.fs := by rw [d.sameButRegs_wrapAdd f k]
@[simp] theorem wrapAdd_le : (d.wrapAdd f k).le = d.le := by rw [d.sameButRegs_wrapAdd f k]
@[simp] theorem wrapAdd_gv : (d.wrapAdd f k).gv = d.gv := by rw [d.sameButRegs_wrapAdd f k]
@[simp] theorem wrapAdd_hd : (d.wrapAdd f k).hd = d.hd := by rw [d.sameButRegs_wrapAdd f k]
@[simp] theorem wrapAdd_dp : (d.wrapAdd f k).dp = d.dp := by rw [d.sameButRegs_wrapAdd f k]
@[simp] theorem wrapAdd_srm : (d.wrapAdd f k).srm = d.srm := by rw [d.sameButRegs_wrapAdd f k]
@[simp] theorem wrapAdd_bx : (d.wrapAdd f k).bx = d.bx := by rw [d.sameButRegs_wrapAdd f k]
@[simp] theorem wrapAdd_cp : (d.wrapAdd f k).cp = d.cp := by rw [d.sameButRegs_wrapAdd f k]
@[simp] theorem wrapAdd_streamer : (d.wrapAdd f k).streamer = d.streamer := by rw [d.sameButRegs_wrapAdd f k]
@[simp] theorem wrapAdd_ky : (d.wrapAdd f k).ky = d.ky := by rw [d.sameButRegs_wrapAdd f k]
@[simp] theorem wrapAdd_rp : (d.wrapAdd f k).rp = d.rp := by rw [d.sameButRegs_wrapAdd f k]
@[simp] theorem wrapAdd_sh : (d.wrapAdd f k).sh = d.sh := by rw [d.sameButRegs_wrapAdd f k]
@[simp] theorem wrapAdd_ts : (d.wrapAdd f k).ts = d.ts := by rw [d.sameButRegs_wrapAdd f k]
@[simp] theorem wrapAdd_ev : (d.wrapAdd f k).ev = d.ev := by rw [d.sameButRegs_wrapAdd f k]
@[simp] theorem wrapAdd_srsts : (d.wrapAdd f k).srsts = d.srsts := by rw [d.sameButRegs_wrapAdd f k]

end On_wrapAdd

section On_count
variable (d : Dev) (f : Fld) (k : Nat) (s : Fld) (l : List Fld)
@[simp] theorem count_rx : (d.count f k s l).rx = d.rx := by rw [d.sameButRegs_count f k s l]
@[simp] theorem count_raw : (d.count f k s l).raw = d.raw := by rw [d.sameButRegs_count f k s l]
@[simp] theorem count_freeCount : (d.count f k s l).freeCount = d.freeCount := by rw [d.sameButRegs_count f k s l]
@[simp] theorem count_out : (d.count f k s l).out = d.out := by rw [d.sameButRegs_count f k s l]
@[simp] theorem count_faulted : (d.count f k s l).faulted = d.faulted := by rw [d.sameButRegs_count f k s l]
@[simp] theorem count_safe : (d.count f k s l).safe = d.safe := by rw [d.sameButRegs_count f k s l]
@[simp] theorem count_indFetch : (d.count f k s l).indFetch = d.indFetch := by rw [d.sameButRegs_count f k s l]
@[simp] theorem count_chain : (d.count f k s l).chain = d.chain := by rw [d.sameButRegs_count f k s l]
@[simp] theorem count_loader : (d.count f k s l).loader = d.loader := by rw [d.sameButRegs_count f k s l]
@[simp] theorem count_fp : (d.count f k s l).fp = d.fp := by rw [d.sameButRegs_count f k s l]
@[simp] theorem count_otp : (d.count f k s l).otp = d.otp := by rw [d.sameButRegs_count f k s l]
@[simp] theorem count_shadow : (d.count f k s l).shadow = d.shadow := by rw [d.sameButRegs_count f k s l]
@[simp] theorem count_board : (d.count f k s l).board = d.board := by rw [d.sameButRegs_count f k s l]
@[simp] theorem count_fs : (d.count f k s l).fs = d.fs := by rw [d.sameButRegs_count f k s l]
@[simp] theorem count_le : (d.count f k s l).le = d.le := by rw [d.sameButRegs_count f k s l]
@[simp] theorem count_gv : (d.count f k s l).gv = d.gv := by rw [d.sameButRegs_count f k s l]
@[simp] theorem count_hd : (d.count f k s l).hd = d.hd := by rw [d.sameButRegs_count f k s l]
@[simp] theorem count_dp : (d.count f k s l).dp = d.dp := by rw [d.sameButRegs_count f k s l]
@[simp] theorem count_srm : (d.count f k s l).srm = d.srm := by rw [d.sameButRegs_count f k s l]
@[simp] theorem count_bx : (d.count f k s l).bx = d.bx := by rw [d.sameButRegs_count f k s l]
@[simp] theorem count_cp : (d.count f k s l).cp = d.cp := by rw [d.sameButRegs_count f k s l]
@[simp] theorem count_streamer : (d.count f k s l).streamer = d.streamer := by rw [d.sameButRegs_count f k s l]
@[simp] theorem count_ky : (d.count f k s l).ky = d.ky := by rw [d.sameButRegs_count f k s l]
@[simp] theorem count_rp : (d.count f k s l).rp = d.rp := by rw [d.sameButRegs_count f k s l]
@[simp] theorem count_sh : (d.count f k s l).sh = d.sh := by rw [d.sameButRegs_count f k s l]
@[simp] theorem count_ts : (d.count f k s l).ts = d.ts := by rw [d.sameButRegs_count f k s l]
@[simp] theorem count_ev : (d.count f k s l).ev = d.ev := by rw [d.sameButRegs_count f k s l]
@[simp] theorem count_srsts : (d.count f k s l).srsts = d.srsts := by rw [d.sameButRegs_count f k s l]

end On_count

end Sys2Proof.Machine.Dev
end

