-- ==== Sys2Proof/Laws/Store.lean ====
section
/-!
SUPPORT. Lemmas about the frame-store bytes: what a byte reads after a write, and that every memory operation keeps
the canonical form.
-/
namespace Sys2Proof.Machine

theorem readByte_writeByte (m : List Host.Cell) (a x : Nat) (b : Byte) :
    readByte (writeByte m a b) x = if x = a then b else readByte m x := cellAt_setCell memBlank m a x b

theorem wf_writeByte (m : List Host.Cell) (a : Nat) (b : Byte) (h : Memory.wf m) : Memory.wf (writeByte m a b) :=
  wfCells_setCell memBlank m a b h

theorem wf_writeBytes (l : List Byte) (m : List Host.Cell) (a : Nat) (h : Memory.wf m) : Memory.wf (writeBytes m a l) := by
  induction l generalizing m a with
  | nil => exact h
  | cons b t ih => exact ih _ _ (wf_writeByte m a b h)

theorem wf_writeEnabled (l : List Byte) (en : List Bool) (m : List Host.Cell) (a : Nat) (h : Memory.wf m) :
    Memory.wf (writeEnabled m a l en) := by
  induction l generalizing m a en with
  | nil => cases en <;> exact h
  | cons b t ih =>
    cases en with
    | nil => exact h
    | cons e u =>
      simp only [writeEnabled]
      refine ih _ _ _ ?_
      split
      · exact wf_writeByte m a b h
      · exact h

theorem wf_zeroRanges (m : List Host.Cell) (rs : List (Nat × Nat)) (h : Memory.wf m) : Memory.wf (zeroRanges m rs) :=
  wfCells_filter memBlank _ m h

/-- A byte that a masked write does not reach. -/
theorem readByte_writeEnabled_outside (l : List Byte) (en : List Bool) (m : List Host.Cell) (a x : Nat)
    (h : x < a ∨ a + l.length ≤ x) : readByte (writeEnabled m a l en) x = readByte m x := by
  induction l generalizing m a en with
  | nil => cases en <;> rfl
  | cons b t ih =>
    cases en with
    | nil => rfl
    | cons e u =>
      simp only [writeEnabled, List.length_cons] at *
      rw [ih _ _ _ (by omega)]
      split
      · rw [readByte_writeByte, if_neg (by omega)]
      · rfl

/-- A byte within a masked write: written where it is enabled. -/
theorem readByte_writeEnabled_inside (l : List Byte) (en : List Bool) (m : List Host.Cell) (a i : Nat) (b : Byte) (e : Bool)
    (hl : l[i]? = some b) (he : en[i]? = some e) :
    readByte (writeEnabled m a l en) (a + i) = if e then b else readByte m (a + i) := by
  induction l generalizing m a en i with
  | nil => simp at hl
  | cons c t ih =>
    cases en with
    | nil => simp at he
    | cons f u =>
      simp only [writeEnabled]
      cases i with
      | zero =>
        simp only [List.getElem?_cons_zero, Option.some.injEq] at hl he
        subst hl he
        rw [readByte_writeEnabled_outside _ _ _ _ _ (by omega), Nat.add_zero]
        split
        · rw [readByte_writeByte, if_pos rfl]
        · rfl
      | succ k =>
        simp only [List.getElem?_cons_succ] at hl he
        have := ih u (if f then writeByte m a c else m) (a + 1) k hl he
        rw [show a + (k + 1) = a + 1 + k by omega, this]
        split
        · rfl
        · split
          · rw [readByte_writeByte, if_neg (by omega)]
          · rfl

/-- A byte of a zeroed range reads 0, any other is unchanged (R77). -/
theorem readByte_zeroRanges (m : List Host.Cell) (rs : List (Nat × Nat)) (x : Nat) :
    readByte (zeroRanges m rs) x = if rs.any (fun r => decide (r.1 ≤ x ∧ x < r.1 + r.2)) then 0 else readByte m x := by
  unfold readByte zeroRanges
  rw [cellAt_filter memBlank (fun k => !rs.any (fun r => decide (r.1 ≤ k ∧ k < r.1 + r.2)))]
  cases rs.any (fun r => decide (r.1 ≤ x ∧ x < r.1 + r.2)) <;> simp [memBlank]

/-! Grants and completions (R169, R174). -/

theorem wf_grantWrite (d : Dev) (m : List Host.Cell) (r : Request) (w : BurstWrite) (h : Memory.wf m) :
    Memory.wf (d.grantWrite m r w).2 := wf_writeEnabled _ _ _ _ h

/-- A granted write reaches no byte outside its burst. -/
theorem grantWrite_outside (d : Dev) (m : List Host.Cell) (r : Request) (w : BurstWrite) (x : Nat)
    (h : x < r.addr ∨ r.addr + 64 ≤ x) : readByte (d.grantWrite m r w).2 x = readByte m x :=
  readByte_writeEnabled_outside _ _ _ _ _ (by simpa using h)

theorem wf_grantNext (d : Dev) (m : List Host.Cell) (n : Nat) (h : Memory.wf m) : Memory.wf (d.grantNext m n).2.1 := by
  unfold Dev.grantNext
  split
  · exact h
  · dsimp only
    split
    · exact wf_grantWrite _ m _ _ h
    · exact h

theorem wf_grantUpTo (tag n fuel : Nat) (d : Dev) (m : List Host.Cell) (h : Memory.wf m) :
    Memory.wf (Dev.grantUpTo tag n fuel d m).2.1 := by
  induction fuel generalizing d m with
  | zero => exact h
  | succ k ih =>
    have hn := wf_grantNext d m n h
    unfold Dev.grantUpTo
    split
    · rename_i e; rw [e] at hn; exact hn
    · rename_i e
      rw [e] at hn
      split
      · exact hn
      · exact ih _ _ hn

theorem wf_grantFor (d : Dev) (m : List Host.Cell) (tag : Nat) (errs : List WordError) (h : Memory.wf m) :
    Memory.wf (d.grantFor m tag errs).2.1 := by
  unfold Dev.grantFor
  dsimp only
  split
  · exact h
  · exact wf_grantUpTo _ _ _ _ _ h

/-- Every memory operation of a completion keeps the canonical form. -/
theorem wf_readComplete (d : Dev) (m : List Host.Cell) (tag : Nat) (errs : List WordError) (lat : Nat) (h : Memory.wf m) :
    Memory.wf (d.readComplete m tag errs lat).2 := by
  unfold Dev.readComplete
  dsimp only
  split <;> exact wf_grantFor d m tag errs h

theorem wf_writeComplete (d : Dev) (m : List Host.Cell) (tag : Nat) (errs : List WordError) (h : Memory.wf m) :
    Memory.wf (d.writeComplete m tag errs).2 := by
  unfold Dev.writeComplete
  dsimp only
  split <;> exact wf_grantFor d m tag errs h

theorem wf_writeBack (d : Dev) (m : List Host.Cell) (n : Nat) (h : Memory.wf m) : Memory.wf (d.writeBack m n).2 := by
  unfold Dev.writeBack
  split
  · exact h
  · exact wf_writeBytes _ m _ h

/-- Zero-fill keeps the canonical form. -/
theorem wf_zeroFilled (d : Dev) (m : List Host.Cell) (h : Memory.wf m) : Memory.wf (d.zeroFilled m).2 := by
  unfold Dev.zeroFilled
  split
  · exact h
  · exact wf_zeroRanges m _ h

end Sys2Proof.Machine
end

