-- ==== Sys2Proof/Laws/Shared.lean ====
section
/-!
SUPPORT. What the operations that many commands share can do: a 32-bit access of BAR0, the address assignment, the
update of the interrupt controller's lines.
-/
namespace Sys2Proof.Machine

/-- A relation that every step of a fold keeps holds between its ends. -/
theorem foldl_keeps {α β : Type} (P : α → α → Prop) (refl : ∀ a, P a a) (trans : ∀ {a b c}, P a b → P b c → P a c)
    (f : α → β → α) (step : ∀ a b, P a (f a b)) (l : List β) : ∀ a, P a (l.foldl f a) := by
  induction l with
  | nil => exact refl
  | cons b l ih => exact fun a => trans (step a b) (ih (f a b))

/-! ### Accesses of one 32-bit word -/

/-- A sound 32-bit write of BAR0 outside the clearing windows is a write of its word (R116, R128); one of a CL
register that window parts stand before waits for them (R184). -/
theorem Dev.access_write32 (d : Dev) (off : Nat) (w : Word) (h : busCause ⟨.bar0, true, .w32, off, [w]⟩ off = none)
    (hw : inWindow (decodeBar0 off) = false) (hq : decodeBar0 off / 0x10000 ≠ 3 ∨ d.fs.hostQueue = []) :
    d.access ⟨.bar0, true, .w32, off, [w]⟩ = d.writeWord (decodeBar0 off) (off % 0x1000000) w := by
  have hr : List.range 1 = [0] := rfl
  have ho : d.writeInOrder ⟨.bar0, true, .w32, off, [w]⟩ off w = d.writeWord (decodeBar0 off) (off % 0x1000000) w := by
    unfold Dev.writeInOrder
    rw [if_neg (by rcases hq with hq | hq <;> simp [atClearings, hq])]
    simp [Dev.writePart, hw]
  simp [Dev.access, hw, partCount, h, hr, List.zipIdx, ho]

/-- An access of one word that is in error is logged once and answered with an abort (R126). -/
theorem Dev.access_error32 (d : Dev) (wr : Bool) (off c : Nat) (data : List Word)
    (h : busCause ⟨.bar0, wr, .w32, off, data⟩ off = some c) (hw : inWindow (decodeBar0 off) = false) :
    d.access ⟨.bar0, wr, .w32, off, data⟩ =
      (d.busError ⟨.bar0, wr, .w32, off, data⟩ off c).emit (.abort ⟨.bar0, wr, .w32, off, data⟩ c) := by
  have hr : List.range 1 = [0] := rfl
  simp [Dev.access, hw, partCount, h, hr, List.zipIdx]

/-! ### Address assignment (R82 to R85) -/

theorem Dev.fld_enumFail_keeps (d : Dev) (c : Nat) (f : Fld)
    (h : ∀ g ∈ [R.CH_CHAIN_STATUS_ENUM_ERR, R.CH_CHAIN_ADDR_ENUM_DONE], f.Apart g) : (d.enumFail c).fld f = d.fld f := by
  simp only [Dev.enumFail]
  refine Dev.fld_setFlds_keeps _ _ _ (fun p hp => ?_) (by simpa using h)
  rcases List.mem_cons.1 hp with rfl | hp
  · dsimp only; decide
  · rcases List.mem_cons.1 hp with rfl | hp
    · dsimp only; decide
    · cases hp

theorem Dev.fld_takeAddress_keeps (d : Dev) (a : Nat) (f : Fld)
    (h : ∀ g ∈ [R.CH_CHAIN_ADDR_ADDR, R.CH_CHAIN_ADDR_ENUM_DONE, ⟨R.TS_CLOCK_ID_LO, 7, 0⟩], f.Apart g) :
    (d.takeAddress a).fld f = d.fld f := by
  change (Dev.setFlds _ _).fld f = _
  refine Dev.fld_setFlds_keeps _ _ _ (fun p hp => ?_) (by simpa using h)
  rcases List.mem_cons.1 hp with rfl | hp
  · dsimp only; decide
  · rcases List.mem_cons.1 hp with rfl | hp
    · dsimp only; decide
    · rcases List.mem_cons.1 hp with rfl | hp
      · dsimp only; decide
      · cases hp

/-! ### The interrupt controller's lines (R485, R486, R493) -/

/-- Nothing changes but the controller's own state, the Pending bits and the messages sent. -/
def Dev.OnlyLines (d e : Dev) : Prop :=
  (e = { d with regs := e.regs, badParity := e.badParity, ic := e.ic, out := e.out }) ∧
    (∀ a, a ≠ R.IC_PBA → e.get a = d.get a) ∧ e.ic.inflight = d.ic.inflight ∧ e.ic.msixEnable = d.ic.msixEnable ∧
    e.ic.funcMask = d.ic.funcMask

theorem Dev.OnlyLines.refl (d : Dev) : d.OnlyLines d := ⟨rfl, fun _ _ => rfl, rfl, rfl, rfl⟩

theorem Dev.OnlyLines.trans {d e f : Dev} (h : d.OnlyLines e) (k : e.OnlyLines f) : d.OnlyLines f := by
  refine ⟨?_, fun a ha => (k.2.1 a ha).trans (h.2.1 a ha), k.2.2.1.trans h.2.2.1, k.2.2.2.1.trans h.2.2.2.1,
    k.2.2.2.2.trans h.2.2.2.2⟩
  rw [k.1, h.1]

theorem Dev.onlyLines_updCoal (d : Dev) (g : Nat) (f : CoalGroup → CoalGroup) : d.OnlyLines (d.updCoal g f) :=
  ⟨rfl, fun _ _ => rfl, rfl, rfl, rfl⟩

theorem Dev.onlyLines_updTarget (d : Dev) (t : Nat) (f : IcTarget → IcTarget) : d.OnlyLines (d.updTarget t f) :=
  ⟨rfl, fun _ _ => rfl, rfl, rfl, rfl⟩

theorem Dev.onlyLines_emit (d : Dev) (o : OutMsg) : d.OnlyLines (d.emit o) := ⟨rfl, fun _ _ => rfl, rfl, rfl, rfl⟩

theorem Dev.onlyLines_setPba (d : Dev) (v : Nat) (b : Bool) : d.OnlyLines (d.setPba v b) := by
  refine ⟨rfl, fun a ha => ?_, rfl, rfl, rfl⟩
  exact Dev.get_set_ne _ _ _ _ ha

theorem Dev.onlyLines_deliver (d : Dev) (t : Nat) : d.OnlyLines (d.deliver t) := by
  unfold Dev.deliver
  split
  · exact .refl d
  · split
    · exact d.onlyLines_setPba t true
    · exact d.onlyLines_emit _

theorem Dev.onlyLines_closeGroups (d : Dev) : d.OnlyLines d.closeGroups := by
  unfold Dev.closeGroups
  refine foldl_keeps Dev.OnlyLines .refl .trans _ (fun a b => ?_) _ d
  split
  · exact a.onlyLines_updCoal b _
  · exact .refl a

/-- Computing the lines changes nothing but the lines, the groups, the Pending bits and the messages. -/
theorem Dev.onlyLines_icUpdate (d : Dev) (touched : Option Nat) : d.OnlyLines (d.icUpdate touched) := by
  unfold Dev.icUpdate
  refine d.onlyLines_closeGroups.trans (foldl_keeps Dev.OnlyLines .refl .trans _ (fun a t => ?_) _ _)
  dsimp only
  generalize hb : (if (a.icTarget t).line = a.lineOf t then a else
    a.updTarget t (fun x => { x with line := a.lineOf t })) = b
  have h : a.OnlyLines b := by
    subst hb
    split
    · exact .refl a
    · exact a.onlyLines_updTarget t _
  split
  · exact h.trans (b.onlyLines_deliver t)
  · split
    · exact h.trans (b.onlyLines_setPba t false)
    · exact h

end Sys2Proof.Machine
end

