-- ==== Sys2Proof/WellFormed.lean ====
section
/-!
DEFINITION. Which commands are well formed: lists as long as the spec has them, offsets inside their windows. Every
meaning is total, so an ill-formed command runs too; well-formedness says which commands the hardware can be given.
-/
namespace Sys2Proof

/-- A write burst holds 64 bytes (R164). -/
def BurstWrite.wf (w : BurstWrite) : Bool := w.bytes.length == 64

/-- The size of the space behind a BAR (R116). -/
def Bar.size : Bar → Nat
  | .bar0 => 0x1000000 | .bar2 => 0x2000000 | .bar4 => 0x100000 | .ring => 0x1000000

/-- The 32-bit words that an access moves (R124). -/
def AccessKind.words : AccessKind → Nat
  | .long n => n | _ => 1

/-- An access lies in its BAR, carries one word for each part it writes, and is long only from 64 bits (R116, R124). -/
def BusAccess.wf (a : BusAccess) : Bool :=
  decide (a.offset < a.bar.size) && (a.data.length == (if a.write then a.kind.words else 0)) && decide (1 ≤ a.kind.words) &&
  (match a.kind with | .long n => decide (2 ≤ n) | _ => true)

/-- A device frame on the wire holds at most 9,152 payload bytes (R411, R445). -/
def RingFrame.wf (f : RingFrame) : Bool := decide (f.payload.length ≤ 9152)

def WireFrame.wf : WireFrame → Bool
  | .device f => f.wf
  | _ => true

/-- Is a command well formed? -/
def Instr.wf (i : Instr) : Bool :=
  match i with
  | .por => true
  | .porRelease => true
  | .otpShadowLoaded => true
  | .crst _ => true
  | .crstRelease => true
  | .flr => true
  | .hrst _ => true
  | .hrstComplete _ => true
  | .srst _ => true
  | .srstComplete _ => true
  | .caddrSample _ => true
  | .addressToken _ => true
  | .enumTimeout => true
  | .staggerStepStart _ => true
  | .staggerStepDone _ => true
  | .chainFrame _ _ _ _ _ => true
  | .chainStall => true
  | .cerrRelease => true
  | .chLoadStart => true
  | .chLoadAbort => true
  | .chLoadDataWrite _ => true
  | .loadValidationEnd => true
  | .loadApplyDone => true
  | .zerofillDone => true
  | .registerWrite _ _ => true
  | .busErrorAccess a => a.wf
  | .rsClearWrite _ _ => true
  | .bitAliasWrite _ _ => true
  | .compatMaskedWrite _ _ => true
  | .compatMiss _ _ _ => true
  | .indDataRead _ => true
  | .indFetchDone _ => true
  | .indFetchTimeout _ => true
  | .paritySweep => true
  | .parityInject => true
  | .fsRequest _ _ wr => (match wr with | some w => w.wf | none => true)
  | .fsReadComplete tag _ _ => decide (tag < 16384)
  | .fsWriteComplete tag _ => decide (tag < 16384)
  | .eccWriteback _ => true
  | .scrubStep _ _ => true
  | .refreshDeadline _ => true
  | .hostWindowRead off len => decide (0 < len ∧ off.toNat + len ≤ 0x8000)
  | .hostWindowWrite off bytes => decide (0 < bytes.length ∧ off.toNat + bytes.length ≤ 0x8000)
  | .tagHwReset => true
  | .latReset _ => true
  | .headLineStart _ => true
  | .leRowFetch _ => true
  | .eveLineStart _ => true
  | .harvestPoint _ => true
  | .headUnderrun _ px => decide (px < 16384)
  | .headStart _ => true
  | .headPllLocked _ => true
  | .headTimedStart _ => true
  | .headStop _ => true
  | .headArm _ => true
  | .headCancel _ => true
  | .stagedWriteRecheck _ _ => true
  | .splitLeaderWrite _ _ => true
  | .gvEvaluationDone => true
  | .relearn _ => true
  | .gvFlatDisable => true
  | .flatCaptureOverflow _ => true
  | .flatVerifyDone _ _ => true
  | .flatVerifyTimeout _ => true
  | .linkEnableWrite _ _ => true
  | .linkTrainAuto _ => true
  | .linkTrainManualPattern _ _ => true
  | .linkTrainManualDeclare _ => true
  | .autoTrainingEnd _ _ _ => true
  | .auxGo _ => true
  | .auxDone _ _ _ data => decide (data.length ≤ 16)
  | .auxReplyTimeout _ => true
  | .hpdEnWrite _ _ => true
  | .hpdEdge _ _ _ _ => true
  | .hpdUnplug _ => true
  | .hpdPlug _ => true
  | .hdcpAuthStart _ => true
  | .hdcpStopAuth _ => true
  | .hdcpAuthEnd _ _ => true
  | .hdcpReauthTimer _ => true
  | .streamManageConfirmed _ => true
  | .encryptionEnable _ => true
  | .srmLoad => true
  | .bxSubmit _ => true
  | .bxCmdStart _ => true
  | .bxBurstIssue _ => true
  | .bxRowReadsDone _ => true
  | .bxCmdEnd _ => true
  | .bxResume _ => true
  | .bxAbort _ => true
  | .cpEnableWrite _ _ => true
  | .cpRestart _ => true
  | .logRefresh _ => true
  | .cpDetectRetry _ => true
  | .linkUp _ gen width => decide (1 ≤ gen.val ∧ gen.val ≤ 4) && ([1, 2, 4] : List Nat).contains width.val
  | .cpInitStepDone _ _ => true
  | .cpInitTimeout _ => true
  | .cpReadCompletion _ _ r => decide (r.errorEntry.length ≤ 64)
  | .cpCmdTimeout _ => true
  | .cpFatal _ => true
  | .linkDown _ => true
  | .cpShutdownDone _ => true
  | .asJobGo _ => true
  | .asJobAbort _ => true
  | .asJobStart => true
  | .asManifestChecked _ => true
  | .asChunkReap _ => true
  | .asChunkDecoded _ => true
  | .asJobEnd _ => true
  | .asLaneZeroed _ => true
  | .kyProgram => true
  | .kyRevoke => true
  | .kySetCfg => true
  | .progDone _ => true
  | .rpLinkUp _ => true
  | .rpLinkDown _ => true
  | .rpRestart _ => true
  | .rpFrameRx _ _ frame => frame.wf
  | .rpTxSelect _ => true
  | .tile _ f => f.wf
  | .write _ f => f.wf
  | .readReq _ f => f.wf
  | .readRsp _ f => f.wf
  | .writeAck _ f => f.wf
  | .regWrite _ f => f.wf
  | .regRead _ f => f.wf
  | .regRsp _ f => f.wf
  | .notice _ f => f.wf
  | .ringRequestTimeout _ => true
  | .rqGo _ => true
  | .rqAbort _ => true
  | .rmtGo => true
  | .noticeTx => true
  | .sourceSend _ => true
  | .streamEnable _ _ => true
  | .shaperWrite _ _ _ => true
  | .almanacChange _ => true
  | .almanacCancel _ => true
  | .almanacStart _ => true
  | .almanacEntryBoundary _ => true
  | .tsSnap => true
  | .calSet _ => true
  | .calStep _ => true
  | .calRateWrite _ _ => true
  | .activeWrite _ => true
  | .activeViewSlewStep => true
  | .hintWrite _ _ => true
  | .hintExpire _ => true
  | .syncRx _ _ => true
  | .followUpRx _ _ => true
  | .announceRx _ _ => true
  | .pdelayReqRx _ _ => true
  | .pdelayRespRx _ _ => true
  | .pdelayRespFollowUpRx _ _ => true
  | .syncTx _ _ => true
  | .announceTx _ _ => true
  | .pdelayReqTx _ _ => true
  | .announceReceiptTimeout _ _ => true
  | .syncLossHoldover _ => true
  | .evModeWrite _ _ => true
  | .evArm _ => true
  | .evDisarm _ => true
  | .evPop _ => true
  | .evScheduledEdge _ => true
  | .evPinEdge _ _ _ _ => true
  | .icSourceEdge _ => true
  | .icClaim _ => true
  | .icComplete _ _ => true
  | .icTargetReset _ => true
  | .icPendWrite _ _ => true
  | .coalFlush _ => true
  | .coalTimer _ => true
  | .wakeInputEdge _ => true
  | .wakeClr _ => true
  | .msixEnableWrite _ _ => true
  | .msixUnmask _ => true
  | .thermalUpdate temps => temps.length == 9
  | .thermalTrip => true
  | .hot _ _ => true
  | .mgmtWrite _ => true
  | .mgmtRead => true
  | .tapReset => true
  | .extest => true
  | .samplePreload _ _ => true
  | .idcode => true
  | .clamp => true
  | .highz => true
  | .bypass => true

end Sys2Proof
end

