-- ==== Sys2Proof/Tests/Slice0.lean ====
section
/-!
SUPPORT. The model's own tests: ill-formed commands that the well-formedness check refuses (smoke_), a few values
that the spec states (test_), and for each statement with hypotheses a concrete state and operands that meet them
(wit_).
-/
namespace Sys2Proof.Tests

set_option Elab.async false
set_option maxRecDepth 10000
set_option linter.unusedVariables false
set_option synthInstance.maxSize 100000
set_option synthInstance.maxHeartbeats 400000

open Sys2Proof Sys2Proof.Machine

/-! ### The states of the tests -/

/-- The unit alone, with an empty frame store and no command waiting. -/
def st (d : Dev) : State := ⟨d, [], []⟩

/-- A unit with chain address 5 that is configured and past its control step. -/
def base : Dev :=
  let c := { Dev.reset.chain with power := .running, slotMs := 5, addr := .done, controlUp := true }
  ({ Dev.reset with chain := c } : Dev).setFlds
    [(R.CH_CHAIN_ADDR_ADDR, 5), (R.CH_CHAIN_ADDR_ENUM_DONE, 1), (R.CH_LOAD_STATUS_CONFIGURED, 1)]

def clearing1 : Clearing := ⟨1, 0x7E, 0, 0, 0, 0x100000, 7⟩

def clearing2 : Clearing := ⟨2, 0x7E, 1, 0, 0x20000000, 0x100000, 9⟩

def floorplan : Floorplan where
  islands := []
  clearings := [clearing1, clearing2]
  leMap := [⟨0, 0, 64⟩, ⟨1, 0, 64⟩, ⟨2, 1, 64⟩, ⟨33, 5, 64⟩]
  canopy := [⟨0, 0, 0, 1⟩]
  heads := [⟨0, 1, 0x40, 0xFF, 0xFF, 0, 3, 4096, 2160⟩, ⟨1, 1, 2, 0xFF, 0xFF, 0, 3, 4096, 2160⟩,
    ⟨5, 1, 33, 0xFF, 0xFF, 0, 3, 4096, 2160⟩]
  ringClass := []
  irqMap := []
  owners := []

/-- A ready unit with two clearings, four layer engines and three heads. -/
def based : Dev := { base.setFlds [(R.SY_BRINGUP_READY, 1)] with fp := floorplan }

/-- The state that a command leaves. -/
def run1 (c : Instr) (s : State) : State := match exec c s with | .next t => t | .fault _ => s | .refused _ => s

/-! ### Ill-formed commands: one for each check -/

/-- Every command that carries a device frame checks its payload (R411). -/
def longFrame : RingFrame :=
  { version := 1, kind := 4, subtype := 0, cls := 3, dest := 5, src := 9, hops := 4, flags := 0, txn := 1, length := 9153,
    tag := 7, frame := 0, offset := 0, arg0 := 0, arg1 := 0, status := 0, owner := 0, iv := 0, time := 0,
    payload := List.replicate 9153 0 }

theorem smoke_frame_payload : ([.rpFrameRx 0 ⟨true, 0, 0, []⟩ (.device longFrame), .tile 0 longFrame, .write 0 longFrame,
  .readReq 0 longFrame,
    .readRsp 0 longFrame, .writeAck 0 longFrame, .regWrite 0 longFrame, .regRead 0 longFrame, .regRsp 0 longFrame,
    .notice 0 longFrame] : List Instr).all (fun c => !c.wf) = true := by decide +kernel

theorem smoke_burst_of_63_bytes : Instr.wf (.fsRequest .host 0 (some ⟨.replicate 63 0, 0⟩)) = false ∧
    Instr.wf (.fsRequest .host 0 (some ⟨.replicate 64 0, 0⟩)) = true := by decide +kernel

theorem smoke_offset_past_the_bar : Instr.wf (.busErrorAccess ⟨.bar4, false, .w32, 0x100000, []⟩) = false ∧
    Instr.wf (.busErrorAccess ⟨.bar4, false, .w32, 0xFFFFC, []⟩) = true := by decide +kernel

theorem smoke_write_without_its_words : Instr.wf (.busErrorAccess ⟨.bar0, true, .long 2, 0, [1]⟩) = false :=
  by decide +kernel

theorem smoke_read_with_data : Instr.wf (.busErrorAccess ⟨.bar0, false, .w32, 0, [1]⟩) = false := by decide +kernel

theorem smoke_long_access_of_one_word : Instr.wf (.busErrorAccess ⟨.bar0, false, .long 1, 0, []⟩) = false ∧
    Instr.wf (.busErrorAccess ⟨.bar0, false, .long 0, 0, []⟩) = false := by decide +kernel

theorem smoke_tag_past_the_last : Instr.wf (.fsReadComplete 16384 [] 0) = false ∧
    Instr.wf (.fsWriteComplete 16384 []) = false ∧
    Instr.wf (.fsWriteComplete 16383 []) = true := by decide +kernel

theorem smoke_window_access : Instr.wf (.hostWindowRead 0x7FFF 2) = false ∧ Instr.wf (.hostWindowRead 0 0) = false ∧
    Instr.wf (.hostWindowWrite 0x7FFF [1, 2]) = false ∧ Instr.wf (.hostWindowWrite 0 []) = false ∧
    Instr.wf (.hostWindowRead 0x7FFF 1) = true := by decide +kernel

theorem smoke_pixel_past_the_line : Instr.wf (.headUnderrun 0 16384) = false := by decide +kernel

theorem smoke_aux_reply_of_17_bytes : Instr.wf (.auxDone 0 0 17 (.replicate 17 0)) = false := by decide +kernel

theorem smoke_error_entry_of_65_bytes : Instr.wf (.cpReadCompletion 0 0 ⟨0, 1, [], .replicate 65 0⟩) = false :=
  by decide +kernel

theorem smoke_cartridge_link : Instr.wf (.linkUp 0 0 1) = false ∧ Instr.wf (.linkUp 0 5 1) = false ∧
    Instr.wf (.linkUp 0 1 3) = false ∧ Instr.wf (.linkUp 0 4 4) = true := by decide +kernel

theorem smoke_eight_temperatures : Instr.wf (.thermalUpdate (.replicate 8 0)) = false ∧
    Instr.wf (.thermalUpdate (.replicate 9 0)) = true := by decide +kernel

/-- The command table gives no row any bits, so no word spells a command (log entry 2). -/
theorem test_no_word_spells_a_command : decodeTableWord 32 0 = none ∧ State.reset.withFetchWord 32 0 = State.reset := by
  decide +kernel

/-! ### Witnesses: power, resets, the chain and loads -/

theorem wit_EveryStepKeepsStoreCanonical :
    State.reset.Inv ∧ ∃ t, step ⟨Dev.reset, [], [.porRelease]⟩ = .next t := ⟨by decide +kernel, _, rfl⟩

theorem wit_OnlyStoreCommandsChangeBytes : ∃ t, exec .por (st base) = .next t := ⟨_, rfl⟩

def chained (f : ChainSt → ChainSt) : State := st { base with chain := f base.chain }

def loading (p : LoadPhase) (src : LoadSource) (image : List Byte) : State :=
  st { based with loader := { based.loader with phase := p, source := src, image := image } }

def imageHeader (total dest : Nat) : List Byte :=
  let h := toLe 4 0x49504641 ++ [2, 0, 64, 0] ++ toLe 4 total ++ [0x16, 0x84, 0xB1, 1, 1, 0, BitVec.ofNat 8 dest, 0] ++
    toLe 4 64 ++ toLe 4 0xABCD ++ toLe 4 0 ++ List.replicate 28 0
  h ++ toLe 4 (crc32 h)

/-- An INCREMENTAL image of one IRQ_TARGET section that gives ten sources their targets (R57). -/
def irqImage : List Byte :=
  let body := toLe 2 10 ++ toLe 2 4 ++ toLe 4 0 ++ (List.range 10).flatMap fun i => toLe 2 i ++ [BitVec.ofNat 8 i, 0]
  let table := [7, 0] ++ toLe 2 0 ++ toLe 4 80 ++ toLe 4 48 ++ toLe 4 (crc32 body)
  let head := toLe 4 0x49504641 ++ [2, 0] ++ toLe 2 64 ++ toLe 4 128 ++ toLe 2 0x8416 ++ [0xB0, 2] ++ toLe 2 1 ++ [0,
    0] ++
    toLe 4 64 ++ List.replicate 36 0
  head ++ toLe 4 (crc32 head) ++ table ++ body

theorem wit_StepRunsFrontCommand :
    let c : Instr := .por; let rest : List Instr := []; let s : State := ⟨Dev.reset, [], [.por]⟩
    s.pending = c :: rest := by decide +kernel

theorem wit_EmptyQueueTicksRawCounter :
    (let s : State := State.reset; s.pending = [] ∧ s.dev.inReset = true) ∧
    (let s : State := st base
     s.pending = [] ∧ s.dev.inReset = false ∧ ((∀ n < 8, (s.dev.link n).aux.all (·.sent) = true ∧
     (s.dev.link n).auth ≠ .running))) := by decide +kernel

theorem wit_PowerSequence_PowerUpPhases :
    (let s : State := State.reset; s.dev.chain.power ≠ .otpLoading) ∧
    (let s : State := chained fun c => { c with power := .otpLoading }; s.dev.chain.power = .otpLoading) :=
  by decide +kernel

theorem wit_CrstResetsItsClasses :
    (let lowNs : Nat := 999; lowNs < 1000) ∧
    (let lowNs : Nat := 1000; 1000 ≤ lowNs ∧ lowNs < 10000) ∧
    (let lowNs : Nat := 10000; let s : State := st base; 10000 ≤ lowNs ∧ s.dev.chain.power ≠ .por) ∧
    (let lowNs : Nat := 10000; let s : State := State.reset; 10000 ≤ lowNs ∧ s.dev.chain.power = .por) :=
  by decide +kernel

theorem wit_PowerSequence_CrstReleaseStartsSequence :
    (let s : State := st base; s.dev.chain.crstLow = false) ∧
    (let s : State := chained fun c => { c with crstLow := true }; s.dev.chain.crstLow = true) := by decide +kernel

theorem wit_AddressesAndStaggeredStart_AddressAssignment :
    (let s : State := chained fun c => { c with addr := .released }; let token : BitVec 10 := 0
     s.dev.chain.addr = .released ∧ (s.dev.chain.addr ≠ .waitToken ∨ bit token.toNat 0 = false) ∧
     s.dev.chain.addr ≠ .waitToken) ∧
    (let s : State := chained fun c => { c with addr := .waitToken }; let token : BitVec 10 := 1 + 2 * 2
     s.dev.chain.addr ≠ .released ∧ s.dev.chain.addr = .waitToken ∧ bit token.toNat 0 = true ∧
     Dev.oddOnes (bits token.toNat 8 1) 8 = true ∧ bit token.toNat 9 = false ∧ 2 ≤ bits token.toNat 7 1 ∧
     bits token.toNat 7 1 ≤ 63) ∧
    (let a := 127; a < 128) ∧
    (let s : State := chained fun c => { c with addr := .waitToken }; let token : BitVec 10 := 1 + 2 * 2 + 256
     s.dev.chain.addr = .waitToken ∧ bit token.toNat 0 = true ∧
     ((Dev.oddOnes (bits token.toNat 8 1) 8 = false ∨ bit token.toNat 9 = true))) ∧
    (let s : State := chained fun c => { c with addr := .waitToken }; let token : BitVec 10 := 1+2*64
     s.dev.chain.addr = .waitToken ∧ bit token.toNat 0 = true ∧ Dev.oddOnes (bits token.toNat 8 1) 8 = true ∧
     bit token.toNat 9 = false ∧ 64 ≤ bits token.toNat 7 1) ∧
    (let s : State := chained fun c => { c with addr := .waitToken }; let token : BitVec 10 := 1+256
     s.dev.chain.addr = .waitToken ∧ bit token.toNat 0 = true ∧ Dev.oddOnes (bits token.toNat 8 1) 8 = true ∧
     bit token.toNat 9 = false ∧ bits token.toNat 7 1 < 2) := by decide +kernel

theorem wit_AddressesAndStaggeredStart_StaggeredStart :
    (let s : State := st base; let p : PowerStep := .ring; p ∉ s.dev.chain.started) ∧
    (let s : State := chained fun c => { c with started := [.ring] }; let p : PowerStep := .ring
     p ∈ s.dev.chain.started) := by decide +kernel

theorem wit_AddressesAndStaggeredStart_HeldBlocksDoNothing :
    let c : Instr := .noticeTx; let b : Block := .SH
    let s : State := st { base with chain := { base.chain with controlUp := false } }
    c.block = some b ∧ s.dev.blockHeld b = true := by decide +kernel

theorem wit_ChainFrameRules :
    (let s : State := State.reset; s.dev.inReset = true) ∧
    (let s : State := st base; let cmd : Byte := 1; let dest : Byte := 5; let cmdInv : Byte := 0
     let destInv : Byte := 0xFA; let image : List Byte := []
     let sound := cmd = 1 ∧ cmdInv = ~~~cmd ∧ destInv = ~~~dest
     s.dev.inReset = false ∧ s.dev.chain.rx = .hunt 0xFFFFFFFF ∧ image = [] ∧ (¬ sound)) ∧
    (let s : State := st base; let cmd : Byte := 1; let dest : Byte := 6; let cmdInv : Byte := 0xFE
     let destInv : Byte := 0xF9; let image : List Byte := []
     let sound := cmd = 1 ∧ cmdInv = ~~~cmd ∧ destInv = ~~~dest
     s.dev.inReset = false ∧ s.dev.chain.rx = .hunt 0xFFFFFFFF ∧ image = [] ∧ sound ∧
     s.dev.frameForUs dest.toNat = false) ∧
    (let s : State := st base; let cmd : Byte := 1; let dest : Byte := 5; let cmdInv : Byte := 0xFE
     let destInv : Byte := 0xFA; let image : List Byte := []
     let sound := cmd = 1 ∧ cmdInv = ~~~cmd ∧ destInv = ~~~dest
     s.dev.inReset = false ∧ s.dev.chain.rx = .hunt 0xFFFFFFFF ∧ image = [] ∧ sound ∧
     s.dev.frameForUs dest.toNat = true ∧ s.dev.ready = false) ∧
    (let s : State := st based; let cmd : Byte := 1; let dest : Byte := 5; let cmdInv : Byte := 0xFE
     let destInv : Byte := 0xFA; let image : List Byte := []
     let sound := cmd = 1 ∧ cmdInv = ~~~cmd ∧ destInv = ~~~dest
     s.dev.inReset = false ∧ s.dev.chain.rx = .hunt 0xFFFFFFFF ∧ sound ∧ s.dev.frameForUs dest.toNat = true ∧
     s.dev.ready = true ∧ s.dev.chSafe = false ∧ s.dev.loader.phase = .idle ∧ image = []) ∧
    (let s : State := st { based with safe := [1] }; let cmd : Byte := 1; let dest : Byte := 5
     let cmdInv : Byte := 0xFE; let destInv : Byte := 0xFA; let image : List Byte := []
     let sound := cmd = 1 ∧ cmdInv = ~~~cmd ∧ destInv = ~~~dest
     s.dev.inReset = false ∧ s.dev.chain.rx = .hunt 0xFFFFFFFF ∧ image = [] ∧ sound ∧
     s.dev.frameForUs dest.toNat = true ∧ s.dev.ready = true ∧ s.dev.chSafe = true) ∧
    (let s : State := loading .zerofill .pcie []; let cmd : Byte := 1; let dest : Byte := 5
     let cmdInv : Byte := 0xFE; let destInv : Byte := 0xFA; let image : List Byte := []
     let sound := cmd = 1 ∧ cmdInv = ~~~cmd ∧ destInv = ~~~dest
     s.dev.inReset = false ∧ s.dev.chain.rx = .hunt 0xFFFFFFFF ∧ image = [] ∧ sound ∧
     s.dev.frameForUs dest.toNat = true ∧ s.dev.ready = true ∧ s.dev.chSafe = false ∧ s.dev.loader.phase ≠ .idle) ∧
    (let s : State := st based; let cmd : Byte := 1; let dest : Byte := 5; let cmdInv : Byte := 0xFE
     let destInv : Byte := 0xFA; let image : List Byte := [1]
     let sound := cmd = 1 ∧ cmdInv = ~~~cmd ∧ destInv = ~~~dest
     s.dev.inReset = false ∧ s.dev.chain.rx = .hunt 0xFFFFFFFF ∧ sound ∧ s.dev.frameForUs dest.toNat = true ∧
     s.dev.ready = true ∧ s.dev.chSafe = false ∧ s.dev.loader.phase = .idle ∧ image.length < 64 ∧ image ≠ []) ∧
    (let s : State := st based; let cmd : Byte := 1; let dest : Byte := 5; let cmdInv : Byte := 0xFE
     let destInv : Byte := 0xFA; let image : List Byte := imageHeader 136 5 ++ List.replicate 72 0
     let sound := cmd = 1 ∧ cmdInv = ~~~cmd ∧ destInv = ~~~dest
     s.dev.inReset = false ∧ s.dev.chain.rx = .hunt 0xFFFFFFFF ∧ sound ∧ s.dev.frameForUs dest.toNat = true ∧
     s.dev.ready = true ∧ s.dev.chSafe = false ∧ s.dev.loader.phase = .idle ∧ 64 < image.length ∧
     imgTotal image = image.length ∧ Dev.headerTells (image.take 64) = true ∧
     checkHeader (image.take 64) s.dev.unitAddr s.dev.configured = none) := by decide +kernel

theorem wit_ChainFrameRules_ChainStallAndRelease :
    (let s : State := st base; s.dev.frameOpen = false) ∧
    (let s : State := loading .receiving .unicast []; s.dev.frameOpen = true) := by decide +kernel

theorem wit_HeadAndBlockResets_HeadReset :
    (let s : State := st based; let n : Fin 8 := 7; s.dev.fld ⟨R.SY_RESET_BUSY, n, n⟩ = 0) ∧
    (let s : State := st (based.setFld ⟨R.SY_RESET_BUSY, 7, 7⟩ 1); let n : Fin 8 := 7
     s.dev.fld ⟨R.SY_RESET_BUSY, n, n⟩ = 1) := by decide +kernel

theorem wit_HeadAndBlockResets_SoftReset :
    (let s : State := st based; let b : SoftBlock := .gv; s.dev.srstRefused b = false ∧ b ∉ s.dev.srsts) ∧
    (let s : State := st { based with srsts := [.gv] }; let b : SoftBlock := .gv; b ∈ s.dev.srsts) ∧
    (let s : State := st (based.setFld (R.HD_STATUS_RUN 0) 2); let b : SoftBlock := .fs 0; s.dev.srstRefused b = true) :=
  by decide +kernel

theorem wit_FunctionLevelReset :
    (let s : State := st base
     (s.dev.loader.phase = .idle ∨ s.dev.loader.source ≠ .pcie ∨ s.dev.abortable = true) ∧
     s.dev.loader.flrWaiting = false) ∧
    (let s : State := loading .applying .pcie []
     s.dev.loader.source = .pcie ∧ (s.dev.loader.phase = .applying ∨ s.dev.loader.phase = .zerofill)) := by decide +kernel

theorem wit_LoadReception_LoadStartOpensLoad :
    (let s : State := st base; s.dev.loader.phase = .idle ∧ s.dev.chSafe = false ∧ s.dev.unitAddr ≠ 0) ∧
    (let s : State := loading .receiving .pcie []
     (s.dev.loader.phase ≠ .idle ∨ s.dev.chSafe = true ∨ s.dev.unitAddr = 0)) := by decide +kernel

theorem wit_LoadReception_LoadDataReceivesBytes :
    (let s : State := loading .receiving .pcie (irqImage.take 0)
     let w : Word := BitVec.ofNat 32 (leNat (slice irqImage 0 4)); let all := s.dev.loader.image ++ toLe 4 w.toNat
     s.dev.loader.phase = .receiving ∧ s.dev.loader.source = .pcie ∧ all.length < 64) ∧
    (let s : State := loading .receiving .pcie (irqImage.take 60)
     let w : Word := BitVec.ofNat 32 (leNat (slice irqImage 60 4)); let all := s.dev.loader.image ++ toLe 4 w.toNat
     s.dev.loader.phase = .receiving ∧ s.dev.loader.source = .pcie ∧ 64 ≤ all.length ∧
     ((s.dev.loader.image.length < 64 → checkHeader all s.dev.unitAddr s.dev.configured = none))) ∧
    (let s : State := loading .receiving .pcie (List.replicate 60 0); let w : Word := 0
     let e : LoadErr := (checkHeader (List.replicate 64 0) 5 true).getD ⟨0, 0, 0⟩
     let all := s.dev.loader.image ++ toLe 4 w.toNat
     s.dev.loader.phase = .receiving ∧ s.dev.loader.source = .pcie ∧ 64 ≤ all.length ∧ s.dev.loader.image.length < 64 ∧
     checkHeader all s.dev.unitAddr s.dev.configured = some e) ∧
    (let s : State := st base; (s.dev.loader.phase ≠ .receiving ∨ s.dev.loader.source ≠ .pcie)) := by decide +kernel

theorem wit_LoadReception_LoadAbortEndsLoad :
    (let s : State := loading .receiving .pcie []; s.dev.loader.source = .pcie ∧ s.dev.abortable = true) ∧
    (let s : State := st base; (¬ (s.dev.loader.source = .pcie ∧ s.dev.abortable = true))) := by decide +kernel

theorem wit_LoadCompletion_ValidationEnds :
    (let s : State := st base; s.dev.loader.phase ≠ .validating) ∧
    (let s : State := loading .validating .pcie irqImage
     let stages := checkImage s.dev.loader.image s.dev.fp (!s.dev.configured) s.dev.shadow s.dev.shadow.programmed
         s.dev.shadow.requireSigned
     s.dev.loader.phase = .validating ∧ stages = none ∧ s.dev.stage5 s.dev.loader.image = none) ∧
    (let s : State := loading .validating .pcie (irqImage.set 100 9)
     let e : LoadErr := (checkImage (irqImage.set 100 9) floorplan false based.shadow based.shadow.programmed based.shadow.requireSigned).getD ⟨0,0,0⟩
     let stages := checkImage s.dev.loader.image s.dev.fp (!s.dev.configured) s.dev.shadow s.dev.shadow.programmed
         s.dev.shadow.requireSigned
     s.dev.loader.phase = .validating ∧ (stages = some e ∨ (stages = none ∧
     s.dev.stage5 s.dev.loader.image = some e))) := by decide +kernel

theorem wit_LoadCompletion_ApplyStartsZeroFill :
    (let s : State := st base; s.dev.loader.phase ≠ .applying) ∧
    (let s : State := loading .applying .pcie irqImage; s.dev.loader.phase = .applying) := by decide +kernel

theorem wit_LoadCompletion_ZeroFillEndsLoad :
    (let s : State := st base; s.dev.loader.phase ≠ .zerofill) ∧
    (let s : State := loading .zerofill .pcie irqImage; s.dev.loader.phase = .zerofill) := by decide +kernel

/-! ### Witnesses: registers and the frame store -/

/-- The row of the table of DP3_AUX_ADDR, a register whose writes have no effect beyond the store. -/
def auxRow : RegRow := (rowIn .DP 3 0x24).getD ⟨"", 0, [], []⟩

def pattern (k : Nat) : List Byte := (List.range 64).map fun i => BitVec.ofNat 8 (3 * i + k)

def partBurst : BurstWrite := ⟨pattern 2, 0xFFFF00000F0F00FF⟩

def flight (tag : Nat) (who : Requester) (a : Nat) (wr : Option BurstWrite) (got : Option Answer) : Inflight :=
  ⟨tag, ⟨who, a, wr, .plain⟩, got⟩

def flying (d : Dev) (l : List Inflight) : Dev := { d with fs := { d.fs with inflight := l } }

def hostBurst (got : Option Answer) : Inflight := ⟨12288, ⟨.host, 0x1000, none, .hostRead 7 0⟩, got⟩

/-- Windows 0, 1 and 3 map clearings 1 and 2; window 2 maps none. -/
def windowed : Dev := based.setFlds [(R.CL_WINn_CTRL_CLEARING 0, 1), (R.CL_WINn_CTRL_PAGE 0, 3),
  (R.CL_WINn_CTRL_CLEARING 1, 2), (R.CL_WINn_CTRL_CLEARING 2, 9), (R.CL_WINn_CTRL_CLEARING 3, 1)]

theorem wit_FieldStores_FieldStoreChangesOnlyItsBits :
    let f : Fld := R.SY_PARITY_CTRL_TARGET; let g : Fld := R.SY_THERMAL_WARN_C; g.lo ≤ g.hi ∧ g.hi < 32 ∧ f.Apart g :=
  by decide +kernel

theorem wit_FieldStores_EventBitsAndSequence :
    (let a : Nat := R.HD_STATUS 0; let b : Nat := 0; let evs : List Nat := [23]; let x := R.SY_THERMAL; let c := 23
     ((∀ c ∈ b :: evs, c < 24)) ∧ c ∈ b :: evs ∧ x ≠ a) ∧
    (let b : Nat := 0; let evs : List Nat := [23]; let c := 5; ((∀ c ∈ b :: evs, c < 24)) ∧ c < 24 ∧ c ∉ b :: evs) :=
  by decide +kernel

theorem wit_RegisterWrites_RegisterWriteStoresFields :
    let w : Word := 0x7FF37F75; let s : State := st based; let off : BitVec 24 := 0x2B0024; let b : Block := .DP
    let n : Nat := 3; let r : RegRow := auxRow; let d := if b.shown then s.dev.catchUp else s.dev
    (off.toNat % 4 = 0 ∧ inWindow (decodeBar0 off.toNat) = false ∧ ((b = .CL → s.dev.fs.hostQueue = [])) ∧
    blockOfSlot (decodeBar0 off.toNat / 0x10000) = some (b, n) ∧ rowIn b n (decodeBar0 off.toNat % 0x10000) = some r ∧
    r.isRs = false ∧ s.dev.blockHeld b = false ∧ ownBits b (decodeBar0 off.toNat % 0x10000) = 0 ∧
    d.heldBits r b n (decodeBar0 off.toNat % 0x10000) = 0 ∧ bits w.toNat 31 31 = 0) ∧
    (∀ (d : Dev) (x : Written) (a : Nat) (l : Bool), d.writeEffect b n (decodeBar0 off.toNat % 0x10000) x a l = d) :=
  ⟨by decide +kernel, fun _ _ _ _ => rfl⟩

theorem wit_RegisterWrites_AliasWriteStoresOneBit_1 :
    let s : State := st based; let off : BitVec 25 := BitVec.ofNat 25 (43 * 0x20000 + 0x24 * 32 + 4 * 19)
    let b : Block := .DP; let n : Nat := 3; let r : RegRow := auxRow; let p := decodeBar2 off.toNat
    let d := if b.shown then s.dev.catchUp else s.dev
    (off.toNat % 4 = 0 ∧ blockOfSlot (p.1 / 0x10000) = some (b, n) ∧ rowIn b n (p.1 % 0x10000) = some r ∧
    r.isRs = false ∧ accessEffect p.1 = false ∧ ((b = .CL → s.dev.fs.hostQueue = [])) ∧ s.dev.blockHeld b = false ∧
    ownBits b (p.1 % 0x10000) = 0 ∧ d.heldBits r b n (p.1 % 0x10000) = 0) ∧
    (∀ (d : Dev) (x : Written) (a : Nat) (l : Bool), d.writeEffect b n (p.1 % 0x10000) x a l = d) ∧
    (∃ f ∈ r.fields, f.ty = .rw ∧ f.lo ≤ p.2 ∧ p.2 ≤ f.hi ∧ ∀ v, storeAdjust b (p.1 % 0x10000) f.lo v = v) :=
  ⟨by decide +kernel, fun _ _ _ _ => rfl, ⟨(auxRow.fields.headD ⟨"", 0, 0, .ro, 0, .crst⟩), by decide +kernel,
    by decide +kernel, by decide +kernel, by decide +kernel, fun _ => rfl⟩⟩

theorem wit_RegisterWrites_AliasWriteStoresOneBit_2 :
    let s : State := st based; let off : BitVec 25 := BitVec.ofNat 25 (43 * 0x20000 + 0x24 * 32 + 4 * 20)
    let b : Block := .DP; let n : Nat := 3; let r : RegRow := auxRow; let p := decodeBar2 off.toNat
    let d := if b.shown then s.dev.catchUp else s.dev
    (off.toNat % 4 = 0 ∧ blockOfSlot (p.1 / 0x10000) = some (b, n) ∧ rowIn b n (p.1 % 0x10000) = some r ∧
    r.isRs = false ∧ accessEffect p.1 = false ∧ ((b = .CL → s.dev.fs.hostQueue = [])) ∧ s.dev.blockHeld b = false ∧
    ownBits b (p.1 % 0x10000) = 0 ∧ d.heldBits r b n (p.1 % 0x10000) = 0 ∧
    ((∀ f ∈ r.fields, f.ty = .rw → p.2 < f.lo ∨ f.hi < p.2))) ∧
    (∀ (d : Dev) (x : Written) (a : Nat) (l : Bool), d.writeEffect b n (p.1 % 0x10000) x a l = d) :=
  ⟨by decide +kernel, fun _ _ _ _ => rfl⟩

theorem wit_SequenceClearing :
    (let s : State := st based; let w : Word := 0x00FFFFFF; let off : BitVec 24 := BitVec.ofNat 24 (R.HD_STATUS 7)
     let r : RegRow := (rowOf (R.HD_STATUS 7)).getD ⟨"", 0, [], []⟩; let a := decodeBar0 off.toNat
     off.toNat % 4 = 0 ∧ rowOf (decodeBar0 off.toNat) = some r ∧ r.isRs = true ∧
     s.dev.slotHeld (decodeBar0 off.toNat / 0x10000) = false ∧
     (decodeBar0 off.toNat / 0x10000 ≠ 3 ∨ s.dev.fs.hostQueue = []) ∧ bits w.toNat 31 24 = s.dev.fld ⟨a, 31, 24⟩) ∧
    (let s : State := st based; let w : Word := 0xFFFFFFFF; let off : BitVec 24 := BitVec.ofNat 24 (R.HD_STATUS 7)
     let r : RegRow := (rowOf (R.HD_STATUS 7)).getD ⟨"", 0, [], []⟩; let a := decodeBar0 off.toNat
     off.toNat % 4 = 0 ∧ rowOf (decodeBar0 off.toNat) = some r ∧ r.isRs = true ∧
     s.dev.slotHeld (decodeBar0 off.toNat / 0x10000) = false ∧
     (decodeBar0 off.toNat / 0x10000 ≠ 3 ∨ s.dev.fs.hostQueue = []) ∧ bits w.toNat 31 24 ≠ s.dev.fld ⟨a, 31, 24⟩) :=
  by decide +kernel

theorem wit_BusErrorsAreLogged :
    let a : BusAccess := ⟨.bar0, false, .w32, 0xA9, []⟩; let cause : Nat := 4; let n : Nat := 0
    Dev.partCount a = n + 1 ∧ ((a.bar = .bar2 ∨ a.bar = .bar4 ∨ inWindow (decodeBar0 a.offset) = false)) ∧
    busCause a a.offset = some cause ∧ ((∀ k, k ≤ n → (busCause a (a.offset + 4 * k)).isSome = true)) := by decide +kernel

theorem wit_CompatibilityWindowWrites :
    let s : State := st based; let n : Nat := 3; let f : Fld := ⟨R.HD_BG_COLOR 3 1, 31, 16⟩; let lo : Nat := 12
    (n < 4 ∧ s.dev.blockHeld .HD = false ∧ (s.dev.catchUp.head n).arm = none) ∧ ((∃ hi, (hi = 0 ∨ hi = 1) ∧
    lo = 8 + 4 * hi ∧ f = ⟨R.HD_BG_COLOR n 1, 16 * hi + 15, 16 * hi⟩) ∨ (∃ hi l, (hi = 0 ∨ hi = 1) ∧
    lo = 0x10 + 4 * hi ∧ l < 64 ∧ (s.dev.fp.engines n).head? = some l ∧
    f = ⟨R.LE_SRC_BASE l 1 0, 16 * hi + 15, 16 * hi⟩)) :=
  ⟨by decide +kernel, .inl ⟨1, by decide +kernel⟩⟩

theorem wit_CompatibilityMissesAndStatus :
    let s : State := st based; let n : Nat := 3; let off : BitVec 20 := 0x20018
    off.toNat % 4 = 0 ∧ 8 ≤ off.toNat ∧
    ((off.toNat / 0x10000 = 0 ∨ 4 < off.toNat / 0x10000 ∨ off.toNat % 0x10000 ∉ [0, 4, 8, 0xC, 0x10, 0x14, 0x20,
      0x24] ∨ off.toNat % 0x10000 ∈ [0x10, 0x14] ∧
    s.dev.fp.engines (off.toNat / 0x10000 - 1) = [])) ∧ n < 4 ∧ s.dev.blockHeld .HD = false := by decide +kernel

theorem wit_ReadsAndParity_IndirectReads :
    (let s : State := st based; let slot : Fin 128 := 7
     Dev.hasRx slot = true ∧ s.dev.indFetch.find? (·.slot == slot.val) = none) ∧
    (let s : State := st { based with indFetch := [⟨7, some 0, true⟩] }; let slot : Fin 128 := 7; let a : Nat := 0
     let ans : Bool := true
     Dev.hasRx slot = true ∧ s.dev.indFetch.find? (·.slot == slot.val) = some ⟨slot, some a, ans⟩ ∧
     s.dev.rxHeld slot = false ∧ (rxRow (slot * 0x10000 + a)).isSome = true) ∧
    (let s : State := st { based with indFetch := [⟨7, some 0x3FC, false⟩] }; let slot : Fin 128 := 7
     let a : Nat := 0x3FC; let ans : Bool := false
     s.dev.indFetch.find? (·.slot == slot.val) = some ⟨slot, some a, ans⟩ ∧ s.dev.rxHeld slot = false ∧
     (rxRow (slot * 0x10000 + a)).isSome = false) ∧
    (let slot : Fin 128 := 0; Dev.hasRx slot = false) ∧
    (let s : State := st { base with indFetch := [⟨7, some 0, true⟩] }; let slot : Fin 128 := 7; let a : Nat := 0
     let ans : Bool := true
     s.dev.indFetch.find? (·.slot == slot.val) = some ⟨slot, some a, ans⟩ ∧ s.dev.rxHeld slot = true) := by decide +kernel

theorem wit_ReadsAndParity_ParityFaultIsFound :
    (let s : State := st (based.setFld R.SY_PARITY_CTRL_TARGET (R.HD_PIXCLK 0 / 4))
     let a := s.dev.physical (s.dev.fld R.SY_PARITY_CTRL_TARGET * 4)
     (rowOf a).any RegRow.hasParity = true ∧ s.dev.badParity = []) ∧
    (let s : State := st { based with badParity := [R.LE_FORMAT 63 0] }
     let a := s.dev.physical (s.dev.fld R.SY_PARITY_CTRL_TARGET * 4)
     (rowOf a).any RegRow.hasParity = false) ∧
    (let s : State := st { based with badParity := [R.LE_FORMAT 63 0] }; let a := R.LE_FORMAT 63 0; let b := .LE
     let n := 63
     s.dev.badParity = [a] ∧ blockOfSlot (slotOf a) = some (b, n) ∧
     b ∈ [Block.SY, .CL, .FS, .KY, .RP, .CN, .HD, .DP, .LE]) := by decide +kernel

theorem wit_StoreRequests :
    (let s : State := st based; let who : Requester := .bx 1; let burst : BitVec 24 := 0x10
     let write : Option BurstWrite := none; let q : Request := ⟨who, 64 * burst.toNat, write, .plain⟩
     let free := s.dev.fs.tagFree q = true ∧ s.dev.fs.waiting.any q.sameSource = false
     s.dev.blockHeld .FS = false ∧ free ∧ s.dev.refusal q = none ∧
     s.dev.isSafe (Block.FS.base + stackOf q.addr) = false) ∧
    (let s : State := st based; let who : Requester := .bx 1; let burst : BitVec 24 := 0x4000
     let write : Option BurstWrite := none; let q : Request := ⟨who, 64 * burst.toNat, write, .plain⟩
     let free := s.dev.fs.tagFree q = true ∧ s.dev.fs.waiting.any q.sameSource = false
     let why := (based.refusal ⟨.bx 1, 0x100000, none, .plain⟩).getD (0, 0)
     s.dev.blockHeld .FS = false ∧ free ∧ s.dev.refusal q = some why) ∧
    (let s : State := st { based with safe := [5] }; let who : Requester := .bx 1; let burst : BitVec 24 := 0x10
     let write : Option BurstWrite := none; let q : Request := ⟨who, 64 * burst.toNat, write, .plain⟩
     let free := s.dev.fs.tagFree q = true ∧ s.dev.fs.waiting.any q.sameSource = false
     s.dev.blockHeld .FS = false ∧ free ∧ s.dev.refusal q = none ∧
     s.dev.isSafe (Block.FS.base + stackOf q.addr) = true) ∧
    (let s : State := st { based with fs := { based.fs with waiting := [⟨.bx 1, 0, none, .plain⟩] } }
     let who : Requester := .bx 1; let burst : BitVec 24 := 0x10; let write : Option BurstWrite := none
     let q : Request := ⟨who, 64 * burst.toNat, write, .plain⟩
     let free := s.dev.fs.tagFree q = true ∧ s.dev.fs.waiting.any q.sameSource = false
     s.dev.blockHeld .FS = false ∧ (¬ free)) := by decide +kernel

theorem wit_WriteCompletions_WriteCompletionStoresEnabledBytes :
    let s : State := st (flying based [flight 5 .gv 0x1400 none none, flight 12288 .host 0x1000 (some partBurst) none])
    let tag : Nat := 12288; let i : Inflight := flight 12288 .host 0x1000 (some partBurst) none
    let w : BurstWrite := partBurst; let n : Nat := 0
    let symbols := fun (k : Nat) => (wrongSymbols (s.dev.fs.errorAt (i.req.addr + 16 * k))).length
    let parts := (List.range 4).filter (fun k => w.word k == .part)
    s.dev.blockHeld .FS = false ∧ s.dev.fs.inflight.find? (·.tag == tag) = some i ∧
    ((∀ x ∈ s.dev.fs.inflight, x.tag = tag → x = i)) ∧ i.req.write = some w ∧ i.got = none ∧ i.req.purpose = .plain ∧
    n = stackOf i.req.addr ∧ i.req.turn < 9 ∧
    ((∀ x ∈ s.dev.fs.inflight, x.got = none → stackOf x.req.addr = n → x = i)) ∧ s.dev.weights.getD i.req.turn 1 ≠ 0 ∧
    s.dev.fs.waiting = [] ∧ s.dev.fs.hostQueue = [] ∧ s.dev.fs.hostReads = [] ∧ s.dev.fs.held = [] ∧
    ((∀ k ∈ parts, symbols k ≤ 2)) := by decide +kernel

theorem wit_WriteCompletions_WriteCompletionStaysInItsBurst :
    let s : State := st based; let tag : Nat := 12288; s.dev.fs.inflight.find? (·.tag == tag) = none := by decide +kernel

theorem wit_ReadCompletionReportsErrors :
    (let s : State := st (flying based [flight 5 .gv 0x1400 none none, flight 12288 .host 0x1000 none none])
     let tag : Nat := 12288; let errs : List WordError := []; let i : Inflight := flight 12288 .host 0x1000 none none
     let n : Nat := 0
     let symbols := fun (k : Nat) => (wrongSymbols ((s.dev.fs.strike errs).errorAt (i.req.addr + 16 * k))).length
     s.dev.blockHeld .FS = false ∧ s.dev.fs.inflight.find? (·.tag == tag) = some i ∧
     ((∀ x ∈ s.dev.fs.inflight, x.tag = tag → x = i)) ∧ i.req.write = none ∧ i.req.purpose = .plain ∧
     i.req.scanout = false ∧ n = stackOf i.req.addr ∧ i.req.turn < 9 ∧ s.dev.fs.waiting = [] ∧
     s.dev.fs.hostQueue = [] ∧ s.dev.fs.hostReads = [] ∧ s.dev.fs.held = [] ∧ i.got = none ∧
     ((∀ x ∈ s.dev.fs.inflight, x.got = none → stackOf x.req.addr = n → x = i)) ∧ s.dev.weights.getD i.req.turn 1 ≠ 0 ∧
     ((∀ k, k < 4 → symbols k ≤ 2))) ∧
    (let s : State := st (flying based [flight 5 .gv 0x1400 none none, flight 12288 .host 0x1000 none (some ⟨true,
      pattern 1⟩)])
     let tag : Nat := 12288; let i : Inflight := flight 12288 .host 0x1000 none (some ⟨true, pattern 1⟩)
     let n : Nat := 0
     s.dev.blockHeld .FS = false ∧ s.dev.fs.inflight.find? (·.tag == tag) = some i ∧
     ((∀ x ∈ s.dev.fs.inflight, x.tag = tag → x = i)) ∧ i.req.write = none ∧ i.req.purpose = .plain ∧
     i.req.scanout = false ∧ n = stackOf i.req.addr ∧ i.req.turn < 9 ∧ s.dev.fs.waiting = [] ∧
     s.dev.fs.hostQueue = [] ∧ s.dev.fs.hostReads = [] ∧ s.dev.fs.held = [] ∧ i.got.isSome = true) := by decide +kernel

theorem wit_StackMaintenanceAndMarks_StackMaintenance :
    (let s : State := st { based with fs := { based.fs with writeBacks := [⟨0x1400, pattern 4⟩] } }
     let n : Fin 4 := 1; let wrong : BitVec 144 := 0x101
     let a := globalOf n (s.dev.fld (R.FS_SCRUB_POS_POS n) / 16 * 16); let e := s.dev.fs.errorAt a ^^^ wrong
     let w := ⟨0x1400, pattern 4⟩
     s.dev.blockHeld .FS = false ∧ s.dev.fs.writeBacks.find? (fun w => stackOf w.word == n) = some w ∧
     s.dev.fld (R.FS_SCRUB_CTRL_PERIOD_H n) ≠ 0 ∧ (wrongSymbols e).length ≤ 2) ∧
    (let s : State := st (based.setFld (R.FS_SCRUB_CTRL_PERIOD_H 1) 0); let n : Fin 4 := 1
     s.dev.blockHeld .FS = false ∧ ((∀ w ∈ s.dev.fs.writeBacks, stackOf w.word ≠ n)) ∧
     s.dev.fld (R.FS_SCRUB_CTRL_PERIOD_H n) = 0) := by decide +kernel

theorem wit_HostWindows :
    (let s : State := st windowed; let off : BitVec 15 := 0x1003; let len : Nat := 1
     let bytes : List Byte := pattern 1 |>.take 61; let more : List Byte := pattern 2
     let w : Nat := off.toNat / 0x2000; let x : Nat := off.toNat % 0x2000; let a : Nat := (windowed.windowMap w x).1
     let b : Nat := a / 64 * 64 % 2 ^ 30; let q : Option BurstWrite → Request := fun wr => ⟨.host, b, wr, .plain⟩
     let clear := s.dev.fs.waiting = [] ∧ s.dev.fs.hostQueue = [] ∧ s.dev.fs.hostReads = []
     s.dev.blockHeld .CL = false ∧ w = off.toNat / 0x2000 ∧ x = off.toNat % 0x2000 ∧ b = a / 64 * 64 % 2 ^ 30 ∧
     s.dev.fs.tagFree (q none) = true ∧ clear ∧ bytes ≠ [] ∧ off.toNat % 64 + bytes.length ≤ 64 ∧
     s.dev.windowMap w x = (a, none) ∧ s.dev.refusal (q (some ⟨[], 0⟩)) = none ∧
     s.dev.isSafe (Block.FS.base + stackOf b) = false ∧ 0 < len ∧ off.toNat % 64 + len ≤ 64 ∧
     s.dev.refusal (q none) = none ∧ more ≠ [] ∧ off.toNat + bytes.length + more.length ≤ 0x8000 ∧
     (off.toNat + bytes.length) % 64 = 0 ∧ (off.toNat + bytes.length) % 0x2000 ≠ 0) ∧
    (let s : State := st windowed; let off : BitVec 15 := 0x4001; let bytes : List Byte := [7]; let len : Nat := 1
     let w : Nat := off.toNat / 0x2000; let x : Nat := off.toNat % 0x2000; let a : Nat := (windowed.windowMap w x).1
     let b : Nat := a / 64 * 64 % 2 ^ 30; let why : Nat × Nat := (windowed.windowMap w x).2.getD (0, 0)
     let q : Option BurstWrite → Request := fun wr => ⟨.host, b, wr, .plain⟩
     let clear := s.dev.fs.waiting = [] ∧ s.dev.fs.hostQueue = [] ∧ s.dev.fs.hostReads = []
     s.dev.blockHeld .CL = false ∧ w = off.toNat / 0x2000 ∧ x = off.toNat % 0x2000 ∧ b = a / 64 * 64 % 2 ^ 30 ∧
     s.dev.fs.tagFree (q none) = true ∧ clear ∧ 0 < len ∧ off.toNat % 64 + len ≤ 64 ∧
     s.dev.windowMap w x = (a, some why) ∧ s.dev.fs.hostWrites = [] ∧ bytes ≠ [] ∧ off.toNat % 64 + bytes.length ≤ 64) :=
  by decide +kernel

theorem wit_HostWindows_HostReadCompletes :
    let s : State := st { flying based [hostBurst (some ⟨true, pattern 1⟩)] with fs := { (flying based [hostBurst (some ⟨true, pattern 1⟩)]).fs with hostReads := [⟨7, 0x9010, 48, [], 1, false, false, []⟩] } }
    let tag : Nat := 12288; let id : Nat := 7; let off : Nat := 0x9010; let len : Nat := 48
    let i : Inflight := hostBurst (some ⟨true, pattern 1⟩); let a : Answer := ⟨true, pattern 1⟩
    s.dev.blockHeld .FS = false ∧ s.dev.fs.inflight.find? (·.tag == tag) = some i ∧
    ((∀ x ∈ s.dev.fs.inflight, x.tag = tag → x = i)) ∧ i.req = ⟨.host, i.req.addr, none, .hostRead id 0⟩ ∧
    i.got = some a ∧ s.dev.fs.waiting = [] ∧ s.dev.fs.hostQueue = [] ∧ s.dev.fs.held = [] ∧
    s.dev.fs.hostReads = [⟨id, off, len, [], 1, false, false, []⟩] ∧ 0x8000 ≤ off ∧ 0 < len ∧ off % 64 + len ≤ 64 ∧
    off + len ≤ 0x10000 := by decide +kernel

theorem wit_StackMaintenanceAndMarks_HighMarksReset :
    let s : State := st based; s.dev.blockHeld .CL = false ∧ s.dev.blockHeld .FS = false := by decide +kernel

/-! ### Witnesses: heads and the governor -/

/-- A raster of 64 by 64 visible pixels in 160 by 80, eve line 75. -/
def timed (d : Dev) (n b : Nat) : Dev :=
  d.setFlds [(R.HD_TIMING_HACT_HACT n b, 64), (R.HD_TIMING_HTOTAL_HTOTAL n b, 160), (R.HD_TIMING_HSYNC_HFP n b, 16),
    (R.HD_TIMING_HSYNC_HSW n b, 16), (R.HD_TIMING_VACT_VACT n b, 64), (R.HD_TIMING_VTOTAL_VTOTAL n b, 80),
    (R.HD_TIMING_VSYNC_VFP n b, 4), (R.HD_TIMING_VSYNC_VSW n b, 2), (R.HD_TIMING_EVE_EVE n b, 5),
      (R.HD_PIXCLK_KHZ n, 25000)]

/-- Layer engine l shows 64 by 32 pixels of 32 bits from line 4 on. -/
def layered (d : Dev) (l b : Nat) : Dev :=
  d.setFlds [(R.LE_CTRL_ENABLE l, 1), (R.LE_SRC_BASE_BASE l b 0, 0x1000), (R.LE_PITCH_PITCH l b 0, 256),
    (R.LE_SRC_SIZE_SRC_W l b, 64), (R.LE_SRC_SIZE_SRC_H l b, 32), (R.LE_CROP_SIZE_CROP_W l b, 64),
    (R.LE_CROP_SIZE_CROP_H l b, 32), (R.LE_DST_SIZE_DST_W l b, 64), (R.LE_DST_SIZE_DST_H l b, 32),
      (R.LE_DST_POS_DST_Y l b, 4)]

def display (n : Nat) : Dev := layered (layered (timed (timed based n 0) n 1) 0 0) 0 1

/-- Head n with HDn_STATUS.RUN r and the rest as f says. -/
def running (n r : Nat) (f : HeadSt → HeadSt) : Dev :=
  let d := (display n).setFld (R.HD_STATUS_RUN n) r
  { d with hd := upd d.hd n f }

/-- Heads 0 and 1 are partners. -/
def paired (d : Dev) : Dev := { d with fp := { d.fp with
  heads := [⟨0, 1, 0x40, 0xFF, 1, 0, 3, 4096, 2160⟩, ⟨1, 1, 2, 0xFF, 0, 0, 3, 4096, 2160⟩] } }

def live : HeadSt → HeadSt := fun h => { h with ticking := true }

def due : HeadSt → HeadSt := fun h => { h with ticking := true, harvestDue := true }

def newImage (n : Nat) : List (Nat × Word) := [(R.HD_BG_COLOR n 0, 0x1234567), (R.HD_TIMING_HACT n 0, 128)]

def someDemand : Demand := ⟨25000, 160, 80, [], false⟩

def verdict (n r : Nat) : Verdict := ⟨r, 0x15, 3, 77, 66, [(n, someDemand)]⟩

/-- The governor's evaluation of a request of head 5 has this result. -/
def judging (trigger : Nat) (withdrawn : Bool) (r : Nat) (f : HeadSt → HeadSt) : State :=
  let d := running 5 (if trigger = 1 then 0 else 2) f
  st { d with gv := { d.gv with busy := some (⟨[5], trigger, [], withdrawn⟩, verdict 5 r) } }

def flattening (p : SurfacePhase) (h : Nat) : State :=
  let d := running 0 2 live
  st { d with gv := { d.gv with surfaces := upd d.gv.surfaces 7 (fun x => { x with phase := p, h := h }) } }

theorem wit_HeadStartAndStop_HeadStartAsksForAdmission :
    (let s : State := st (display 5); let n : Fin 8 := 5
     let none' := s.dev.run n ≠ 0 ∨ (s.dev.head n).starting = true ∨ (s.dev.head n).heldForLeader = true ∨
         n.val ∈ s.dev.loader.held
     let timed := s.dev.usesTlock n && s.dev.flag (R.HD_TLOCK_CTRL_TSTART n)
     let late := timed && s.dev.startIsLate n
     let dropped := late = true ∧ s.dev.flag (R.HD_TLOCK_CTRL_SKIP_LATE n) = true
     let closed := s.dev.startHeld (halfOfHead n)
     s.dev.blockHeld .HD = false ∧ (¬ none') ∧ (¬ dropped) ∧ s.dev.partner n = none ∧ closed = false) ∧
    (let s : State := st (running 5 2 id); let n : Fin 8 := 5
     let none' := s.dev.run n ≠ 0 ∨ (s.dev.head n).starting = true ∨ (s.dev.head n).heldForLeader = true ∨
         n.val ∈ s.dev.loader.held
     s.dev.blockHeld .HD = false ∧ none') ∧
    (let s : State := st ((display 5).setFlds [(R.HD_TLOCK_CTRL_TSTART 5, 1), (R.HD_TLOCK_CTRL_SKIP_LATE 5, 1)])
     let n : Fin 8 := 5
     let none' := s.dev.run n ≠ 0 ∨ (s.dev.head n).starting = true ∨ (s.dev.head n).heldForLeader = true ∨
         n.val ∈ s.dev.loader.held
     let timed := s.dev.usesTlock n && s.dev.flag (R.HD_TLOCK_CTRL_TSTART n)
     let late := timed && s.dev.startIsLate n
     let dropped := late = true ∧ s.dev.flag (R.HD_TLOCK_CTRL_SKIP_LATE n) = true
     s.dev.blockHeld .HD = false ∧ (¬ none') ∧ dropped) ∧
    (let s : State := st { display 5 with loader := { (display 5).loader with phase := .receiving } }
     let n : Fin 8 := 5
     let none' := s.dev.run n ≠ 0 ∨ (s.dev.head n).starting = true ∨ (s.dev.head n).heldForLeader = true ∨
         n.val ∈ s.dev.loader.held
     let timed := s.dev.usesTlock n && s.dev.flag (R.HD_TLOCK_CTRL_TSTART n)
     let late := timed && s.dev.startIsLate n
     let dropped := late = true ∧ s.dev.flag (R.HD_TLOCK_CTRL_SKIP_LATE n) = true
     let closed := s.dev.startHeld (halfOfHead n)
     s.dev.blockHeld .HD = false ∧ (¬ none') ∧ (¬ dropped) ∧ s.dev.partner n = none ∧ closed = true) ∧
    (let s : State := st ((paired (display 0)).setFld (R.HD_SPLIT_CTRL_LEADER 1) 1); let n : Fin 8 := 0
     let none' := s.dev.run n ≠ 0 ∨ (s.dev.head n).starting = true ∨ (s.dev.head n).heldForLeader = true ∨
         n.val ∈ s.dev.loader.held
     let timed := s.dev.usesTlock n && s.dev.flag (R.HD_TLOCK_CTRL_TSTART n)
     let late := timed && s.dev.startIsLate n
     let dropped := late = true ∧ s.dev.flag (R.HD_TLOCK_CTRL_SKIP_LATE n) = true
     let closed := s.dev.startHeld (halfOfHead n); let l := 1
     s.dev.blockHeld .HD = false ∧ (¬ none') ∧ (¬ dropped) ∧ s.dev.pairLeader n = some l ∧ l ≠ n.val ∧
     s.dev.run l ≠ 2 ∧ closed = false) := by decide +kernel

theorem wit_GeneratorStartsAtVact :
    (let s : State := st (running 5 1 id); let n : Fin 8 := 5; let up := s.dev.run n = 1 ∨ s.dev.run n = 3
     s.dev.blockHeld .HD = false ∧ up ∧ (s.dev.head n).ticking = false ∧ (s.dev.head n).timed = false ∧
     s.dev.joins n = none ∧
     ((s.dev.head n).ticking = true ∨ (s.dev.head n).timed = false ∨ (s.dev.head n).pllLocked = false)) ∧
    (let s : State := st (running 5 1 (fun h => { h with timed := true, pllLocked := true })); let n : Fin 8 := 5
     let up := s.dev.run n = 1 ∨ s.dev.run n = 3
     s.dev.blockHeld .HD = false ∧ up ∧ (s.dev.head n).ticking = false ∧
     ((s.dev.head n).timed = true ∨ s.dev.joins n ≠ none) ∧ (s.dev.head n).timed = true ∧
     (s.dev.head n).pllLocked = true) ∧
    (let s : State := st (running 5 2 live); let n : Fin 8 := 5; let up := s.dev.run n = 1 ∨ s.dev.run n = 3
     s.dev.blockHeld .HD = false ∧ (¬ up ∨ (s.dev.head n).ticking = true)) := by decide +kernel

theorem wit_HeadStartAndStop_HeadStopRequests :
    (let s : State := st (running 5 1 id); let n : Fin 8 := 5; let runs := s.dev.run n = 1 ∨ s.dev.run n = 2
     s.dev.blockHeld .HD = false ∧ runs) ∧
    (let s : State := st (running 5 0 (fun h => { h with starting := true })); let n : Fin 8 := 5
     let runs := s.dev.run n = 1 ∨ s.dev.run n = 2
     s.dev.blockHeld .HD = false ∧ (¬ runs) ∧ (s.dev.head n).starting = true) ∧
    (let s : State := st (running 5 0 (fun h => { h with heldForLeader := true })); let n : Fin 8 := 5
     let runs := s.dev.run n = 1 ∨ s.dev.run n = 2
     let held := (s.dev.head n).heldForLeader = true ∨ n.val ∈ s.dev.loader.held
     s.dev.blockHeld .HD = false ∧ (¬ runs) ∧ (s.dev.head n).starting = false ∧ held) ∧
    (let s : State := st (running 5 0 id); let n : Fin 8 := 5; let runs := s.dev.run n = 1 ∨ s.dev.run n = 2
     let held := (s.dev.head n).heldForLeader = true ∨ n.val ∈ s.dev.loader.held
     s.dev.blockHeld .HD = false ∧ (¬ runs) ∧ (s.dev.head n).starting = false ∧ (¬ held)) := by decide +kernel

theorem wit_CommitRequests :
    (let s : State := st (running 5 0 id); let n : Fin 8 := 5
     let up := fun (h : Fin 8) => s.dev.run h = 1 ∨ s.dev.run h = 2
     s.dev.blockHeld .HD = false ∧ (¬ up n) ∧ s.dev.flag (R.HD_STATUS_ARMED n) = false ∧ (s.dev.head n).arm = none) ∧
    (let s : State := st ((running 5 2 (fun h => { h with arm := some ⟨false, false, false, false⟩ })).setFld (R.HD_STATUS_ARMED 5) 1)
     let n : Fin 8 := 5; let a : ArmSt := ⟨false, false, false, false⟩
     let up := fun (h : Fin 8) => s.dev.run h = 1 ∨ s.dev.run h = 2
     s.dev.blockHeld .HD = false ∧ up n ∧ s.dev.partner n = none ∧ (s.dev.head n).arm = some a ∧
     s.dev.flag (R.HD_STATUS_ARMED n) = true ∧ a.pair = false) ∧
    (let s : State := st (running 5 2 id); let n : Fin 8 := 5
     let up := fun (h : Fin 8) => s.dev.run h = 1 ∨ s.dev.run h = 2
     s.dev.blockHeld .HD = false ∧ up n ∧ s.dev.partner n = none ∧ (s.dev.head n).arm = none) ∧
    (let s : State := st ((paired (running 0 2 id)).setFlds [(R.HD_STATUS_RUN 1, 2), (R.HD_COMMIT_PAIR 0, 1)])
     let n : Fin 8 := 0; let p : Fin 8 := 1; let up := fun (h : Fin 8) => s.dev.run h = 1 ∨ s.dev.run h = 2
     s.dev.blockHeld .HD = false ∧ up n ∧ up p ∧ s.dev.partner n = some p.val ∧ n < p ∧
     s.dev.flag (R.HD_COMMIT_PAIR n) = true ∧ (s.dev.head n).arm = none ∧ (s.dev.head p).arm = none) := by decide +kernel

theorem wit_HeadStartAndStop_LeaderWriteWithoutPartner :
    (let s : State := st based; let n : Fin 8 := 5
     s.dev.blockHeld .HD = false ∧ ((∀ h : Fin 8, (s.dev.head h).heldForLeader = false ∧
     (s.dev.head h).pllLocked = false)) ∧ s.dev.partner n = none) ∧
    (let s : State := st (paired based); let n : Fin 8 := 0; let p : Fin 8 := 1
     s.dev.blockHeld .HD = false ∧ ((∀ h : Fin 8, (s.dev.head h).heldForLeader = false ∧
     (s.dev.head h).pllLocked = false)) ∧ s.dev.partner n = some p.val ∧ s.dev.partner p = some n.val ∧ n ≠ p ∧
     (s.dev.head n).ticking = false ∧ (s.dev.head p).ticking = false) := by decide +kernel

theorem wit_LinesAndRows_LineStartAdvancesPosition :
    (let s : State := st based; let n : Fin 8 := 5; s.dev.blockHeld .HD = false ∧ (s.dev.head n).ticking = false) ∧
    (let s : State := st (running 5 2 live); let n : Fin 8 := 5
     s.dev.blockHeld .HD = false ∧ (s.dev.head n).ticking = true ∧ (s.dev.head n).sync = .own ∧
     (s.dev.head n).harvestDue = false ∧ (s.dev.head n).eveDue = false ∧ s.dev.members n = [n.val]) := by decide +kernel

theorem wit_LinesAndRows_EveLineSealsCommit :
    (let s : State := st based; let n : Fin 8 := 5; s.dev.blockHeld .HD = false ∧ (s.dev.head n).ticking = false) ∧
    (let s : State := st (running 5 2 (fun h => { h with ticking := true, arm := some ⟨true, false, false, false⟩ }))
     let n : Fin 8 := 5; let a : ArmSt := ⟨true, false, false, false⟩
     s.dev.blockHeld .HD = false ∧ (s.dev.head n).ticking = true ∧ (s.dev.head n).sync = .own ∧
     s.dev.members n = [n.val] ∧ (s.dev.head n).arm = some a ∧ a.late = false ∧ a.admitted = true) ∧
    (let s : State := st (running 5 2 (fun h => { h with ticking := true, arm := some ⟨false, false, false, false⟩ }))
     let n : Fin 8 := 5; let a : ArmSt := ⟨false, false, false, false⟩
     s.dev.blockHeld .HD = false ∧ (s.dev.head n).ticking = true ∧ (s.dev.head n).sync = .own ∧
     s.dev.members n = [n.val] ∧ (s.dev.head n).arm = some a ∧ a.late = false ∧ a.admitted = false) ∧
    (let s : State := st (running 5 2 (fun h => { h with ticking := true, arm := some ⟨true, true, false, false⟩ }))
     let n : Fin 8 := 5; let a : ArmSt := ⟨true, true, false, false⟩
     s.dev.blockHeld .HD = false ∧ (s.dev.head n).ticking = true ∧ (s.dev.head n).sync = .own ∧
     s.dev.members n = [n.val] ∧ ((s.dev.head n).arm = none ∨ ((s.dev.head n).arm = some a ∧ a.late = true))) :=
  by decide +kernel

theorem wit_HarvestPoint_HarvestPointCompletesStop :
    let s : State := st (running 5 3 due); let n : Fin 8 := 5
    s.dev.blockHeld .HD = false ∧ (s.dev.head n).ticking = true ∧ (s.dev.head n).sync = .own ∧ s.dev.run n = 3 ∧
    s.dev.members n = [n.val] ∧ (s.dev.head n).harvestDue = true ∧ s.dev.partner n = none ∧
    ((∀ h < 8, h ≠ n.val → s.dev.cloneSource h = none ∧ (s.dev.head h).follows = none ∧
    (s.dev.head h).heldForLeader = false)) := by decide +kernel

theorem wit_HarvestPoint_HarvestPointStartsFrame :
    (let s : State := st based; let n : Fin 8 := 5; s.dev.blockHeld .HD = false ∧ (s.dev.head n).ticking = false) ∧
    (let s : State := st (running 5 1 due); let n : Fin 8 := 5
     s.dev.blockHeld .HD = false ∧ (s.dev.head n).ticking = true ∧ (s.dev.head n).sync = .own ∧
     (s.dev.run n = 1 ∨ s.dev.run n = 2) ∧ s.dev.members n = [n.val] ∧ (s.dev.head n).harvestDue = true ∧
     s.dev.partner n = none ∧ ((∀ h < 8, h ≠ n.val → s.dev.cloneSource h = none ∧ (s.dev.head h).follows = none ∧
     (s.dev.head h).heldForLeader = false)) ∧ (s.dev.head n).image = none) := by decide +kernel

theorem wit_HarvestPoint_HarvestPointDeliversImage :
    let s : State := st (running 5 2 (fun h => { due h with image := some (newImage 5) })); let n : Fin 8 := 5
    let img : List (Nat × Word) := newImage 5; let w : Word := 0x1234567
    s.dev.blockHeld .HD = false ∧ (s.dev.head n).ticking = true ∧ (s.dev.head n).sync = .own ∧ s.dev.run n = 2 ∧
    s.dev.members n = [n.val] ∧ (s.dev.head n).harvestDue = true ∧ s.dev.partner n = none ∧
    ((∀ h < 8, h ≠ n.val → s.dev.cloneSource h = none ∧ (s.dev.head h).follows = none ∧
    (s.dev.head h).heldForLeader = false)) ∧ (s.dev.head n).image = some img ∧
    ((∀ p ∈ img, p.1 ∈ (s.dev.bankOf n).map (·.1))) ∧ (img.map (·.1)).Nodup ∧ (R.HD_BG_COLOR n 0, w) ∈ img :=
  by decide +kernel

theorem wit_LinesAndRows_RowsAreRequestedALineAhead_1 :
    let s : State := st based; let l : Fin 64 := 9
    (s.dev.blockHeld .LE = false) ∧
    (s.dev.fp.leRec l = none ∨ s.dev.flattened l = true ∨ (∀ r, s.dev.fp.leRec l = some r → (s.dev.fp.tree r.head).contains l.val = false)) :=
  ⟨by decide +kernel, .inl (by decide +kernel)⟩

theorem wit_LinesAndRows_RowsAreRequestedALineAhead :
    let s : State := st ((running 0 2 live).setFld (R.HD_POS_LINE 0) 3); let l : Fin 64 := 0; let r := ⟨0, 0, 64⟩
    let k := 0
    s.dev.blockHeld .LE = false ∧ s.dev.fp.leRec l = some r ∧ (s.dev.head r.head).ticking = true ∧
    (s.dev.head r.head).sync ≠ .aligning ∧ (s.dev.fp.tree r.head).contains l.val = true ∧ s.dev.flattened l = false ∧
    (s.dev.head r.head).background = false ∧ (s.dev.leCfg l 0).enable = true ∧
    (s.dev.leCfg l 0).lineOf (s.dev.lineNow r.head + 1) = some k ∧
    s.dev.lineNow r.head + 1 < (s.dev.raster r.head).vact ∧
    s.dev.lineNow r.head + 1 < (s.dev.raster r.head).vtotal + (s.dev.head (s.dev.clock r.head)).extra := by decide +kernel

theorem wit_LinesAndRows_UnderrunIsCaptured :
    (let s : State := st (running 5 2 live); let n : Fin 8 := 5; let px : Nat := 63; let y := s.dev.lineNow n
     let ready := (s.dev.head n).ticking = true ∧ (s.dev.head (s.dev.clock n)).harvestDue = false ∧
         s.dev.refilling n = false ∧ (s.dev.head n).cut = none ∧ s.dev.backgroundLine n = false ∧
         px < (s.dev.raster n).hact ∧ px < (s.dev.raster n).htotal ∧ y < (s.dev.raster n).vact ∧ (s.dev.head n).row.length ≤ px
     s.dev.blockHeld .HD = false ∧ ready) ∧
    (let s : State := st (running 5 2 live); let n : Fin 8 := 5; let px : Nat := 64; let y := s.dev.lineNow n
     let ready := (s.dev.head n).ticking = true ∧ (s.dev.head (s.dev.clock n)).harvestDue = false ∧
         s.dev.refilling n = false ∧ (s.dev.head n).cut = none ∧ s.dev.backgroundLine n = false ∧
         px < (s.dev.raster n).hact ∧ px < (s.dev.raster n).htotal ∧ y < (s.dev.raster n).vact ∧ (s.dev.head n).row.length ≤ px
     s.dev.blockHeld .HD = false ∧ (¬ ready)) := by decide +kernel

theorem wit_EvaluationAndRelearning_EvaluationGivesVerdict :
    (let s : State := st based; s.dev.blockHeld .GV = false ∧ s.dev.gv.busy = none) ∧
    (let s : State := judging 0 false 1 (fun h => { h with arm := some ⟨false, false, false, false⟩ })
     let n : Fin 8 := 5; let q : GvRequest := ⟨[5], 0, [], false⟩; let v : Verdict := verdict 5 1
     let a : ArmSt := ⟨false, false, false, false⟩; let x : Demand := someDemand
     let one := s.dev.gv.busy = some (q, v) ∧ s.dev.gv.waiting = [] ∧ q.heads = [n.val]
     let yes := v.result ≠ 2 ∧ v.demands = [(n.val, x)]
     s.dev.blockHeld .GV = false ∧ one ∧ yes ∧ q.trigger ≠ 1 ∧ (s.dev.head n).arm = some a ∧ a.eve = false) ∧
    (let s : State := judging 0 false 2 (fun h => { h with arm := some ⟨false, false, false, false⟩ })
     let n : Fin 8 := 5; let q : GvRequest := ⟨[5], 0, [], false⟩; let v : Verdict := verdict 5 2
     let a : ArmSt := ⟨false, false, false, false⟩
     let one := s.dev.gv.busy = some (q, v) ∧ s.dev.gv.waiting = [] ∧ q.heads = [n.val]
     s.dev.blockHeld .GV = false ∧ one ∧ v.result = 2 ∧ q.trigger ≠ 1 ∧ (s.dev.head n).arm = some a) ∧
    (let s : State := judging 1 false 1 (fun h => { h with starting := true }); let n : Fin 8 := 5
     let q : GvRequest := ⟨[5], 1, [], false⟩; let v : Verdict := verdict 5 1; let x : Demand := someDemand
     let one := s.dev.gv.busy = some (q, v) ∧ s.dev.gv.waiting = [] ∧ q.heads = [n.val]
     let yes := v.result ≠ 2 ∧ v.demands = [(n.val, x)]
     let start := q.trigger = 1 ∧ q.withdrawn = false ∧ (s.dev.head n).starting = true
     s.dev.blockHeld .GV = false ∧ one ∧ yes ∧ start) ∧
    (let s : State := judging 1 false 2 (fun h => { h with starting := true }); let n : Fin 8 := 5
     let q : GvRequest := ⟨[5], 1, [], false⟩; let v : Verdict := verdict 5 2
     let one := s.dev.gv.busy = some (q, v) ∧ s.dev.gv.waiting = [] ∧ q.heads = [n.val]
     let start := q.trigger = 1 ∧ q.withdrawn = false ∧ (s.dev.head n).starting = true
     s.dev.blockHeld .GV = false ∧ one ∧ v.result = 2 ∧ start) ∧
    (let s : State := judging 1 true 2 id; let n : Fin 8 := 5; let q : GvRequest := ⟨[5], 1, [], true⟩
     let v : Verdict := verdict 5 2
     let one := s.dev.gv.busy = some (q, v) ∧ s.dev.gv.waiting = [] ∧ q.heads = [n.val]
     s.dev.blockHeld .GV = false ∧ one ∧ q.trigger = 1 ∧ q.withdrawn = true) := by decide +kernel

theorem wit_EvaluationAndRelearning_RelearnRestartsModel :
    let s : State := st based; s.dev.blockHeld .GV = false := by decide +kernel

theorem wit_FlatteningAndVerify_FlatteningEnds :
    (let s : State := flattening .idle 0; let k : Fin 8 := 7; let surf := s.dev.surf k
     s.dev.blockHeld .GV = false ∧ ((∀ j < 8, (s.dev.surf j).phase = .idle)) ∧ surf.phase ≠ .capture ∧
     surf.phase ≠ .verify) ∧
    (let s : State := flattening .capture 0; let k : Fin 8 := 7; let surf := s.dev.surf k
     let alone := ∀ j < 8, j ≠ k.val → (s.dev.surf j).phase = .idle
     s.dev.blockHeld .GV = false ∧ alone ∧ (surf.phase = .capture ∨ surf.phase = .verify ∨ surf.phase = .passed) ∧
     surf.phase = .capture) ∧
    (let s : State := flattening .chosen 0; let k : Fin 8 := 7; let surf := s.dev.surf k
     let alone := ∀ j < 8, j ≠ k.val → (s.dev.surf j).phase = .idle
     s.dev.blockHeld .GV = false ∧ alone ∧ surf.phase = .chosen) ∧
    (let s : State := flattening .verify 0; let k : Fin 8 := 7; let surf := s.dev.surf k
     s.dev.blockHeld .GV = false ∧ surf.phase = .verify) ∧
    (let s : State := flattening .fed 0; let k : Fin 8 := 7; let surf := s.dev.surf k
     let alone := ∀ j < 8, j ≠ k.val → (s.dev.surf j).phase = .idle
     s.dev.blockHeld .GV = false ∧ alone ∧ surf.phase = .fed) := by decide +kernel

theorem wit_FlatteningAndVerify_VerifyPassesOrEnds :
    (let s : State := flattening .idle 0; let k : Fin 8 := 7; let surf := s.dev.surf k
     s.dev.blockHeld .GV = false ∧ surf.phase ≠ .verify) ∧
    (let s : State := flattening .verify 0; let k : Fin 8 := 7; let surf := s.dev.surf k
     s.dev.blockHeld .GV = false ∧ surf.phase = .verify ∧ surf.h ≤ surf.checked) ∧
    (let s : State := flattening .verify 3; let k : Fin 8 := 7; let surf := s.dev.surf k
     s.dev.blockHeld .GV = false ∧ surf.phase = .verify ∧ surf.checked < surf.h) := by decide +kernel

/-! ### Witnesses: display links and copy engines -/

/-- Link 7 as l says, trained on a present sink, HPD and re-authentication enabled. -/
def linked (l : DpSt) (more : List (Fld × Nat)) : State :=
  st ((based.setFlds ([(R.DP_LINK_CTRL_ENABLE 7, 1), (R.DP_LINK_STATUS_HPD_LEVEL 7, 1), (R.DP_LINK_STATUS_TRAINED 7, 1),
    (R.DP_HDCP_CTRL_AUTO_REAUTH 7, 1), (R.DP_HDCP_CTRL_ENC_EN 7, 1), (R.DP_HPD_CTRL_EN 7, 1),
      (R.DP_AUX_CTRL_LEN 7, 15)] ++
    more)).updLink 7 fun _ => l)

/-- The HDCP keys and the SRM key are programmed. -/
def keyed (s : State) : State :=
  { s with dev := { s.dev with shadow := { s.dev.shadow with
      pages := (List.range 7).map (fun p => (0x100 + p, [1, 2, 3])) ++ [(25, [4])] } } }

/-- A load of the SRM of which all but the signature, a free value, is decided: the key is programmed, and no VERSION is in
force (R347). -/
theorem wit_ContentProtectionAndHdcp_srm : let s := keyed (linked DpSt.reset [])
    bit s.dev.shadow.programmed 24 = true ∧ s.dev.fld R.DP0_SRM_CTRL_VERSION = 0 := by decide +kernel

/-- A FILL (op 1) or COPY (op 0) of two rows of 64 bytes. -/
def command (op : Nat) : List Nat := [op + 0x20, 0x201, 0x40, 0x2000, 64, 64, 16 + 65536 * 2]

/-- Copy engine 1 with one command in slot 3. -/
def queued (op : Nat) : State :=
  st ((command op).zipIdx.foldl (fun d p => d.set (R.BX_S_CMD 1 3 + 4 * p.2) (BitVec.ofNat 32 p.1))
    (based.setFlds [(R.BX_QUEUE_HEAD 1, 3), (R.BX_QUEUE_TAIL 1, 4), (R.BX_QUEUE_COUNT 1, 1)]))

def copying (op : Nat) : State := run1 (.bxCmdStart 1) (queued op)

def activeOf (s : State) : BxCmd := (s.dev.bxe 1).active.getD ⟨0, [], 0, 0, 0, .reading, [], [], none⟩

/-- The same command with rows rows done, writing, its bursts issued. -/
def written (rows : Nat) : State :=
  let s := copying 1
  { s with dev := { s.dev with fs := FsSt.reset }.updBxCmd 1 fun c => { c with rows := rows, phase := .writing, todo := [] } }

/-- The same with every burst of the row read. -/
def fetched : State :=
  let s := copying 0
  { s with dev := { s.dev with fs := FsSt.reset }.updBxCmd 1 fun c => { c with todo := [] } }

def issuing : State := { copying 0 with dev := (copying 0).dev.updBxCmd 1 fun c => { c with todo := [(0x80, none)] } }

theorem wit_LinkEnableAndTraining_LinkEnable :
    (let s : State := linked DpSt.reset []; let n : Fin 8 := 7
     let refused := (s.dev.fp.cap n).linkMax < s.dev.fld (R.DP_LINK_CTRL_RATE n)
     s.dev.blockHeld .DP = false ∧ (¬ refused)) ∧
    (let s : State := st { based.setFld (R.DP_LINK_CTRL_RATE 7) 3 with fp := { floorplan with heads := [⟨7, 1, 0x40, 0xFF, 0xFF, 0, 2, 4096, 2160⟩] } }
     let n : Fin 8 := 7; let refused := (s.dev.fp.cap n).linkMax < s.dev.fld (R.DP_LINK_CTRL_RATE n)
     s.dev.blockHeld .DP = false ∧ refused) := by decide +kernel

theorem wit_LinkEnableAndTraining_TrainWrites :
    let s : State := linked DpSt.reset []; let n : Fin 8 := 7; let p : Fin 8 := 7
    let auto := (s.dev.link n).auto = true; let enabled := s.dev.fld (R.DP_LINK_CTRL_ENABLE n) = 1
    let ready := ¬ auto ∧ enabled ∧ s.dev.hpdLevel n = true
    s.dev.blockHeld .DP = false ∧ ready ∧ p ≠ 0 := by decide +kernel

theorem wit_LinkEnableAndTraining_AutoTrainingEnds :
    (let s : State := linked DpSt.reset []; let n : Fin 8 := 7
     s.dev.blockHeld .DP = false ∧ (s.dev.link n).auto = false) ∧
    (let s : State := linked { DpSt.reset with auto := true } []; let n : Fin 8 := 7
     s.dev.blockHeld .DP = false ∧ (s.dev.link n).auto = true) := by decide +kernel

theorem wit_AuxTransactions :
    (let s : State := linked DpSt.reset [(R.DP_AUX_STATUS_BUSY 7, 1)]; let n : Fin 8 := 7
     let busy := s.dev.fld (R.DP_AUX_STATUS_BUSY n) = 1
     s.dev.blockHeld .DP = false ∧ busy ∧ s.dev.auxSent n = none) ∧
    (let s : State := linked { DpSt.reset with aux := some ⟨8, 1, 2, [1, 2, 3, 4], true⟩ } []; let n : Fin 8 := 7
     let cmd : Nat := 8; let busy := s.dev.fld (R.DP_AUX_STATUS_BUSY n) = 1
     let now := s.dev.fld (R.DP_AUX_CTRL_CMD n); let a := s.dev.fld (R.DP_AUX_ADDR_ADDR n)
     let len := s.dev.fld (R.DP_AUX_CTRL_LEN n) + 1; let hdcp := now = 8 ∧ 0x68000 < a + len ∧ a < 0x6A000
     s.dev.blockHeld .DP = false ∧ (¬ busy) ∧ s.dev.hpdLevel n = true ∧ (¬ hdcp) ∧ s.dev.auxSent n = some cmd ∧
     cmd % 4 ≠ 1) ∧
    (let s : State := linked DpSt.reset [(R.DP_LINK_STATUS_HPD_LEVEL 7, 0)]; let n : Fin 8 := 7
     let busy := s.dev.fld (R.DP_AUX_STATUS_BUSY n) = 1
     s.dev.blockHeld .DP = false ∧ (¬ busy) ∧ s.dev.hpdLevel n = false) ∧
    (let s : State := linked DpSt.reset [(R.DP_AUX_CTRL_CMD 7, 8), (R.DP_AUX_ADDR_ADDR 7, 0x67FF1)]
     let n : Fin 8 := 7; let busy := s.dev.fld (R.DP_AUX_STATUS_BUSY n) = 1
     let now := s.dev.fld (R.DP_AUX_CTRL_CMD n); let a := s.dev.fld (R.DP_AUX_ADDR_ADDR n)
     let len := s.dev.fld (R.DP_AUX_CTRL_LEN n) + 1; let hdcp := now = 8 ∧ 0x68000 < a + len ∧ a < 0x6A000
     s.dev.blockHeld .DP = false ∧ (¬ busy) ∧ s.dev.hpdLevel n = true ∧ hdcp) ∧
    (let s : State := linked { DpSt.reset with aux := some ⟨9, 1, 2, [1, 2, 3, 4], true⟩ } []; let n : Fin 8 := 7
     let cmd : Nat := 9
     s.dev.blockHeld .DP = false ∧ s.dev.auxSent n = some cmd ∧ cmd % 4 = 1) := by decide +kernel

theorem wit_HotPlugDetect :
    (let s : State := linked DpSt.reset [(R.DP_HPD_CTRL_EN 7, 0)]; let n : Fin 8 := 7
     let off := s.dev.fld (R.DP_HPD_CTRL_EN n) = 0
     let pin := s.dev.fld (R.EV_STATUS_PIN (s.dev.fld (R.DP_HPD_CTRL_SRC n)))
     s.dev.blockHeld .DP = false ∧ off ∧ pin = 0 ∧ (off ∨ (s.dev.link n).hpdLow = false) ∧
     (off ∨ (s.dev.link n).hpdRose = false)) ∧
    (let s : State := linked DpSt.reset [(R.DP_HPD_CTRL_EN 7, 0), (R.EV_STATUS_PIN 0, 1)]; let n : Fin 8 := 7
     let off := s.dev.fld (R.DP_HPD_CTRL_EN n) = 0
     let pin := s.dev.fld (R.EV_STATUS_PIN (s.dev.fld (R.DP_HPD_CTRL_SRC n)))
     s.dev.blockHeld .DP = false ∧ off ∧ pin = 1) ∧
    (let s : State := linked { DpSt.reset with hpdLow := true } []; let n : Fin 8 := 7
     let off := s.dev.fld (R.DP_HPD_CTRL_EN n) = 0
     s.dev.blockHeld .DP = false ∧ (¬ off) ∧ (s.dev.link n).hpdLow = true) ∧
    (let s : State := linked { DpSt.reset with hpdRose := true } []; let n : Fin 8 := 7
     let off := s.dev.fld (R.DP_HPD_CTRL_EN n) = 0
     s.dev.blockHeld .DP = false ∧ (¬ off) ∧ (s.dev.link n).hpdRose = true) := by decide +kernel

theorem wit_HotPlugDetect_HotPlugEdges :
    (let s : State := linked DpSt.reset [(R.DP_HPD_CTRL_EN 7, 0)]; let n : Fin 8 := 7
     let on := s.dev.fld (R.DP_HPD_CTRL_EN n) = 1
     s.dev.blockHeld .DP = false ∧ (¬ on)) ∧
    (let s : State := linked DpSt.reset []; let n : Fin 8 := 7; let on := s.dev.fld (R.DP_HPD_CTRL_EN n) = 1
     let fell := (s.dev.link n).hpdLow = true
     s.dev.blockHeld .DP = false ∧ on ∧ (¬ fell)) ∧
    (let s : State := linked { DpSt.reset with hpdLow := true } []; let n : Fin 8 := 7; let us : Nat := 249
     let on := s.dev.fld (R.DP_HPD_CTRL_EN n) = 1; let fell := (s.dev.link n).hpdLow = true
     let low := s.dev.lowUs n us
     s.dev.blockHeld .DP = false ∧ on ∧ fell ∧ low < 250) ∧
    (let s : State := linked { DpSt.reset with hpdLow := true } []; let n : Fin 8 := 7; let us : Nat := 250
     let on := s.dev.fld (R.DP_HPD_CTRL_EN n) = 1; let fell := (s.dev.link n).hpdLow = true
     let low := s.dev.lowUs n us
     s.dev.blockHeld .DP = false ∧ on ∧ fell ∧ 250 ≤ low ∧ low < 2000) ∧
    (let s : State := linked { DpSt.reset with hpdLow := true } []; let n : Fin 8 := 7; let us : Nat := 2000
     let on := s.dev.fld (R.DP_HPD_CTRL_EN n) = 1; let fell := (s.dev.link n).hpdLow = true
     let low := s.dev.lowUs n us
     s.dev.blockHeld .DP = false ∧ on ∧ fell ∧ 2000 ≤ low) := by decide +kernel

theorem wit_ContentProtectionAndHdcp_HdcpStarts :
    (let s : State := linked DpSt.reset []; let n : Fin 8 := 7
     let up := s.dev.trained n = true ∧ s.dev.hpdLevel n = true
     let keys := bit s.dev.shadow.programmed 24 = true ∧ bit s.dev.shadow.programmed 25 = true
     s.dev.blockHeld .DP = false ∧ up ∧ (¬ keys) ∧
     (s.dev.fld (R.DP_HDCP_CTRL_AUTO_REAUTH n) = 0 ∨ (s.dev.link n).reauth = false)) ∧
    (let s : State := keyed (linked DpSt.reset []); let n : Fin 8 := 7
     let up := s.dev.trained n = true ∧ s.dev.hpdLevel n = true
     let keys := bit s.dev.shadow.programmed 24 = true ∧ bit s.dev.shadow.programmed 25 = true
     s.dev.blockHeld .DP = false ∧ up ∧ keys) ∧
    (let s : State := linked DpSt.reset [(R.DP_LINK_STATUS_HPD_LEVEL 7, 0)]; let n : Fin 8 := 7
     let up := s.dev.trained n = true ∧ s.dev.hpdLevel n = true
     s.dev.blockHeld .DP = false ∧ (¬ up)) ∧
    (let s : State := linked { DpSt.reset with reauth := true } []; let n : Fin 8 := 7
     s.dev.blockHeld .DP = false ∧ s.dev.fld (R.DP_HDCP_CTRL_AUTO_REAUTH n) = 1 ∧ (s.dev.link n).reauth = true) :=
  by decide +kernel

theorem wit_ContentProtectionAndHdcp_HdcpAuthentication :
    (let s : State := linked DpSt.reset []; let n : Fin 8 := 7; let runs := (s.dev.link n).auth = .running
     s.dev.blockHeld .DP = false ∧ (¬ runs)) ∧
    (let n : Fin 8 := 7; let rxid : BitVec 40 := 9; let ids : List (BitVec 40) := [1, 2]
     let s : State := linked { DpSt.reset with auth := .running, revoked := [9] } []
     let runs := (s.dev.link n).auth = .running
     let revoked := (rxid :: ids).any (fun i => (s.dev.link n).revoked.contains i.toNat) = true
     s.dev.blockHeld .DP = false ∧ runs ∧ revoked) ∧
    (let n : Fin 8 := 7; let rxid : BitVec 40 := 5; let many : Bool := true; let ids : List (BitVec 40) := [1, 2]
     let s : State := linked { DpSt.reset with auth := .running, revoked := [9] } []
     let runs := (s.dev.link n).auth = .running
     let revoked := (rxid :: ids).any (fun i => (s.dev.link n).revoked.contains i.toNat) = true
     s.dev.blockHeld .DP = false ∧ runs ∧ (¬ revoked) ∧ many = true) ∧
    (let n : Fin 8 := 7; let rxid : BitVec 40 := 5; let many : Bool := false; let ids : List (BitVec 40) := [1, 2]
     let s : State := linked { DpSt.reset with auth := .running, revoked := [9] } []
     let runs := (s.dev.link n).auth = .running
     let revoked := (rxid :: ids).any (fun i => (s.dev.link n).revoked.contains i.toNat) = true
     s.dev.blockHeld .DP = false ∧ runs ∧ (¬ revoked) ∧ many = false) := by decide +kernel

theorem wit_ContentProtectionAndHdcp_ContentProtection :
    (let s : State := linked DpSt.reset []; let n : Fin 8 := 7; let msg := s.dev.srmBytes
     let key := (List.range 7).flatMap (fun p => s.dev.shadow.page (0x100 + p))
     let ok := bit s.dev.shadow.programmed 24 = true ∧ Config.srmOk key msg = true ∧
         s.dev.fld R.DP0_SRM_CTRL_VERSION ≤ (Config.srmVersion msg).toNat
     let session := (s.dev.link n).auth = .session ∧ (s.dev.streamMark n ≠ 0 ∨ s.dev.fld (R.DP_HDCP_CTRL_ENC_EN n) = 1)
     s.dev.blockHeld .DP = false ∧ (s.dev.link n).requested = none ∧ (¬ session) ∧ (¬ ok)) ∧
    (let s : State := linked { DpSt.reset with auth := .session, requested := some 1 } []; let n : Fin 8 := 7
     let ty : Nat := 1
     let session := (s.dev.link n).auth = .session ∧ (s.dev.streamMark n ≠ 0 ∨ s.dev.fld (R.DP_HDCP_CTRL_ENC_EN n) = 1)
     s.dev.blockHeld .DP = false ∧ (s.dev.link n).requested = some ty ∧ session) := by decide +kernel

theorem wit_CopyQueue :
    (let s : State := st (based.setFld (R.BX_QUEUE_COUNT 1) 0); let n : Fin 2 := 1
     let active := (s.dev.bxe n).active; let count := s.dev.fld (R.BX_QUEUE_COUNT n)
     let free := s.dev.fld R.CH_LOAD_STATUS_CONFIGURED = 1 ∧ count < 16
     s.dev.blockHeld .BX = false ∧ free ∧ active = none) ∧
    (let s : State := st (based.setFld (R.BX_QUEUE_COUNT 1) 16); let n : Fin 2 := 1
     let count := s.dev.fld (R.BX_QUEUE_COUNT n); let free := s.dev.fld R.CH_LOAD_STATUS_CONFIGURED = 1 ∧ count < 16
     s.dev.blockHeld .BX = false ∧ (¬ free)) ∧
    (let s : State := copying 0; let n : Fin 2 := 1; let active := (s.dev.bxe n).active
     s.dev.blockHeld .BX = false ∧ active ≠ none) := by decide +kernel

theorem wit_CopyCommands_CopyCommandStarts :
    (let s : State := st based; let n : Fin 2 := 1
     let can := s.dev.fld (R.BX_QUEUE_COUNT n) ≠ 0 ∧ (s.dev.bxe n).active = none ∧ s.dev.fld (R.BX_CTRL_PAUSE n) = 0 ∧
         s.dev.fld (R.BX_STATUS_HALTED n) = 0 ∧ s.dev.isSafe (Block.BX.base + n) = false
     s.dev.blockHeld .BX = false ∧ (¬ can)) ∧
    (let s : State := queued 0; let n : Fin 2 := 1
     let can := s.dev.fld (R.BX_QUEUE_COUNT n) ≠ 0 ∧ (s.dev.bxe n).active = none ∧ s.dev.fld (R.BX_CTRL_PAUSE n) = 0 ∧
         s.dev.fld (R.BX_STATUS_HALTED n) = 0 ∧ s.dev.isSafe (Block.BX.base + n) = false
     let slot := s.dev.fld (R.BX_QUEUE_HEAD n)
     let c : BxCmd := ⟨(s.dev.bxe n).nextId, (List.range 32).map (fun k => (s.dev.get (R.BX_S_CMD n slot + 4 * k)).toNat),
         slot, (s.dev.fld (R.BX_TICKET_RETIRED n) + 1) % 2 ^ 16, 0, .reading, [], [], none⟩
     s.dev.blockHeld .BX = false ∧ can ∧ s.dev.bxCheck c = 0) ∧
    (let s : State := queued 7; let n : Fin 2 := 1
     let can := s.dev.fld (R.BX_QUEUE_COUNT n) ≠ 0 ∧ (s.dev.bxe n).active = none ∧ s.dev.fld (R.BX_CTRL_PAUSE n) = 0 ∧
         s.dev.fld (R.BX_STATUS_HALTED n) = 0 ∧ s.dev.isSafe (Block.BX.base + n) = false
     let slot := s.dev.fld (R.BX_QUEUE_HEAD n)
     let c : BxCmd := ⟨(s.dev.bxe n).nextId, (List.range 32).map (fun k => (s.dev.get (R.BX_S_CMD n slot + 4 * k)).toNat),
         slot, (s.dev.fld (R.BX_TICKET_RETIRED n) + 1) % 2 ^ 16, 0, .reading, [], [], none⟩
     s.dev.blockHeld .BX = false ∧ can ∧ s.dev.bxCheck c ≠ 0) := by decide +kernel

theorem wit_CopyBursts :
    (let s : State := copying 0; let n : Fin 2 := 1; let c : BxCmd := activeOf (copying 0)
     let is := (s.dev.bxe n).active = some c
     let all := c.phase = .reading ∧ c.todo = [] ∧ s.dev.bxFlight n (some c.id) = false
     let last := c.phase = .writing ∧ c.todo = []
     s.dev.blockHeld .BX = false ∧ is ∧ c.todo = [] ∧ (¬ last ∨ c.rowList[c.rows + 1]? = none) ∧
     (¬ all ∨ c.rowList[c.rows]? = none)) ∧
    (let s : State := st based; let n : Fin 2 := 1; s.dev.blockHeld .BX = false ∧ (s.dev.bxe n).active = none) ∧
    (let s : State := copying 1; let n : Fin 2 := 1; let c : BxCmd := activeOf (copying 1)
     let v : Nat := ((activeOf (copying 1)).rowList[1]?).getD 0; let is := (s.dev.bxe n).active = some c
     let last := c.phase = .writing ∧ c.todo = []
     s.dev.blockHeld .BX = false ∧ is ∧ last ∧ c.rowList[c.rows + 1]? = some v) ∧
    (let s : State := fetched; let n : Fin 2 := 1; let c : BxCmd := activeOf (fetched)
     let v : Nat := ((activeOf (fetched)).rowList[0]?).getD 0; let is := (s.dev.bxe n).active = some c
     let all := c.phase = .reading ∧ c.todo = [] ∧ s.dev.bxFlight n (some c.id) = false
     s.dev.blockHeld .BX = false ∧ is ∧ all ∧ c.rowList[c.rows]? = some v) ∧
    (let s : State := issuing; let n : Fin 2 := 1; let c : BxCmd := activeOf (issuing)
     let is := (s.dev.bxe n).active = some c
     s.dev.blockHeld .BX = false ∧ is ∧ c.todo ≠ []) := by decide +kernel

theorem wit_CopyCommands_CopyCommandEnds :
    (let s : State := st based; let n : Fin 2 := 1; s.dev.blockHeld .BX = false ∧ (s.dev.bxe n).active = none) ∧
    (let s : State := copying 0; let n : Fin 2 := 1; let c : BxCmd := activeOf (copying 0)
     let is := (s.dev.bxe n).active = some c
     let over' := c.todo = [] ∧ c.phase = .writing ∧ c.rowList.length ≤ c.rows + 1 ∧ s.dev.bxFlight n (some c.id) = false
     s.dev.blockHeld .BX = false ∧ is ∧ (¬ over')) ∧
    (let s : State := written 1; let n : Fin 2 := 1; let c : BxCmd := activeOf (written 1)
     let is := (s.dev.bxe n).active = some c
     let over' := c.todo = [] ∧ c.phase = .writing ∧ c.rowList.length ≤ c.rows + 1 ∧ s.dev.bxFlight n (some c.id) = false
     s.dev.blockHeld .BX = false ∧ is ∧ over') := by decide +kernel

/-! ### Witnesses: cartridge ports, the streamer and KY -/

/-- Port 2 in this state, at this step of its bring-up (R374). -/
def port (state step : Nat) (reads : List CpCommand) (refreshing : Bool) : State :=
  let d := based.setFlds [(R.CP_STATE_STATE 2, state), (R.CP_CTRL_EN 2, 1), (R.CP_INFO_LBA_SHIFT 2, 12),
    (R.CP_NSZE_NSZE 2 0, 5000), (R.CP_STATE_QDEPTH 2, 8)]
  st { d with cp := upd d.cp 2 fun c => { c with step := step, reads := reads, refreshing := refreshing } }

def someRead : CpCommand := ⟨1, 2, 9, 0, 8, .chunk 0 5⟩

/-- Job 3 in this state, reading from port 2, and lane 1 as f says. -/
def job (state : Nat) (queue : List Nat) (f : LaneSt → LaneSt) (s : State) : State :=
  let d := s.dev.setFlds [(R.AS_JOB_RESULT_STATE 3, state), (R.AS_JOB_CTRL_PORT 3, 2), (R.AS_JOB_LBA_LO_LBA 3, 100)]
  st { d with streamer := { d.streamer with queue := queue, lanes := upd d.streamer.lanes 1 f } }

def chunkKey : List Byte := (List.range 32).map (BitVec.ofNat 8)

/-- The ciphertext and the tag of eight bytes, and those bytes (R384). -/
def cipher : List Byte := [0x8a, 0x18, 0x20, 0xa5, 0x91, 0x34, 0xdf, 0x5a]

def cipherTag : List Byte :=
  [0x0d, 0xaa, 0x2c, 0x38, 0x2e, 0x65, 0xe3, 0x48, 0xde, 0x62, 0x84, 0x24, 0xf1, 0x17, 0x89, 0x39]

def plainBytes : List Byte := [0, 7, 14, 21, 28, 35, 42, 49]

/-- A manifest with one entry of one chunk, stored or compressed (its plaintext is no Zstandard frame). -/
def manifest (packed : Bool) (outLen : Nat) : Manifest :=
  ⟨3, 4096, List.replicate 8 9, [1, 2, 3, 4, 5, 6, 7, 8], chunkKey, [⟨1, packed, 12, 0, 1, 0x100, 8⟩],
    [⟨0, 8, outLen, cipherTag, []⟩]⟩

/-- Lane 1 runs job 3, its ciphertext read. -/
def lane (m : Option Manifest) (next : Nat) (decoding : Option Nat) (bytes : List Byte) : LaneSt → LaneSt := fun l =>
  { l with
    job := some 3, manifest := m, nextReap := next, nextRead := 1, decoding := decoding
    data := [(0, 0, bytes)] }

def streaming (state : Nat) (f : LaneSt → LaneSt) : State := job state [] f (st based)

def entry (packed : Bool) : Entry := ⟨1, packed, 12, 0, 1, 0x100, 8⟩

/-- The public key of RFC 6979, A.2.5. -/
def publicKey : List Byte :=
  toBe 32 0x60fed4ba255a9d31c961eb74c6356d68c049b8923b61fa6ce669622e60f29fb6 ++
    toBe 32 0x7903fe1008b8bc99a41ae9e95628bc64f2f1b20c2d7e9f5177a3c294d4462299

/-- A manifest of one stored entry of one chunk: its 128-byte header with the wrapped key of `chunkKey` (R379), the entry
(R380), the chunk (R381), the signature (R382). -/
def bundle : List Byte :=
  toLe 4 0x42514541 ++ [1, 0] ++ toLe 2 128 ++ toLe 4 256 ++ [4, 0] ++ toLe 2 1 ++ toLe 4 1 ++ toLe 4 4096 ++
    List.replicate 8 9 ++
    toBe 40 0xd3319f82bf54792ccbcb41d87e259f11b9d662c1013b4c04091f5c2f54c10dd0d96f0688747c9c8d ++
    [1, 2, 3, 4, 5, 6, 7, 8] ++ List.replicate 48 0 ++
    [1, 0, 0, 0] ++ toLe 4 0 ++ toLe 4 1 ++ toLe 4 0x100 ++ toLe 4 8 ++ List.replicate 12 0 ++
    toLe 4 0 ++ toLe 4 8 ++ toLe 4 8 ++ toLe 4 0 ++ List.replicate 16 0 ++
    toBe 32 0xefd48b2aacb6a8fd1140dd9cd45e81d69d2c877b56aaf991c34d0ea84eaf3716 ++
    toBe 32 0xb21aed653f8aecd6062767bdcfe62715a6a309cfff5fc0a637c64abe69b8707a

/-- Lane 1 has read it; slot 4 holds the public key and slot 8 the wrapping key; destination 1 is bound to clearing 1. -/
def bundled : State :=
  let s := streaming 2 fun l => { lane none 0 none [] l with bytes := [(0, bundle ++ List.replicate 3840 0)] }
  st ({ s.dev with fp := { floorplan with clearings := [{ clearing1 with attr := 0x1E }] }, shadow := { s.dev.shadow with
      pages := [(4, publicKey), (8, (List.range 32).map fun i => BitVec.ofNat 8 (7 * i + 1))] } }.setFlds
    [(R.AS_JOB_DESTd_CLR_VALID 3 1, 1), (R.AS_JOB_DESTd_CLR_CLEARING 3 1, 1)])

def bundleManifest : Manifest :=
  ⟨0, 4096, List.replicate 8 9, [1, 2, 3, 4, 5, 6, 7, 8], chunkKey, [⟨1, false, 0, 0, 1, 0x100, 8⟩],
    [⟨0, 8, 8, List.replicate 16 0, [0, 0, 0, 0, 8, 0, 0, 0, 8, 0, 0, 0, 0, 0, 0, 0]⟩]⟩

/-- KY with this slot and page chosen; the OTP holds pages of the keys listed. -/
def keys (slot page : Nat) (held : List Nat) : State :=
  st ({ based with otp := { based.otp with pages := held.map fun k => (k, []) } }.setFlds
    [(R.CH_LOAD_STATUS_CONFIGURED, 0), (R.KY_PROG_CTRL_SLOT, slot), (R.KY_PROG_CTRL_PAGE, page)])

theorem wit_PortBringUpAndStates_PortStates :
    (let s : State := port 0 0 [] false; let n : Fin 4 := 2; let gen : Fin 8 := 0; let width : Fin 32 := 4
     let st := s.dev.cpState n; let fits := 1 ≤ gen.val ∧ gen.val ≤ 4 ∧ width.val ∈ [1, 2, 4]
     s.dev.blockHeld .CP = false ∧ st = 0 ∧ st ≠ 3 ∧ st ≠ 6 ∧ st ≠ 4 ∧ st ≠ 5 ∧ (st ≠ 1 ∨ ¬ fits) ∧ st < 2 ∧ st ≠ 2) ∧
    (let s : State := port 2 0 [] false; let n : Fin 4 := 2; let st := s.dev.cpState n
     s.dev.blockHeld .CP = false ∧ st ≠ 0 ∧ 2 ≤ st ∧ st = 2) ∧
    (let s : State := port 1 0 [] false; let n : Fin 4 := 2; let gen : Fin 8 := 4; let width : Fin 32 := 4
     let st := s.dev.cpState n; let fits := 1 ≤ gen.val ∧ gen.val ≤ 4 ∧ width.val ∈ [1, 2, 4]
     s.dev.blockHeld .CP = false ∧ st = 1 ∧ fits) ∧
    (let s : State := port 3 0 [] false; let n : Fin 4 := 2; let st := s.dev.cpState n
     s.dev.blockHeld .CP = false ∧ st = 3) ∧
    (let s : State := port 4 0 [] false; let n : Fin 4 := 2; let st := s.dev.cpState n
     s.dev.blockHeld .CP = false ∧ (st = 4 ∨ st = 5)) ∧
    (let s : State := port 6 0 [] false; let n : Fin 4 := 2; let st := s.dev.cpState n
     s.dev.blockHeld .CP = false ∧ st = 6) := by decide +kernel

theorem wit_PortBringUpAndStates_PortBringUp :
    (let s : State := port 2 1 [] false; let n : Fin 4 := 2; let r : CpReply := .done
     let init := s.dev.cpState n = 2; let k := (s.dev.cpOf n).step
     let awaited := match k, r with
         | 1, .caps .. => true | 5, .controller .. => true | 6, .namespaceInfo .. => true | 10, .log _ => true
         | 11, .log _ => true | _, .failed .. => true | k, .done => [2, 3, 4, 7, 8, 9].contains k | _, _ => false
     s.dev.blockHeld .CP = false ∧ s.dev.cpState n ≠ 3 ∧ (¬ init ∨ awaited = false) ∧ init ∧ k = 1) ∧
    (let s : State := port 2 9 [] false; let n : Fin 4 := 2; let init := s.dev.cpState n = 2
     let k := (s.dev.cpOf n).step
     s.dev.blockHeld .CP = false ∧ init ∧ k ∈ [2, 3, 4, 7, 8, 9]) ∧
    (let s : State := port 2 5 [] false; let n : Fin 4 := 2; let init := s.dev.cpState n = 2
     let k := (s.dev.cpOf n).step
     s.dev.blockHeld .CP = false ∧ init ∧ k = 5) ∧
    (let s : State := port 2 6 [] false; let n : Fin 4 := 2; let init := s.dev.cpState n = 2
     let k := (s.dev.cpOf n).step
     s.dev.blockHeld .CP = false ∧ init ∧ k = 6) ∧
    (let s : State := port 2 10 [] false; let n : Fin 4 := 2; let init := s.dev.cpState n = 2
     let k := (s.dev.cpOf n).step
     s.dev.blockHeld .CP = false ∧ init ∧ k = 10) ∧
    (let s : State := port 2 11 [] false; let n : Fin 4 := 2; let init := s.dev.cpState n = 2
     let k := (s.dev.cpOf n).step
     s.dev.blockHeld .CP = false ∧ init ∧ k = 11) := by decide +kernel

theorem wit_PortReadsAndFaults :
    (let s : State := port 3 12 [] true; let n : Fin 4 := 2; let cid : Nat := 1; let ready := s.dev.cpState n = 3
     let busy := (s.dev.cpOf n).refreshing = true
     s.dev.blockHeld .CP = false ∧ (¬ ready ∨ busy) ∧ ready ∧ busy ∧ (s.dev.cpOf n).reads.find? (·.cid == cid) = none ∧
     ((s.dev.cpOf n).reads ≠ [] ∨ busy)) ∧
    (let s : State := port 3 12 [] false; let n : Fin 4 := 2; let ready := s.dev.cpState n = 3
     let busy := (s.dev.cpOf n).refreshing = true
     s.dev.blockHeld .CP = false ∧ ready ∧ (¬ busy) ∧ (¬ ready ∨ ((s.dev.cpOf n).reads = [] ∧ ¬ busy))) ∧
    (let s : State := port 3 12 [someRead] false; let n : Fin 4 := 2; let cid : Nat := 1
     let c : CpCommand := someRead; let r : CpRead := ⟨0, 0, [1, 2, 3], []⟩
     let found := (s.dev.cpOf n).reads.find? (·.cid == cid) = some c; let okay := r.sct = 0 ∧ r.sc = 0
     s.dev.blockHeld .CP = false ∧ found ∧ okay) ∧
    (let s : State := port 3 12 [someRead] false; let n : Fin 4 := 2; let cid : Nat := 1
     let c : CpCommand := someRead; let r : CpRead := ⟨1, 0, [], [1]⟩
     let found := (s.dev.cpOf n).reads.find? (·.cid == cid) = some c; let okay := r.sct = 0 ∧ r.sc = 0
     s.dev.blockHeld .CP = false ∧ found ∧ (¬ okay)) ∧
    (let s : State := port 0 0 [] false; let n : Fin 4 := 2; let ready := s.dev.cpState n = 3
     s.dev.blockHeld .CP = false ∧ (¬ ready)) := by decide +kernel

theorem wit_AssetJobs :
    (let s : State := job 0 [] id (st based); let k : Fin 8 := 3; let l : Fin 4 := 0
     let free := fun (x : Nat) => (s.dev.lane x).job = none ∧ (s.dev.lane x).zeroing = false
     let queued := k.val ∈ s.dev.streamer.queue; let runs := s.dev.laneOf k = some l.val
     let finished := s.dev.drained l = true; let can := s.dev.configured = true ∧ s.dev.jobState k ∈ [0, 5, 6]
     s.dev.blockHeld .AS = false ∧ can ∧ (¬ queued) ∧ (s.dev.laneOf k = none ∨ (runs ∧ finished)) ∧
     (s.dev.streamer.queue = [] ∨ (∀ x < 4, ¬ free x)) ∧ ((s.dev.lane l).job = none ∨ (¬ finished ∧
     ((s.dev.lane l).ending = none ∨ (s.dev.lane l).decoding ≠ none ∨ s.dev.laneWrites l none = true)))) ∧
    (let s : State := job 1 [3] id (st based); let k : Fin 8 := 3; let l : Fin 4 := 0; let rest : List Nat := []
     let p := s.dev.fld (R.AS_JOB_CTRL_PORT k)
     let free := fun (x : Nat) => (s.dev.lane x).job = none ∧ (s.dev.lane x).zeroing = false
     let takes := s.dev.streamer.queue = k.val :: rest ∧ free l ∧ ∀ x < 4, x < l.val → ¬ free x
     let dead := s.dev.isSafe Block.AS.base = true ∨ s.dev.cpState p ≠ 3 ∨ s.dev.isSafe (Block.CP.base + p) = true
     let queued := k.val ∈ s.dev.streamer.queue; let can := s.dev.configured = true ∧ s.dev.jobState k ∈ [0, 5, 6]
     s.dev.blockHeld .AS = false ∧ (¬ can) ∧ queued ∧ takes ∧ dead) ∧
    (let k : Fin 8 := 3; let l : Fin 4 := 1; let code : Nat := 0x24
     let s : State := streaming 3 (fun l => { lane none 0 none [] l with ending := some 0x24 })
     let queued := k.val ∈ s.dev.streamer.queue; let runs := s.dev.laneOf k = some l.val
     let finished := s.dev.drained l = true
     let called := (s.dev.lane l).ending = some code ∧ (s.dev.lane l).decoding = none ∧ s.dev.laneWrites l none = false
     s.dev.blockHeld .AS = false ∧ (¬ queued) ∧ runs ∧ (¬ finished) ∧ (s.dev.lane l).job = some k.val ∧ called) ∧
    (let s : State := job 1 [3] id (port 3 12 [] false); let k : Fin 8 := 3; let l : Fin 4 := 0
     let rest : List Nat := []; let p := s.dev.fld (R.AS_JOB_CTRL_PORT k)
     let free := fun (x : Nat) => (s.dev.lane x).job = none ∧ (s.dev.lane x).zeroing = false
     let takes := s.dev.streamer.queue = k.val :: rest ∧ free l ∧ ∀ x < 4, x < l.val → ¬ free x
     let dead := s.dev.isSafe Block.AS.base = true ∨ s.dev.cpState p ≠ 3 ∨ s.dev.isSafe (Block.CP.base + p) = true
     s.dev.blockHeld .AS = false ∧ takes ∧ (¬ dead)) ∧
    (let s : State := streaming 4 (lane (some (manifest false 8)) 1 none []); let k : Fin 8 := 3; let l : Fin 4 := 1
     let finished := s.dev.drained l = true
     s.dev.blockHeld .AS = false ∧ (s.dev.lane l).job = some k.val ∧ finished) := by decide +kernel

theorem wit_AssetManifestsAndChunks_1 :
    let s : State := bundled; let l : Fin 4 := 1; let k : Fin 8 := 3; let lane := s.dev.lane l
    let b := s.dev.manifestBytes l
    let whole := s.dev.jobState k = 2 ∧ lane.ending = none ∧ s.dev.manifestNeed l ≤ b.length
    let x := bundleManifest
    (s.dev.blockHeld .AS = false ∧ (s.dev.lane l).job = some k.val ∧
    ((∀ x < 4, x ≠ l.val → (s.dev.lane x).job = none)) ∧ whole) ∧ (s.dev.checkManifest k b).toOption = some x :=
  ⟨by decide +kernel, by decide +kernel⟩

theorem wit_AssetManifestsAndChunks_2 :
    let l : Fin 4 := 1; let k : Fin 8 := 3; let m : Manifest := manifest true 8; let c : Nat := 0; let i : Nat := 0
    let r : Chunk := ⟨0, 8, 8, cipherTag, []⟩; let e : Entry := entry true; let plain : List Byte := plainBytes
    let s : State := streaming 3 (lane (some (manifest true 8)) 1 (some 0) cipher); let lane := s.dev.lane l
    let chunk := lane.manifest = some m ∧ m.chunks[c]? = some r ∧ Dev.entryOf m c = some (i, e)
    let plains := (if c = e.first then [] else lane.plain) ++ [plain]
    let out := if e.compressed then zstdOutput e.windowLog plains (c + 1 == e.first + e.span) else some plain
    let decrypted := Dev.chunkPlain m lane c r = some plain
    (s.dev.blockHeld .AS = false ∧ (s.dev.lane l).job = some k.val ∧
    ((∀ x < 4, x ≠ l.val → (s.dev.lane x).job = none)) ∧ chunk ∧ lane.decoding = some c ∧ out = none) ∧ (decrypted) :=
  ⟨by decide +kernel, by decide +kernel⟩

theorem wit_AssetManifestsAndChunks_3 :
    let l : Fin 4 := 1; let k : Fin 8 := 3; let m : Manifest := manifest false 3; let c : Nat := 0; let i : Nat := 0
    let r : Chunk := ⟨0, 8, 3, cipherTag, []⟩; let e : Entry := entry false; let plain : List Byte := plainBytes
    let bytes : List Byte := plainBytes
    let s : State := streaming 3 (lane (some (manifest false 3)) 1 (some 0) cipher); let lane := s.dev.lane l
    let chunk := lane.manifest = some m ∧ m.chunks[c]? = some r ∧ Dev.entryOf m c = some (i, e)
    let plains := (if c = e.first then [] else lane.plain) ++ [plain]
    let out := if e.compressed then zstdOutput e.windowLog plains (c + 1 == e.first + e.span) else some plain
    let decrypted := Dev.chunkPlain m lane c r = some plain
    (s.dev.blockHeld .AS = false ∧ (s.dev.lane l).job = some k.val ∧
    ((∀ x < 4, x ≠ l.val → (s.dev.lane x).job = none)) ∧ chunk ∧ lane.decoding = some c ∧ out = some bytes ∧
    bytes.length ≠ r.outLen) ∧ (decrypted) :=
  ⟨by decide +kernel, by decide +kernel⟩

theorem wit_AssetManifestsAndChunks_4 :
    let l : Fin 4 := 1; let k : Fin 8 := 3; let m : Manifest := manifest false 8; let c : Nat := 0; let i : Nat := 0
    let r : Chunk := ⟨0, 8, 8, cipherTag, []⟩; let e : Entry := entry false; let plain : List Byte := plainBytes
    let bytes : List Byte := plainBytes
    let s : State := streaming 3 (lane (some (manifest false 8)) 1 (some 0) cipher); let lane := s.dev.lane l
    let chunk := lane.manifest = some m ∧ m.chunks[c]? = some r ∧ Dev.entryOf m c = some (i, e)
    let plains := (if c = e.first then [] else lane.plain) ++ [plain]
    let out := if e.compressed then zstdOutput e.windowLog plains (c + 1 == e.first + e.span) else some plain
    let decrypted := Dev.chunkPlain m lane c r = some plain
    (s.dev.blockHeld .AS = false ∧ (s.dev.lane l).job = some k.val ∧
    ((∀ x < 4, x ≠ l.val → (s.dev.lane x).job = none)) ∧ chunk ∧ lane.decoding = some c ∧ out = some bytes ∧
    bytes.length = r.outLen) ∧ (decrypted) :=
  ⟨by decide +kernel, by decide +kernel⟩

theorem wit_AssetManifestsAndChunks :
    (let l : Fin 4 := 1; let k : Fin 8 := 3; let s : State := streaming 2 (lane none 0 none [])
     let lane := s.dev.lane l; let b := s.dev.manifestBytes l
     let whole := s.dev.jobState k = 2 ∧ lane.ending = none ∧ s.dev.manifestNeed l ≤ b.length
     s.dev.blockHeld .AS = false ∧ (s.dev.lane l).job = some k.val ∧
     ((∀ x < 4, x ≠ l.val → (s.dev.lane x).job = none)) ∧ (¬ whole)) ∧
    (let l : Fin 4 := 1; let k : Fin 8 := 3
     let s : State := streaming 2 (fun l => { lane none 0 none [] l with bytes := [(0, List.replicate 4096 0)] })
     let lane := s.dev.lane l; let b := s.dev.manifestBytes l
     let whole := s.dev.jobState k = 2 ∧ lane.ending = none ∧ s.dev.manifestNeed l ≤ b.length
     let x := ((0x10, 0) : Nat × Nat)
     s.dev.blockHeld .AS = false ∧ (s.dev.lane l).job = some k.val ∧
     ((∀ x < 4, x ≠ l.val → (s.dev.lane x).job = none)) ∧ whole ∧
     ((match s.dev.checkManifest k b with | .error y => some y | .ok _ => none) = some x)) ∧
    (let l : Fin 4 := 1; let k : Fin 8 := 3; let m : Manifest := manifest false 8; let c : Nat := 0; let i : Nat := 0
     let r : Chunk := ⟨0, 8, 8, cipherTag, []⟩; let e : Entry := entry false
     let s : State := streaming 3 (lane (some (manifest false 8)) 0 (none) cipher); let lane := s.dev.lane l
     let chunk := lane.manifest = some m ∧ m.chunks[c]? = some r ∧ Dev.entryOf m c = some (i, e)
     let here := ((lane.data.filter (·.1 == c)).map (·.2.2.length)).sum
     let reaps := lane.ending = none ∧ lane.decoding = none ∧ r.ctLen ≤ here ∧
         s.dev.gateOpen (Dev.halfOfAddr e.outOff) r = true
     s.dev.blockHeld .AS = false ∧ (s.dev.lane l).job = some k.val ∧
     ((∀ x < 4, x ≠ l.val → (s.dev.lane x).job = none)) ∧ chunk ∧ c = lane.nextReap ∧ reaps) ∧
    (let l : Fin 4 := 1; let k : Fin 8 := 3; let m : Manifest := manifest false 8; let c : Nat := 0; let i : Nat := 0
     let r : Chunk := ⟨0, 8, 8, cipherTag, []⟩; let e : Entry := entry false
     let s : State := streaming 3 (lane (some (manifest false 8)) 0 (some 0) cipher); let lane := s.dev.lane l
     let chunk := lane.manifest = some m ∧ m.chunks[c]? = some r ∧ Dev.entryOf m c = some (i, e)
     let here := ((lane.data.filter (·.1 == c)).map (·.2.2.length)).sum
     let reaps := lane.ending = none ∧ lane.decoding = none ∧ r.ctLen ≤ here ∧
         s.dev.gateOpen (Dev.halfOfAddr e.outOff) r = true
     s.dev.blockHeld .AS = false ∧ (s.dev.lane l).job = some k.val ∧
     ((∀ x < 4, x ≠ l.val → (s.dev.lane x).job = none)) ∧ chunk ∧ c = lane.nextReap ∧ (¬ reaps)) ∧
    (let l : Fin 4 := 1; let k : Fin 8 := 3; let m : Manifest := manifest false 8
     let s : State := streaming 3 (lane (some (manifest false 8)) 1 (none) cipher); let lane := s.dev.lane l
     s.dev.blockHeld .AS = false ∧ (s.dev.lane l).job = some k.val ∧
     ((∀ x < 4, x ≠ l.val → (s.dev.lane x).job = none)) ∧ (lane.manifest = none ∨ (lane.manifest = some m ∧
     m.chunks.length ≤ lane.nextReap))) ∧
    (let l : Fin 4 := 1; let k : Fin 8 := 3
     let s : State := streaming 3 (lane (some (manifest false 8)) 1 (none) cipher); let lane := s.dev.lane l
     s.dev.blockHeld .AS = false ∧ (s.dev.lane l).job = some k.val ∧
     ((∀ x < 4, x ≠ l.val → (s.dev.lane x).job = none)) ∧ (lane.decoding = none ∨ lane.manifest = none)) ∧
    (let l : Fin 4 := 1; let k : Fin 8 := 3; let m : Manifest := manifest false 8; let c : Nat := 0; let i : Nat := 0
     let r : Chunk := ⟨0, 8, 8, cipherTag, []⟩; let e : Entry := entry false
     let s : State := streaming 3 (lane (some (manifest false 8)) 1 (some 0) (List.replicate 8 0))
     let lane := s.dev.lane l
     let chunk := lane.manifest = some m ∧ m.chunks[c]? = some r ∧ Dev.entryOf m c = some (i, e)
     s.dev.blockHeld .AS = false ∧ (s.dev.lane l).job = some k.val ∧
     ((∀ x < 4, x ≠ l.val → (s.dev.lane x).job = none)) ∧ chunk ∧ lane.decoding = some c ∧
     Dev.chunkPlain m lane c r = none) := by decide +kernel

theorem wit_KeyProgramming :
    (let s : State := st ((keys 0x20 6 []).dev.setFld (R.KY_PROG_DATAw_DATA 5) 7); let k : Nat := 0x106
     let n : Nat := 4; let busy := s.dev.ky ≠ none; let slot := s.dev.fld R.KY_PROG_CTRL_SLOT
     let page := s.dev.fld R.KY_PROG_CTRL_PAGE; let has := (s.dev.otp.pages.any (·.1 == k)) = true
     let long := k = 0x106 ∧ ∃ b ∈ s.dev.kyBytes.drop n, b ≠ 0; let open' := ¬ busy ∧ s.dev.kyClosed = false
     s.dev.blockHeld .KY = false ∧ open' ∧ pageOf slot page = some (k, n) ∧ (¬ has) ∧ long ∧
     (revokeBit slot = none ∨ (revokeBit slot = some k ∧ ¬ has)) ∧ (¬ busy)) ∧
    (let s : State := st { (keys 3 0 []).dev with ky := some (.revoke 3) }; let j : KyJob := .revoke 3
     let busy := s.dev.ky ≠ none; let c := .kyProgram
     s.dev.blockHeld .KY = false ∧ c ∈ [Instr.kyProgram, .kyRevoke, .kySetCfg] ∧ busy ∧ s.dev.ky = some j) ∧
    (let s : State := keys 3 0 [3]
     let k : Nat := ((pageOf (s.dev.fld R.KY_PROG_CTRL_SLOT) (s.dev.fld R.KY_PROG_CTRL_PAGE)).getD (0, 0)).1
     let n : Nat := ((pageOf (s.dev.fld R.KY_PROG_CTRL_SLOT) (s.dev.fld R.KY_PROG_CTRL_PAGE)).getD (0, 0)).2
     let busy := s.dev.ky ≠ none; let slot := s.dev.fld R.KY_PROG_CTRL_SLOT
     let page := s.dev.fld R.KY_PROG_CTRL_PAGE; let has := (s.dev.otp.pages.any (·.1 == k)) = true
     let open' := ¬ busy ∧ s.dev.kyClosed = false
     s.dev.blockHeld .KY = false ∧ open' ∧ pageOf slot page = some (k, n) ∧ has ∧ revokeBit slot = some k) ∧
    (let s : State := st based; let busy := s.dev.ky ≠ none; let c := .kyProgram
     s.dev.blockHeld .KY = false ∧ c ∈ [Instr.kyProgram, .kyRevoke, .kySetCfg] ∧ (¬ busy) ∧ s.dev.kyClosed = true) ∧
    (let s : State := keys 3 7 []; let busy := s.dev.ky ≠ none; let slot := s.dev.fld R.KY_PROG_CTRL_SLOT
     let page := s.dev.fld R.KY_PROG_CTRL_PAGE; let open' := ¬ busy ∧ s.dev.kyClosed = false
     s.dev.blockHeld .KY = false ∧ open' ∧ pageOf slot page = none) ∧
    (let s : State := keys 3 0 []
     let k : Nat := ((pageOf (s.dev.fld R.KY_PROG_CTRL_SLOT) (s.dev.fld R.KY_PROG_CTRL_PAGE)).getD (0, 0)).1
     let n : Nat := ((pageOf (s.dev.fld R.KY_PROG_CTRL_SLOT) (s.dev.fld R.KY_PROG_CTRL_PAGE)).getD (0, 0)).2
     let busy := s.dev.ky ≠ none; let slot := s.dev.fld R.KY_PROG_CTRL_SLOT
     let page := s.dev.fld R.KY_PROG_CTRL_PAGE; let has := (s.dev.otp.pages.any (·.1 == k)) = true
     let long := k = 0x106 ∧ ∃ b ∈ s.dev.kyBytes.drop n, b ≠ 0; let open' := ¬ busy ∧ s.dev.kyClosed = false
     s.dev.blockHeld .KY = false ∧ open' ∧ pageOf slot page = some (k, n) ∧ (¬ has) ∧ (¬ long)) := by decide +kernel

/-! ### Witnesses: the ring -/

def frame : RingFrame :=
  { version := 1, kind := 4, subtype := 0, cls := 3, dest := 5, src := 9, hops := 4, flags := 0, txn := 1, length := 5, tag := 7,
    frame := 0, offset := 0x40, arg0 := 0, arg1 := 0, status := 0, owner := 0, iv := 0, time := 0, payload := [1, 2, 3,
      4, 5] }

/-- A frame of `bytes` data bytes at an offset, or one that asks for as many. -/
def sends (off bytes : Nat) : RingFrame :=
  { frame with offset := BitVec.ofNat 32 off, length := BitVec.ofNat 16 bytes, payload := List.replicate bytes 7 }

def asks (off bytes : Nat) : RingFrame :=
  { frame with offset := BitVec.ofNat 32 off, arg0 := BitVec.ofNat 32 bytes, length := 0, payload := [] }

/-- A register access over the ring: a write of v, or, with v = 0, a read too. -/
def reaches (off v : Nat) : RingFrame :=
  { frame with
    kind := 5, tag := 0, length := 0, payload := []
    offset := BitVec.ofNat 32 off
    arg0 := BitVec.ofNat 32 v }

/-- The two links of a ring of twelve units. -/
def ringed (l0 l1 : Nat) : Dev :=
  based.setFlds [(R.RP_STATUS_LINK 0, l0), (R.RP_STATUS_LINK 1, l1), (R.RP_CTRL_EN 0, 1), (R.RP_CTRL_EN 1, 1),
    (R.SH_RING_CFG_UNITS, 12)]

def ring : Dev := ringed 1 1

/-- Port 0's queue of class 3 is full; port 1's receive buffer is. -/
def fullQueue : Dev := ring.updClass 0 3 fun x =>
  { x with queue := List.replicate 70 (.device { frame with length := 4000, payload := List.replicate 4000 0 }) }

def fullBuffer : Dev :=
  { ring with
    fs := { ring.fs with waiting := (List.range 70).map fun i => ⟨.rp 1, 0, none, .ringWrite i⟩ }
    sh := { ring.sh with services := (List.range 70).map fun i =>
      ⟨i, 1, { frame with length := 9152, payload := [] }, [], [], 0, 0, [], false, false, false, 0⟩ } }

def syncMsg : TimeMsg := ⟨0, ⟨0xFE00000000000007, 1⟩, 3, false, 0, 5, 6, ⟨1, 1⟩⟩

def announceMsg : Announce := ⟨0, ⟨7, 1⟩, 3, 9, 128, 248, 0x22, 5, 128, 1⟩

/-- A frame waits in port 1's queue of class c; time for its shaper has passed. -/
def waitingIn (c : Nat) : Dev :=
  { (ring.setFlds [(R.SH_TC_CIR_MBPS 2, 100), (R.SH_TC_CBS_BYTES 2, 9000)]).updClass 1 c fun x =>
      { x with queue := [.device frame] } with raw := 1000000 }

/-- Every stack is in its parity safe state. -/
def unsafeStacks (d : Dev) : Dev := { d with safe := [4, 5, 6, 7] }

/-- Window 0 maps a page of clearing 1. -/
def windowOn (page : Nat) : Dev := ring.setFlds [(R.CL_WINn_CTRL_CLEARING 0, 1), (R.CL_WINn_CTRL_PAGE 0, page)]

/-- A response to register access 1 of unit 9 is kept for a retry (R412). -/
def keptAnswer : RingFrame := { frame with kind := 5, subtype := 2, dest := 9, src := 5, arg0 := 77 }

def keeping : Dev := { ring with sh := { ring.sh with kept := [(9, keptAnswer)] } }

/-- Request 1 of this unit is outstanding. -/
def asked (sub : Nat) : RingFrame := { frame with subtype := BitVec.ofNat 8 sub, dest := 9 }

def mailed : RingFrame := { asked 0 with kind := 5, length := 0, payload := [] }

def awaiting (d : Dev) (o : Outstanding) : Dev := { d with sh := { d.sh with outstanding := [o] } }

def piece (id cmd : Nat) (ph : PiecePhase) : Piece := ⟨id, cmd, 0, 0x40, 5, ph, 1, 0, [], false⟩

/-- Channel 2 runs command 3, whose ten bytes are issued as far as `next`. -/
def channel (pieces : List Piece) (abort : Bool) (next state : Nat) (d : Dev) : Dev :=
  ({ d with sh := { d.sh with channels := upd d.sh.channels 2 fun c =>
      { c with cmd := 3, pieces := pieces, abort := abort, next := next, port := 1 } } } : Dev).setFlds
    [(R.SH_RQ_STATE_STATE 2, state), (R.SH_RQ_LENGTH_BYTES 2, 10), (R.SH_RQ_TAGS_LOCAL_CLR 2, 1)]

/-- Piece 4 of channel 2 waits for the answer to request 1. -/
def pending (sub : Nat) (pieces : List Piece) (abort : Bool) (next state : Nat) : State :=
  st (channel pieces abort next state (awaiting ring ⟨.piece 2 4, asked sub, 0⟩))

/-- The answer: its status and its data. -/
def answer (status : Nat) (data : List Byte) : RingFrame :=
  { frame with
    status := BitVec.ofNat 8 status
    length := BitVec.ofNat 16 data.length
    arg0 := BitVec.ofNat 32 data.length
    payload := data }

theorem wit_RingLinksAndReceipt_RingLinks :
    (let s : State := st (ringed 1 0); let p : Fin 2 := 1; let c := .rpLinkDown 1
     let can := s.dev.unitAddr ≠ 0 ∧ s.dev.fld (R.RP_CTRL_EN p) = 1 ∧ s.dev.linkUp p = false
     s.dev.blockHeld .RP = false ∧ can ∧ c ∈ [Instr.rpLinkDown p, .rpRestart p] ∧ s.dev.linkUp p = false) ∧
    (let s : State := st ring; let p : Fin 2 := 1; let c := .rpRestart 1
     let can := s.dev.unitAddr ≠ 0 ∧ s.dev.fld (R.RP_CTRL_EN p) = 1 ∧ s.dev.linkUp p = false
     s.dev.blockHeld .RP = false ∧ (¬ can) ∧ c ∈ [Instr.rpLinkDown p, .rpRestart p] ∧ s.dev.linkUp p = true) :=
  by decide +kernel

theorem wit_RingLinksAndReceipt_RingReceipt :
    (let s : State := st ring; let p : Fin 2 := 1; let w : WireFrame := .other; let m : TimeMsg := syncMsg
     let up := s.dev.linkUp p = true
     let fits := fun (w : WireFrame) => s.dev.rxBuffered p + Dev.wireBytes w ≤ 524288
     let x := .time true (.sync syncMsg)
     s.dev.blockHeld .RP = false ∧ up ∧ fits .other ∧ x ∈ [WireFrame.time true (.sync m), .time false .other] ∧
     fits x ∧ fits (.time false .ignored)) ∧
    (let s : State := st (ringed 1 0); let p : Fin 2 := 1; let up := s.dev.linkUp p = true
     s.dev.blockHeld .RP = false ∧ (¬ up)) ∧
    (let s : State := st fullBuffer; let p : Fin 2 := 1; let w : WireFrame := .device (frame)
     let up := s.dev.linkUp p = true
     let fits := fun (w : WireFrame) => s.dev.rxBuffered p + Dev.wireBytes w ≤ 524288
     s.dev.blockHeld .RP = false ∧ up ∧ (¬ fits w)) ∧
    (let s : State := st ring; let p : Fin 2 := 1; let f : RingFrame := frame; let x := (4, 0, .write 1 frame)
     s.dev.blockHeld .RP = false ∧
     x ∈ [(3, 0, Instr.tile p f), (4, 0, .write p f), (4, 1, .readReq p f), (4, 2, .readRsp p f), (6, 0, .writeAck p f),
       (5, 0, .regWrite p f), (5, 1, .regRead p f), (5, 2, .regRsp p f), (7, 0, .notice p f)]) ∧
    (let s : State := st ring; let p : Fin 2 := 1; let m : TimeMsg := syncMsg; let a : Announce := announceMsg
     let x := (.sync syncMsg, .syncRx 1 syncMsg)
     s.dev.blockHeld .RP = false ∧
     x ∈ [(TimeFrame.sync m, Instr.syncRx p m), (.followUp m, .followUpRx p m), (.announce a, .announceRx p a),
       (.pdelayReq m, .pdelayReqRx p m), (.pdelayResp m, .pdelayRespRx p m),
       (.pdelayRespFollowUp m, .pdelayRespFollowUpRx p m)]) ∧
    (let s : State := st (ring.setFld R.CH_LOAD_STATUS_CONFIGURED 0); let p : Fin 2 := 1
     let w : WireFrame := .device (frame); let f : RingFrame := frame; let up := s.dev.linkUp p = true
     let fits := fun (w : WireFrame) => s.dev.rxBuffered p + Dev.wireBytes w ≤ 524288
     s.dev.blockHeld .RP = false ∧ up ∧ fits (.device f) ∧ s.dev.configured = false) ∧
    (let s : State := st ring; let p : Fin 2 := 1; let w : WireFrame := .device ({ frame with version := 2 })
     let f : RingFrame := { frame with version := 2 }; let up := s.dev.linkUp p = true
     let fits := fun (w : WireFrame) => s.dev.rxBuffered p + Dev.wireBytes w ≤ 524288
     s.dev.blockHeld .RP = false ∧ up ∧ fits (.device f) ∧ s.dev.configured = true ∧ headerOk f = false) ∧
    (let s : State := st ring; let p : Fin 2 := 1
     let w : WireFrame := .device ({ frame with flags := 4, length := 21, payload := List.replicate 21 0 })
     let f : RingFrame := { frame with flags := 4, length := 21, payload := List.replicate 21 0 }
     let up := s.dev.linkUp p = true
     let fits := fun (w : WireFrame) => s.dev.rxBuffered p + Dev.wireBytes w ≤ 524288
     let own := f.dest.toNat = s.dev.unitAddr
     let sound := fits (.device f) ∧ s.dev.configured = true ∧ headerOk f = true
     s.dev.blockHeld .RP = false ∧ up ∧ sound ∧ own ∧ f.isProtected = true ∧
     (s.dev.ownerKey f.owner.toNat).bind (fun key => gcmOpen key f.iv.toNat (RingFrame.aad f) f.payload) = none) ∧
    (let s : State := st ring; let p : Fin 2 := 1
     let w : WireFrame := .device ({ frame with dest := 12, hops := 1 })
     let f : RingFrame := { frame with dest := 12, hops := 1 }; let up := s.dev.linkUp p = true
     let fits := fun (w : WireFrame) => s.dev.rxBuffered p + Dev.wireBytes w ≤ 524288
     let own := f.dest.toNat = s.dev.unitAddr; let another := ¬ own ∧ f.dest ≠ 0
     let sound := fits (.device f) ∧ s.dev.configured = true ∧ headerOk f = true
     s.dev.blockHeld .RP = false ∧ up ∧ sound ∧ another ∧ f.hops.toNat ≤ 1) ∧
    (let s : State := st ring; let p : Fin 2 := 1
     let w : WireFrame := .device ({ frame with dest := 12, hops := 2 })
     let f : RingFrame := { frame with dest := 12, hops := 2 }; let up := s.dev.linkUp p = true
     let fits := fun (w : WireFrame) => s.dev.rxBuffered p + Dev.wireBytes w ≤ 524288
     let own := f.dest.toNat = s.dev.unitAddr; let another := ¬ own ∧ f.dest ≠ 0
     let sound := fits (.device f) ∧ s.dev.configured = true ∧ headerOk f = true
     s.dev.blockHeld .RP = false ∧ up ∧ sound ∧ another ∧ 2 ≤ f.hops.toNat ∧ s.dev.linkUp (1 - p) = true ∧
     s.dev.hasRoom (1 - p) (.device f) = true) ∧
    (let s : State := st (ringed 0 1); let p : Fin 2 := 1
     let w : WireFrame := .device ({ frame with dest := 12, hops := 2 })
     let f : RingFrame := { frame with dest := 12, hops := 2 }; let up := s.dev.linkUp p = true
     let fits := fun (w : WireFrame) => s.dev.rxBuffered p + Dev.wireBytes w ≤ 524288
     let own := f.dest.toNat = s.dev.unitAddr; let another := ¬ own ∧ f.dest ≠ 0
     let sound := fits (.device f) ∧ s.dev.configured = true ∧ headerOk f = true
     s.dev.blockHeld .RP = false ∧ up ∧ sound ∧ another ∧ 2 ≤ f.hops.toNat ∧ s.dev.linkUp (1 - p) = false) ∧
    (let s : State := st fullQueue; let p : Fin 2 := 1
     let w : WireFrame := .device ({ frame with dest := 12, hops := 2 })
     let f : RingFrame := { frame with dest := 12, hops := 2 }; let up := s.dev.linkUp p = true
     let fits := fun (w : WireFrame) => s.dev.rxBuffered p + Dev.wireBytes w ≤ 524288
     let own := f.dest.toNat = s.dev.unitAddr; let another := ¬ own ∧ f.dest ≠ 0
     let sound := fits (.device f) ∧ s.dev.configured = true ∧ headerOk f = true
     s.dev.blockHeld .RP = false ∧ up ∧ sound ∧ another ∧ 2 ≤ f.hops.toNat ∧ s.dev.linkUp (1 - p) = true ∧
     s.dev.hasRoom (1 - p) (.device f) = false) ∧
    (let s : State := st ring; let p : Fin 2 := 1; let w : WireFrame := .device ({ frame with dest := 0, src := 5 })
     let f : RingFrame := { frame with dest := 0, src := 5 }; let up := s.dev.linkUp p = true
     let fits := fun (w : WireFrame) => s.dev.rxBuffered p + Dev.wireBytes w ≤ 524288
     let own := f.dest.toNat = s.dev.unitAddr
     let sound := fits (.device f) ∧ s.dev.configured = true ∧ headerOk f = true
     s.dev.blockHeld .RP = false ∧ up ∧ sound ∧ (¬ own) ∧ f.dest = 0 ∧ f.src.toNat = s.dev.unitAddr) := by decide +kernel

theorem wit_RingTransmission :
    (let s : State := st (ringed 0 0); let p : Fin 2 := 1; s.dev.blockHeld .RP = false ∧ s.dev.rpSends p = false) ∧
    (let s : State := st (ring); let p : Fin 2 := 1; let now := s.dev.accrue p
     s.dev.blockHeld .RP = false ∧ s.dev.rpSends p = true ∧ (now.txChoose p).2 = none) ∧
    (let s : State := st (waitingIn 7); let p : Fin 2 := 1; let c : Nat := 7; let committed : Bool := false
     let i : TxItem := .device frame; let rest : List TxItem := []; let now := s.dev.accrue p
     let chosen := s.dev.rpSends p = true ∧ (s.dev.classOf p c).queue = i :: rest ∧
         (now.peakOk p 7 = true ∧ c = 7 ∧ committed = false ∨
           now.peakOk p 7 = false ∧ now.peakOk p 6 = true ∧ c = 6 ∧ committed = false ∨
           now.peakOk p 7 = false ∧ now.peakOk p 6 = false ∧ (now.txChoose p).2 = some (c, committed))
     s.dev.blockHeld .RP = false ∧ chosen) := by decide +kernel

theorem wit_RingRequestsReceived_RemoteMemory :
    (let s : State := st ring; let p : Fin 2 := 1; let f : RingFrame := sends 0xFFFFF 1
     let data : List Byte := (sends 0xFFFFF 1).payload; let c : Clearing := clearing1
     let writes := s.dev.Accepts p (asKind f 4 0) data; let named := s.dev.ringClearing f.tag.toNat = some c
     let opened := s.dev.ringClosed c = false; let off := f.offset.toNat
     let wok := named ∧ opened ∧ off + data.length ≤ c.size ∧ s.dev.refusal (probe p c.base true) = none ∧
         f.owner.toNat = c.owner
     let ws := writeRequests (portRequester p) (c.base + off) data (.ringWrite s.dev.sh.nextKey)
     let q := ws.headD ⟨.host, 0, none, .plain⟩
     s.dev.blockHeld .RP = false ∧ writes ∧ wok ∧ f.poison = false ∧ q ∈ ws.head? ∧ s.dev.Passes q) ∧
    (let s : State := st ring; let p : Fin 2 := 1; let f : RingFrame := sends 0xFFFFF 2
     let data : List Byte := (sends 0xFFFFF 2).payload; let c : Clearing := clearing1
     let writes := s.dev.Accepts p (asKind f 4 0) data; let named := s.dev.ringClearing f.tag.toNat = some c
     let opened := s.dev.ringClosed c = false; let off := f.offset.toNat
     s.dev.blockHeld .RP = false ∧ writes ∧ named ∧ opened ∧ c.size < off + data.length) ∧
    (let s : State := st ring; let p : Fin 2 := 1; let f : RingFrame := sends 0x100000 0
     let data : List Byte := (sends 0x100000 0).payload; let c : Clearing := clearing1
     let writes := s.dev.Accepts p (asKind f 4 0) data; let named := s.dev.ringClearing f.tag.toNat = some c
     let opened := s.dev.ringClosed c = false; let off := f.offset.toNat
     let wok := named ∧ opened ∧ off + data.length ≤ c.size ∧ s.dev.refusal (probe p c.base true) = none ∧
         f.owner.toNat = c.owner
     s.dev.blockHeld .RP = false ∧ writes ∧ wok ∧ f.poison = false ∧ data = []) ∧
    (let s : State := st ring; let p : Fin 2 := 1; let f : RingFrame := { sends 0x40 5 with tag := 99 }
     let data : List Byte := ({ sends 0x40 5 with tag := 99 }).payload
     let writes := s.dev.Accepts p (asKind f 4 0) data
     s.dev.blockHeld .RP = false ∧ writes ∧ s.dev.ringClearing f.tag.toNat = none) ∧
    (let s : State := st ring; let p : Fin 2 := 1; let f : RingFrame := { sends 0x40 5 with flags := 1 }
     let data : List Byte := ({ sends 0x40 5 with flags := 1 }).payload; let c : Clearing := clearing1
     let writes := s.dev.Accepts p (asKind f 4 0) data; let named := s.dev.ringClearing f.tag.toNat = some c
     let opened := s.dev.ringClosed c = false; let off := f.offset.toNat
     let wok := named ∧ opened ∧ off + data.length ≤ c.size ∧ s.dev.refusal (probe p c.base true) = none ∧
         f.owner.toNat = c.owner
     s.dev.blockHeld .RP = false ∧ writes ∧ wok ∧ f.poison = true) ∧
    (let s : State := st ring; let p : Fin 2 := 1; let f : RingFrame := { sends 0x40 5 with owner := 3 }
     let data : List Byte := ({ sends 0x40 5 with owner := 3 }).payload; let c : Clearing := clearing1
     let writes := s.dev.Accepts p (asKind f 4 0) data; let named := s.dev.ringClearing f.tag.toNat = some c
     let opened := s.dev.ringClosed c = false; let off := f.offset.toNat
     s.dev.blockHeld .RP = false ∧ writes ∧ named ∧ opened ∧ off + data.length ≤ c.size ∧
     (s.dev.refusal (probe p c.base true) ≠ none ∨ f.owner.toNat ≠ c.owner)) ∧
    (let s : State := st ring; let p : Fin 2 := 1; let f : RingFrame := asks 0xFFFFF 1
     let data : List Byte := (asks 0xFFFFF 1).payload; let c : Clearing := clearing1
     let reads := s.dev.Accepts p (asKind f 4 1) data; let named := s.dev.ringClearing f.tag.toNat = some c
     let opened := s.dev.ringClosed c = false; let off := f.offset.toNat; let len := f.arg0.toNat
     let rfits := off + len ≤ c.size ∧ (c.isProtected = true → len ≤ 9136)
     let rok := named ∧ opened ∧ rfits ∧ s.dev.refusal (probe p c.base false) = none
     let rs := readRequests (portRequester p) (c.base + off) len (.ringRead s.dev.sh.nextKey)
     s.dev.blockHeld .RP = false ∧ reads ∧ rok ∧ ((∀ q ∈ rs, s.dev.Passes q))) ∧
    (let s : State := st ring; let p : Fin 2 := 1; let f : RingFrame := asks 0xFFFFF 2
     let data : List Byte := (asks 0xFFFFF 2).payload; let c : Clearing := clearing1
     let reads := s.dev.Accepts p (asKind f 4 1) data; let named := s.dev.ringClearing f.tag.toNat = some c
     let opened := s.dev.ringClosed c = false; let off := f.offset.toNat; let len := f.arg0.toNat
     let rfits := off + len ≤ c.size ∧ (c.isProtected = true → len ≤ 9136)
     s.dev.blockHeld .RP = false ∧ reads ∧ named ∧ opened ∧ (¬ rfits)) ∧
    (let s : State := st ring; let p : Fin 2 := 1; let f : RingFrame := { asks 4 4 with tag := 99 }
     let data : List Byte := ({ asks 4 4 with tag := 99 }).payload; let reads := s.dev.Accepts p (asKind f 4 1) data
     s.dev.blockHeld .RP = false ∧ reads ∧ s.dev.ringClearing f.tag.toNat = none) ∧
    (let s : State := st (unsafeStacks ring); let p : Fin 2 := 1; let f : RingFrame := sends 0x40 5
     let data : List Byte := (sends 0x40 5).payload; let c : Clearing := clearing1
     let writes := s.dev.Accepts p (asKind f 4 0) data; let named := s.dev.ringClearing f.tag.toNat = some c
     let opened := s.dev.ringClosed c = false; let off := f.offset.toNat
     let wok := named ∧ opened ∧ off + data.length ≤ c.size ∧ s.dev.refusal (probe p c.base true) = none ∧
         f.owner.toNat = c.owner
     let ws := writeRequests (portRequester p) (c.base + off) data (.ringWrite s.dev.sh.nextKey)
     let q := ws.headD ⟨.host, 0, none, .plain⟩
     s.dev.blockHeld .RP = false ∧ writes ∧ wok ∧ f.poison = false ∧ q ∈ ws.head? ∧ s.dev.fs.tagFree q = true ∧
     s.dev.fs.waiting.any q.sameSource = false ∧ s.dev.refusal q = none ∧
     s.dev.isSafe (Block.FS.base + stackOf q.addr) = true) ∧
    (let s : State := st { ring with loader := { ring.loader with phase := .receiving } }; let p : Fin 2 := 1
     let f : RingFrame := sends 0x40 5; let data : List Byte := (sends 0x40 5).payload; let c : Clearing := clearing1
     let writes := s.dev.Accepts p (asKind f 4 0) data; let named := s.dev.ringClearing f.tag.toNat = some c
     let opened := s.dev.ringClosed c = false
     s.dev.blockHeld .RP = false ∧ writes ∧ named ∧ (¬ opened)) ∧
    (let s : State := st { ring with loader := { ring.loader with phase := .receiving } }; let p : Fin 2 := 1
     let f : RingFrame := asks 4 4; let data : List Byte := (asks 4 4).payload; let c : Clearing := clearing1
     let reads := s.dev.Accepts p (asKind f 4 1) data; let named := s.dev.ringClearing f.tag.toNat = some c
     let opened := s.dev.ringClosed c = false
     s.dev.blockHeld .RP = false ∧ reads ∧ named ∧ (¬ opened)) ∧
    (let s : State := st { ring with fp := { floorplan with clearings := [{ clearing1 with attr := 0x7F }] } }
     let p : Fin 2 := 1; let f : RingFrame := asks 4 4; let data : List Byte := (asks 4 4).payload
     let c : Clearing := { clearing1 with attr := 0x7F }; let reads := s.dev.Accepts p (asKind f 4 1) data
     let named := s.dev.ringClearing f.tag.toNat = some c; let opened := s.dev.ringClosed c = false
     let off := f.offset.toNat; let len := f.arg0.toNat
     let rfits := off + len ≤ c.size ∧ (c.isProtected = true → len ≤ 9136)
     s.dev.blockHeld .RP = false ∧ reads ∧ named ∧ opened ∧ rfits ∧ s.dev.refusal (probe p c.base false) ≠ none) :=
  by decide +kernel

theorem wit_RingRequestsReceived_RemoteRegisters :
    (let s : State := st keeping; let p : Fin 2 := 1; let f : RingFrame := { reaches R.SY_THERMAL 0 with flags := 2 }
     let k : RingFrame := keptAnswer; let data : List Byte := []; let reads := s.dev.Accepts p (asKind f 5 1) data
     let writes := s.dev.Accepts p (asKind f 5 0) data
     let kept := s.dev.sh.kept.find? (fun k => k.1 == f.src.toNat && k.2.txn == f.txn && f.retry)
     s.dev.blockHeld .RP = false ∧ writes ∧ kept = some (f.src.toNat, k) ∧ reads) ∧
    (let s : State := st ring; let p : Fin 2 := 1; let f : RingFrame := reaches (R.SH_RQ_TAGS 1) 0
     let k : RingFrame := keptAnswer; let data : List Byte := []
     let row : RegRow := (rowOf (R.SH_RQ_TAGS 1)).getD ⟨"", 0, [], []⟩
     let reads := s.dev.Accepts p (asKind f 5 1) data; let writes := s.dev.Accepts p (asKind f 5 0) data
     let off := f.offset.toNat; let a := decodeBar0 off
     let kept := s.dev.sh.kept.find? (fun k => k.1 == f.src.toNat && k.2.txn == f.txn && f.retry)
     let plain := inWindow a = false ∧ Dev.isInd a = false
     let acc := fun (wr : Bool) => (⟨.ring, wr, .w32, off, if wr then [f.arg0] else []⟩ : BusAccess)
     s.dev.blockHeld .RP = false ∧ writes ∧ kept = none ∧ plain ∧ busCause (acc true) off = none ∧
     slotOf a ≠ Block.RP.base + p ∧ reads ∧ busCause (acc false) off = none ∧ rowOf a = some row ∧
     ((∀ x ∈ row.fields, x.ty ≠ .rs ∧ x.ty ≠ .wo ∧ x.ty ≠ .wp))) ∧
    (let s : State := st ring; let p : Fin 2 := 1; let f : RingFrame := reaches (3) 0
     let k : RingFrame := keptAnswer; let data : List Byte := []; let reads := s.dev.Accepts p (asKind f 5 1) data
     let writes := s.dev.Accepts p (asKind f 5 0) data; let off := f.offset.toNat; let a := decodeBar0 off
     let kept := s.dev.sh.kept.find? (fun k => k.1 == f.src.toNat && k.2.txn == f.txn && f.retry)
     let acc := fun (wr : Bool) => (⟨.ring, wr, .w32, off, if wr then [f.arg0] else []⟩ : BusAccess)
     s.dev.blockHeld .RP = false ∧ writes ∧ kept = none ∧ inWindow a = false ∧
     (busCause (acc true) off ≠ none ∨ Dev.isInd a = true) ∧ reads ∧
     (busCause (acc false) off ≠ none ∨ Dev.isInd a = true)) ∧
    (let s : State := st (windowOn 0); let p : Fin 2 := 1; let f : RingFrame := reaches (0x38000) 0
     let k : RingFrame := keptAnswer; let data : List Byte := []; let r := Dev.taken (asKind f 5 1) data
     let reads := s.dev.Accepts p (asKind f 5 1) data; let w := Dev.taken (asKind f 5 0) data
     let writes := s.dev.Accepts p (asKind f 5 0) data; let off := f.offset.toNat; let a := decodeBar0 off
     let kept := s.dev.sh.kept.find? (fun k => k.1 == f.src.toNat && k.2.txn == f.txn && f.retry)
     let parts := (windowParts 5 (a % 0x10000) 4).map (fun q => (s.dev.windowMap q.1 q.2.1, q.2.2))
     let denied := fun (q : RingFrame) => parts.findSome? (fun x => s.dev.windowRefusal p q x.1)
     s.dev.blockHeld .RP = false ∧ writes ∧ kept = none ∧ inWindow a = true ∧ denied w = none ∧
     ((∀ x ∈ parts, s.dev.isSafe (Block.FS.base + stackOf x.1.1) = false)) ∧ reads ∧ denied r = none) ∧
    (let s : State := st ring; let p : Fin 2 := 1; let f : RingFrame := reaches (0x38000) 0
     let k : RingFrame := keptAnswer; let data : List Byte := []; let w := Dev.taken (asKind f 5 0) data
     let writes := s.dev.Accepts p (asKind f 5 0) data; let off := f.offset.toNat; let a := decodeBar0 off
     let kept := s.dev.sh.kept.find? (fun k => k.1 == f.src.toNat && k.2.txn == f.txn && f.retry)
     let parts := (windowParts 5 (a % 0x10000) 4).map (fun q => (s.dev.windowMap q.1 q.2.1, q.2.2))
     let denied := fun (q : RingFrame) => parts.findSome? (fun x => s.dev.windowRefusal p q x.1)
     let x := ((parts.findSome? fun y => s.dev.windowRefusal p w y.1).getD (0, 0, 0))
     s.dev.blockHeld .RP = false ∧ writes ∧ kept = none ∧ inWindow a = true ∧ x ∈ denied w) ∧
    (let s : State := st ring; let p : Fin 2 := 1; let f : RingFrame := reaches (0x38000) 0
     let k : RingFrame := keptAnswer; let data : List Byte := []; let r := Dev.taken (asKind f 5 1) data
     let reads := s.dev.Accepts p (asKind f 5 1) data; let off := f.offset.toNat; let a := decodeBar0 off
     let kept := s.dev.sh.kept.find? (fun k => k.1 == f.src.toNat && k.2.txn == f.txn && f.retry)
     let parts := (windowParts 5 (a % 0x10000) 4).map (fun q => (s.dev.windowMap q.1 q.2.1, q.2.2))
     let denied := fun (q : RingFrame) => parts.findSome? (fun x => s.dev.windowRefusal p q x.1)
     let x := ((parts.findSome? fun y => s.dev.windowRefusal p r y.1).getD (0, 0, 0))
     s.dev.blockHeld .RP = false ∧ reads ∧ kept = none ∧ inWindow a = true ∧ x ∈ denied r) := by decide +kernel

theorem wit_RingResponsesReceived :
    (let s : State := st ring; let p : Fin 2 := 1; let f : RingFrame := answer 0 [1]; let g : RingFrame := asked 0
     let data : List Byte := (answer 0 [1]).payload
     let waits := fun (mail : Bool) (sub : Byte) => match s.dev.requestOf f.txn with
         | some ⟨.piece _ _, g, _⟩ => !mail && g.kind == 4 && g.subtype == sub
         | some ⟨.mailbox, _, _⟩ => mail
         | none => false
     let y := (4, 2, .readRsp 1 (answer 0 [1]), false)
     s.dev.blockHeld .RP = false ∧
     y ∈ [(4, 2, Instr.readRsp p f, waits false 1), (6, 0, .writeAck p f, waits false 0),
       (5, 2, .regRsp p f, waits true 0)] ∧
     s.dev.Accepts p (asKind f y.1 y.2.1) data ∧ y.2.2.2 = false) ∧
    (let p : Fin 2 := 1; let f : RingFrame := answer 0 [1, 2, 3, 4, 5]; let g : RingFrame := asked 1
     let data : List Byte := (answer 0 [1, 2, 3, 4, 5]).payload; let k : Fin 4 := 2; let id : Nat := 4
     let r : Nat := 0; let c : Clearing := clearing1; let s : State := pending 1 [piece 4 3 .sent] false 5 1
     let x : Piece := piece 4 3 .sent; let q := Dev.taken (asKind f 4 2) data; let ch := s.dev.channel k
     let reading := s.dev.Accepts p (asKind f 4 2) data ∧ s.dev.requestOf f.txn = some ⟨.piece k id,
       { g with kind := 4, subtype := 1 }, r⟩
     let known := ch.pieces.find? (·.id == id) = some x; let piece := reading ∧ known ∧ q.status = 0
     let here := s.dev.clearingAt x.addr = some c
     let ws := writeRequests (portRequester ch.port) x.addr q.payload (.channelWrite k id)
     s.dev.blockHeld .RP = false ∧ piece ∧ here ∧ c.owner = f.owner.toNat ∧ ws ≠ [] ∧ ((∀ w ∈ ws, s.dev.Passes w))) ∧
    (let s : State := pending 1 [piece 4 3 .sent] false 10 1; let p : Fin 2 := 1; let f : RingFrame := answer 3 []
     let g : RingFrame := asked 1; let data : List Byte := (answer 3 []).payload; let k : Fin 4 := 2
     let id : Nat := 4; let r : Nat := 0; let x : Piece := piece 4 3 .sent; let ch := s.dev.channel k
     let reading := s.dev.Accepts p (asKind f 4 2) data ∧ s.dev.requestOf f.txn = some ⟨.piece k id,
       { g with kind := 4, subtype := 1 }, r⟩
     let known := ch.pieces.find? (·.id == id) = some x
     s.dev.blockHeld .RP = false ∧ reading ∧ known ∧ f.status ≠ 0) ∧
    (let s : State := pending 1 [] false 10 0; let p : Fin 2 := 1; let f : RingFrame := answer 0 [1, 2, 3, 4, 5]
     let g : RingFrame := asked 1; let data : List Byte := (answer 0 [1, 2, 3, 4, 5]).payload; let k : Fin 4 := 2
     let id : Nat := 4; let r : Nat := 0; let ch := s.dev.channel k
     let reading := s.dev.Accepts p (asKind f 4 2) data ∧ s.dev.requestOf f.txn = some ⟨.piece k id,
       { g with kind := 4, subtype := 1 }, r⟩
     let strange := ch.pieces.find? (·.id == id) = none ∧ (∀ z ∈ ch.pieces, z.phase ≠ .reading) ∧
         (s.dev.rqBusy k = false ∨ s.dev.fld (R.SH_RQ_LENGTH_BYTES k) ≤ ch.next ∧ ch.pieces.any (·.cmd == ch.cmd) = true)
     s.dev.blockHeld .RP = false ∧ reading ∧ strange) ∧
    (let s : State := pending 0 [piece 4 3 .sent] false 10 1; let p : Fin 2 := 1; let f : RingFrame := answer 0 []
     let g : RingFrame := asked 0; let data : List Byte := (answer 0 []).payload; let k : Fin 4 := 2
     let id : Nat := 4; let r : Nat := 0; let x : Piece := piece 4 3 .sent; let ch := s.dev.channel k
     let writing := s.dev.Accepts p (asKind f 6 0) data ∧ s.dev.requestOf f.txn = some ⟨.piece k id,
       { g with kind := 4, subtype := 0 }, r⟩
     let known := ch.pieces.find? (·.id == id) = some x; let left := ch.pieces.filter (·.id != id)
     let counts := writing ∧ known ∧ f.status = 0 ∧ x.cmd = ch.cmd ∧ s.dev.rqBusy k = true
     let all := s.dev.fld (R.SH_RQ_LENGTH_BYTES k) ≤ ch.next ∧ (∀ y ∈ left, y.phase ≠ .reading)
     let last := left.any (·.cmd == ch.cmd) = false
     s.dev.blockHeld .RP = false ∧ counts ∧ ch.abort = false ∧ all ∧ last) ∧
    (let s : State := pending 0 [piece 4 3 .sent] true 5 1; let p : Fin 2 := 1; let f : RingFrame := answer 0 []
     let g : RingFrame := asked 0; let data : List Byte := (answer 0 []).payload; let k : Fin 4 := 2
     let id : Nat := 4; let r : Nat := 0; let x : Piece := piece 4 3 .sent; let ch := s.dev.channel k
     let writing := s.dev.Accepts p (asKind f 6 0) data ∧ s.dev.requestOf f.txn = some ⟨.piece k id,
       { g with kind := 4, subtype := 0 }, r⟩
     let known := ch.pieces.find? (·.id == id) = some x; let left := ch.pieces.filter (·.id != id)
     let counts := writing ∧ known ∧ f.status = 0 ∧ x.cmd = ch.cmd ∧ s.dev.rqBusy k = true
     let last := left.any (·.cmd == ch.cmd) = false
     s.dev.blockHeld .RP = false ∧ counts ∧ ch.abort = true ∧ last) ∧
    (let s : State := pending 0 [piece 4 3 .sent, piece 5 3 .sent] false 10 1; let p : Fin 2 := 1
     let f : RingFrame := answer 0 []; let g : RingFrame := asked 0; let data : List Byte := (answer 0 []).payload
     let k : Fin 4 := 2; let id : Nat := 4; let r : Nat := 0; let x : Piece := piece 4 3 .sent
     let ch := s.dev.channel k
     let writing := s.dev.Accepts p (asKind f 6 0) data ∧ s.dev.requestOf f.txn = some ⟨.piece k id,
       { g with kind := 4, subtype := 0 }, r⟩
     let known := ch.pieces.find? (·.id == id) = some x; let left := ch.pieces.filter (·.id != id)
     let counts := writing ∧ known ∧ f.status = 0 ∧ x.cmd = ch.cmd ∧ s.dev.rqBusy k = true
     let all := s.dev.fld (R.SH_RQ_LENGTH_BYTES k) ≤ ch.next ∧ (∀ y ∈ left, y.phase ≠ .reading)
     let last := left.any (·.cmd == ch.cmd) = false
     s.dev.blockHeld .RP = false ∧ counts ∧ (ch.abort = true ∨ all) ∧ (¬ last)) ∧
    (let s : State := pending 0 [piece 4 3 .sent] false 10 1; let p : Fin 2 := 1; let f : RingFrame := answer 3 []
     let g : RingFrame := asked 0; let data : List Byte := (answer 3 []).payload; let k : Fin 4 := 2
     let id : Nat := 4; let r : Nat := 0; let x : Piece := piece 4 3 .sent; let ch := s.dev.channel k
     let writing := s.dev.Accepts p (asKind f 6 0) data ∧ s.dev.requestOf f.txn = some ⟨.piece k id,
       { g with kind := 4, subtype := 0 }, r⟩
     let known := ch.pieces.find? (·.id == id) = some x
     s.dev.blockHeld .RP = false ∧ writing ∧ known ∧ f.status ≠ 0) ∧
    (let s : State := pending 0 [] false 10 0; let p : Fin 2 := 1; let f : RingFrame := answer 0 []
     let g : RingFrame := asked 0; let data : List Byte := (answer 0 []).payload; let k : Fin 4 := 2
     let id : Nat := 4; let r : Nat := 0; let ch := s.dev.channel k
     let writing := s.dev.Accepts p (asKind f 6 0) data ∧ s.dev.requestOf f.txn = some ⟨.piece k id,
       { g with kind := 4, subtype := 0 }, r⟩
     let strange := ch.pieces.find? (·.id == id) = none ∧ (∀ z ∈ ch.pieces, z.phase ≠ .reading) ∧
         (s.dev.rqBusy k = false ∨ s.dev.fld (R.SH_RQ_LENGTH_BYTES k) ≤ ch.next ∧ ch.pieces.any (·.cmd == ch.cmd) = true)
     s.dev.blockHeld .RP = false ∧ writing ∧ strange) ∧
    (let p : Fin 2 := 1; let f : RingFrame := { answer 0 [1, 2] with owner := 3 }; let g : RingFrame := asked 1
     let data : List Byte := ({ answer 0 [1, 2] with owner := 3 }).payload; let k : Fin 4 := 2; let id : Nat := 4
     let r : Nat := 0; let c : Clearing := clearing1; let s : State := pending 1 [piece 4 3 .sent] false 10 1
     let x : Piece := piece 4 3 .sent; let q := Dev.taken (asKind f 4 2) data; let ch := s.dev.channel k
     let reading := s.dev.Accepts p (asKind f 4 2) data ∧ s.dev.requestOf f.txn = some ⟨.piece k id,
       { g with kind := 4, subtype := 1 }, r⟩
     let known := ch.pieces.find? (·.id == id) = some x; let piece := reading ∧ known ∧ q.status = 0
     let here := s.dev.clearingAt x.addr = some c
     s.dev.blockHeld .RP = false ∧ piece ∧ here ∧ c.owner ≠ f.owner.toNat) ∧
    (let p : Fin 2 := 1; let f : RingFrame := answer 0 []; let g : RingFrame := asked 1
     let data : List Byte := (answer 0 []).payload; let k : Fin 4 := 2; let id : Nat := 4; let r : Nat := 0
     let c : Clearing := clearing1; let s : State := pending 1 [piece 4 3 .sent] false 10 1
     let x : Piece := piece 4 3 .sent; let q := Dev.taken (asKind f 4 2) data; let ch := s.dev.channel k
     let reading := s.dev.Accepts p (asKind f 4 2) data ∧ s.dev.requestOf f.txn = some ⟨.piece k id,
       { g with kind := 4, subtype := 1 }, r⟩
     let known := ch.pieces.find? (·.id == id) = some x; let piece := reading ∧ known ∧ q.status = 0
     let here := s.dev.clearingAt x.addr = some c
     let ws := writeRequests (portRequester ch.port) x.addr q.payload (.channelWrite k id)
     s.dev.blockHeld .RP = false ∧ piece ∧ here ∧ c.owner = f.owner.toNat ∧ ws = [] ∧ x.cmd = ch.cmd ∧
     s.dev.rqBusy k = true) ∧
    (let p : Fin 2 := 1; let f : RingFrame := answer 0 [1, 2, 3, 4, 5]; let g : RingFrame := asked 1
     let data : List Byte := (answer 0 [1, 2, 3, 4, 5]).payload; let k : Fin 4 := 2; let id : Nat := 4
     let r : Nat := 0; let c : Clearing := clearing1
     let s : State := st (unsafeStacks (pending 1 [piece 4 3 .sent] false 10 1).dev)
     let x : Piece := piece 4 3 .sent; let q := Dev.taken (asKind f 4 2) data; let ch := s.dev.channel k
     let reading := s.dev.Accepts p (asKind f 4 2) data ∧ s.dev.requestOf f.txn = some ⟨.piece k id,
       { g with kind := 4, subtype := 1 }, r⟩
     let known := ch.pieces.find? (·.id == id) = some x; let piece := reading ∧ known ∧ q.status = 0
     let here := s.dev.clearingAt x.addr = some c
     let ws := writeRequests (portRequester ch.port) x.addr q.payload (.channelWrite k id)
     s.dev.blockHeld .RP = false ∧ piece ∧ here ∧ c.owner = f.owner.toNat ∧ ws.length = 1 ∧
     ((∀ w ∈ ws, s.dev.fs.tagFree w = true ∧ s.dev.fs.waiting.any w.sameSource = false ∧ ¬ s.dev.Passes w))) ∧
    (let p : Fin 2 := 1; let f : RingFrame := answer 0 [1, 2, 3, 4, 5]; let g : RingFrame := asked 1
     let data : List Byte := (answer 0 [1, 2, 3, 4, 5]).payload; let k : Fin 4 := 2; let id : Nat := 4
     let r : Nat := 0
     let s : State := st { (pending 1 [piece 4 3 .sent] false 10 1).dev with fp := { floorplan with clearings := [] } }
     let x : Piece := piece 4 3 .sent; let q := Dev.taken (asKind f 4 2) data; let ch := s.dev.channel k
     let reading := s.dev.Accepts p (asKind f 4 2) data ∧ s.dev.requestOf f.txn = some ⟨.piece k id,
       { g with kind := 4, subtype := 1 }, r⟩
     let known := ch.pieces.find? (·.id == id) = some x; let piece := reading ∧ known ∧ q.status = 0
     s.dev.blockHeld .RP = false ∧ piece ∧ s.dev.clearingAt x.addr = none) ∧
    (let s : State := st (awaiting ring ⟨.mailbox, mailed, 0⟩); let p : Fin 2 := 1
     let f : RingFrame := { answer 0 [] with tag := 0 }; let g : RingFrame := mailed
     let data : List Byte := ({ answer 0 [] with tag := 0 }).payload; let r : Nat := 0
     let mail := s.dev.Accepts p (asKind f 5 2) data ∧ s.dev.requestOf f.txn = some ⟨.mailbox, g, r⟩
     s.dev.blockHeld .RP = false ∧ mail) ∧
    (let s : State := st ring; let p : Fin 2 := 1
     let f : RingFrame := { answer 0 [] with arg0 := 7, dest := 0, tag := 0, offset := 0, hops := 1 }
     let data : List Byte := ({ answer 0 [] with arg0 := 7, dest := 0, tag := 0, offset := 0, hops := 1 }).payload
     let noted := s.dev.Accepts p (asKind f 7 0) data
     s.dev.blockHeld .RP = false ∧ noted) ∧
    (let s : State := st ring; let p : Fin 2 := 1
     let f : RingFrame := { answer 0 [] with arg0 := 7, dest := 0, tag := 0, offset := 0, hops := 2 }
     s.dev.blockHeld .RP = false ∧ s.dev.linkUp p = true ∧ s.dev.rxBuffered p + f.bytes ≤ 524288 ∧
     s.dev.configured = true ∧ headerOk (asKind f 7 0) = true ∧ f.dest = 0 ∧ s.dev.unitAddr ≠ 0 ∧
     f.src.toNat ≠ s.dev.unitAddr ∧ 2 ≤ f.hops.toNat ∧ s.dev.linkUp (1 - p) = true ∧
     s.dev.hasRoom (1 - p) (.device (asKind f 7 0)) = true) := by decide +kernel

/-! ### Witnesses: channels, streams, sources and almanacs -/

/-- Channel 2's next command: its operation, its target unit, its clearing, its offset and its length. -/
def going (op dest clr off len : Nat) (d : Dev) : Dev := d.setFlds [(R.SH_RQ_CTRL_OP 2, op), (R.SH_RQ_CTRL_DEST 2, dest),
  (R.SH_RQ_TAGS_LOCAL_CLR 2, clr), (R.SH_RQ_LOCAL_OFF_OFF 2, off), (R.SH_RQ_LENGTH_BYTES 2, len)]

/-- The mailbox and the notice register name unit `dest`. -/
def mailing (dest busy : Nat) (d : Dev) : Dev := d.setFlds [(R.SH_RMT_CTRL_DEST, dest), (R.SH_RMT_STATUS_BUSY, busy),
  (R.SH_NOTICE_TX_DEST, dest)]

/-- Stream 2: layer engine 0 of head `hd`, in clearing `clr`; a band has four rows, and one of frame 5's is complete. -/
def tileStream (en hd clr off size : Nat) (d : Dev) : Dev :=
  (d.setFlds [(R.SH_STR_CTRL_EN 2, en), (R.SH_STR_CTRL_HEAD 2, hd), (R.SH_STR_CTRL_CLEARING 2, clr),
    (R.SH_STR_BUF_OFF_OFF 2, off), (R.SH_STR_BUF_STRIDE_STRIDE 2, 0x4000), (R.SH_STR_PITCH_PITCH 2, 0x80),
    (R.SH_STR_SIZE_ROWS 2, size), (R.SH_STR_SIZE_ROW_BYTES 2, 0x80), (R.SH_STR_CTRL_BAND_ROWS_M1 2, 3)]).updStream 2
    fun x => { x with now := x.now.set 3 ⟨5, true⟩ }

/-- A tile of three rows of 32 bytes. -/
def tile : RingFrame := { frame with
  kind := 3, tag := 2, offset := 0x00010040, arg0 := 0x00030020, length := 96, frame := 1
  payload := List.replicate 96 7 }

/-- Source 2: target unit, clearing, offset and size. -/
def sourcing (en busy dest clr off rows bytes : Nat) (d : Dev) : Dev := d.setFlds [(R.SH_SRC_CTRL_EN 2, en),
  (R.SH_SRC_STATE_BUSY 2, busy), (R.SH_SRC_CTRL_DEST 2, dest), (R.SH_SRC_CLR_CLEARING 2, clr), (R.SH_SRC_OFF_OFF 2, off),
  (R.SH_SRC_PITCH_PITCH 2, 0x80), (R.SH_SRC_SIZE_ROWS 2, rows), (R.SH_SRC_SIZE_ROW_BYTES 2, bytes),
  (R.SH_SRC_CTRL_BAND_ROWS_M1 2, 3)]

/-- Port 1's pending almanac has two rows, the first of the interval given; it starts at the second given. -/
def almanacked (interval base running : Nat) (d : Dev) : Dev := d.setFlds [(R.SH_ALM_Bb_Ee_GATES 1 0 0, 0xFF),
  (R.SH_ALM_Bb_Ee_INTERVAL 1 0 0, interval), (R.SH_ALM_Bb_Ee_GATES 1 0 1, 0x0F), (R.SH_ALM_Bb_Ee_INTERVAL 1 0 1, 3000),
  (R.SH_ALM_CTRL_PEND_COUNT 1, 2), (R.SH_ALM_CTRL_CAL 1, 1), (R.SH_ALM_BASE_S_S 1, base),
  (R.SH_ALM_STATE_RUNNING 1, running)]

def pendingAlmanac (running : Nat) : Dev :=
  let d := almanacked 5000 5 running ring
  { d with sh := { d.sh with almanacs := upd d.sh.almanacs 1 fun a => { a with pending := some (7 * secUnits, 1, 2) } } }

theorem wit_RingRequestsSent_ChannelCommands :
    (let s : State := st ({ ring with safe := [Block.SH.base] }); let k : Fin 4 := 2
     s.dev.blockHeld .SH = false ∧ s.dev.rqBusy k = false ∧ s.dev.shSafe = true) ∧
    (let s : State := st (going 0 0 1 0 5 ring); let k : Fin 4 := 2; let dest := s.dev.fld (R.SH_RQ_CTRL_DEST k)
     let idle := s.dev.rqBusy k = false ∧ s.dev.shSafe = false
     s.dev.blockHeld .SH = false ∧ idle ∧ (dest = 0 ∨ dest = s.dev.unitAddr)) ∧
    (let s : State := st (going 0 9 7 0 5 ring); let k : Fin 4 := 2; let dest := s.dev.fld (R.SH_RQ_CTRL_DEST k)
     let local' := s.dev.clearings.find? (·.number == s.dev.fld (R.SH_RQ_TAGS_LOCAL_CLR k))
     let idle := s.dev.rqBusy k = false ∧ s.dev.shSafe = false; let other := idle ∧ dest ≠ 0 ∧ dest ≠ s.dev.unitAddr
     s.dev.blockHeld .SH = false ∧ other ∧ local' = none) ∧
    (let s : State := st (going 0 9 1 0 0 ring); let k : Fin 4 := 2; let c : Clearing := clearing1
     let dest := s.dev.fld (R.SH_RQ_CTRL_DEST k); let len := s.dev.fld (R.SH_RQ_LENGTH_BYTES k)
     let off := s.dev.fld (R.SH_RQ_LOCAL_OFF_OFF k)
     let local' := s.dev.clearings.find? (·.number == s.dev.fld (R.SH_RQ_TAGS_LOCAL_CLR k))
     let idle := s.dev.rqBusy k = false ∧ s.dev.shSafe = false; let other := idle ∧ dest ≠ 0 ∧ dest ≠ s.dev.unitAddr
     s.dev.blockHeld .SH = false ∧ other ∧ local' = some c ∧ (len = 0 ∨ c.size < off + len)) ∧
    (let s : State := st (going 0 9 1 0x40 100 ring); let k : Fin 4 := 2; let n : Nat := 1
     let c : Clearing := clearing1; let ch := s.dev.channel k; let dest := s.dev.fld (R.SH_RQ_CTRL_DEST k)
     let op := s.dev.fld (R.SH_RQ_CTRL_OP k); let len := s.dev.fld (R.SH_RQ_LENGTH_BYTES k)
     let off := s.dev.fld (R.SH_RQ_LOCAL_OFF_OFF k)
     let local' := s.dev.clearings.find? (·.number == s.dev.fld (R.SH_RQ_TAGS_LOCAL_CLR k))
     let idle := s.dev.rqBusy k = false ∧ s.dev.shSafe = false; let other := idle ∧ dest ≠ 0 ∧ dest ≠ s.dev.unitAddr
     let ranged := other ∧ local' = some c ∧ len ≠ 0 ∧ off + len ≤ c.size
     let refused := s.dev.refusal (probe ((s.dev.routeOf dest).getD 1) (c.base + off) (op == 1)) ≠ none
     let goes := ranged ∧ ¬ refused ∧ s.dev.routeOf dest = some n ∧ s.dev.configured = true ∧
         (∀ x ∈ ch.pieces, x.phase ≠ .reading)
     let most := if c.isProtected then 9136 else 9152
     let made := (List.range (min (32 - ch.pieces.length) (ceilDiv len most))).map fun i => (i * most, min most (len - i * most))
     let ids := made.zip (List.range' s.dev.sh.nextKey made.length)
     let reads := ids.map fun x => readRequests (portRequester n) (c.base + off + x.1.1) x.1.2 (.channelRead k x.2)
     s.dev.blockHeld .SH = false ∧ goes ∧ op = 0 ∧ ((∀ q ∈ reads.flatten, s.dev.Passes q))) ∧
    (let s : State := st (going 1 9 1 0x40 100 ring); let k : Fin 4 := 2; let n : Nat := 1
     let c : Clearing := clearing1; let ch := s.dev.channel k; let dest := s.dev.fld (R.SH_RQ_CTRL_DEST k)
     let op := s.dev.fld (R.SH_RQ_CTRL_OP k); let len := s.dev.fld (R.SH_RQ_LENGTH_BYTES k)
     let off := s.dev.fld (R.SH_RQ_LOCAL_OFF_OFF k)
     let local' := s.dev.clearings.find? (·.number == s.dev.fld (R.SH_RQ_TAGS_LOCAL_CLR k))
     let idle := s.dev.rqBusy k = false ∧ s.dev.shSafe = false; let other := idle ∧ dest ≠ 0 ∧ dest ≠ s.dev.unitAddr
     let ranged := other ∧ local' = some c ∧ len ≠ 0 ∧ off + len ≤ c.size
     let refused := s.dev.refusal (probe ((s.dev.routeOf dest).getD 1) (c.base + off) (op == 1)) ≠ none
     let goes := ranged ∧ ¬ refused ∧ s.dev.routeOf dest = some n ∧ s.dev.configured = true ∧
         (∀ x ∈ ch.pieces, x.phase ≠ .reading)
     s.dev.blockHeld .SH = false ∧ goes ∧ op = 1) ∧
    (let s : State := st (going 0 9 1 0 5 (unsafeStacks ring)); let k : Fin 4 := 2; let n : Nat := 1
     let c : Clearing := clearing1; let ch := s.dev.channel k; let dest := s.dev.fld (R.SH_RQ_CTRL_DEST k)
     let op := s.dev.fld (R.SH_RQ_CTRL_OP k); let len := s.dev.fld (R.SH_RQ_LENGTH_BYTES k)
     let off := s.dev.fld (R.SH_RQ_LOCAL_OFF_OFF k)
     let local' := s.dev.clearings.find? (·.number == s.dev.fld (R.SH_RQ_TAGS_LOCAL_CLR k))
     let idle := s.dev.rqBusy k = false ∧ s.dev.shSafe = false; let other := idle ∧ dest ≠ 0 ∧ dest ≠ s.dev.unitAddr
     let ranged := other ∧ local' = some c ∧ len ≠ 0 ∧ off + len ≤ c.size
     let refused := s.dev.refusal (probe ((s.dev.routeOf dest).getD 1) (c.base + off) (op == 1)) ≠ none
     let goes := ranged ∧ ¬ refused ∧ s.dev.routeOf dest = some n ∧ s.dev.configured = true ∧
         (∀ x ∈ ch.pieces, x.phase ≠ .reading)
     let most := if c.isProtected then 9136 else 9152
     let made := (List.range (min (32 - ch.pieces.length) (ceilDiv len most))).map fun i => (i * most, min most (len - i * most))
     let ids := made.zip (List.range' s.dev.sh.nextKey made.length)
     let reads := ids.map fun x => readRequests (portRequester n) (c.base + off + x.1.1) x.1.2 (.channelRead k x.2)
     s.dev.blockHeld .SH = false ∧ goes ∧ op = 0 ∧ ((∃ q ∈ reads.flatten.head?, s.dev.fs.tagFree q = true ∧
     s.dev.fs.waiting.any q.sameSource = false ∧ ¬ s.dev.Passes q))) ∧
    (let s : State := st (going 0 9 1 0 5 (ringed 0 0)); let k : Fin 4 := 2; let c : Clearing := clearing1
     let dest := s.dev.fld (R.SH_RQ_CTRL_DEST k); let op := s.dev.fld (R.SH_RQ_CTRL_OP k)
     let len := s.dev.fld (R.SH_RQ_LENGTH_BYTES k); let off := s.dev.fld (R.SH_RQ_LOCAL_OFF_OFF k)
     let local' := s.dev.clearings.find? (·.number == s.dev.fld (R.SH_RQ_TAGS_LOCAL_CLR k))
     let idle := s.dev.rqBusy k = false ∧ s.dev.shSafe = false; let other := idle ∧ dest ≠ 0 ∧ dest ≠ s.dev.unitAddr
     let ranged := other ∧ local' = some c ∧ len ≠ 0 ∧ off + len ≤ c.size
     let refused := s.dev.refusal (probe ((s.dev.routeOf dest).getD 1) (c.base + off) (op == 1)) ≠ none
     s.dev.blockHeld .SH = false ∧ ranged ∧ (¬ refused) ∧ s.dev.routeOf dest = none) ∧
    (let s : State := st (channel [] false 5 1 ring); let k : Fin 4 := 2; let ch := s.dev.channel k
     let sent := ch.pieces.filter (·.phase != .reading); let mine := sent.any (·.cmd == ch.cmd)
     s.dev.blockHeld .SH = false ∧ s.dev.rqBusy k = true ∧ mine = false) ∧
    (let s : State := st (channel [piece 4 3 .sent] false 5 1 ring); let k : Fin 4 := 2; let ch := s.dev.channel k
     let sent := ch.pieces.filter (·.phase != .reading); let mine := sent.any (·.cmd == ch.cmd)
     s.dev.blockHeld .SH = false ∧ s.dev.rqBusy k = true ∧ mine = true) ∧
    (let s : State := st (going 0 9 1 0 5 ({ ring with fp := { floorplan with clearings := [{ clearing1 with attr := 0 }] } }))
     let k : Fin 4 := 2; let c : Clearing := { clearing1 with attr := 0 }
     let dest := s.dev.fld (R.SH_RQ_CTRL_DEST k); let op := s.dev.fld (R.SH_RQ_CTRL_OP k)
     let len := s.dev.fld (R.SH_RQ_LENGTH_BYTES k); let off := s.dev.fld (R.SH_RQ_LOCAL_OFF_OFF k)
     let local' := s.dev.clearings.find? (·.number == s.dev.fld (R.SH_RQ_TAGS_LOCAL_CLR k))
     let idle := s.dev.rqBusy k = false ∧ s.dev.shSafe = false; let other := idle ∧ dest ≠ 0 ∧ dest ≠ s.dev.unitAddr
     let ranged := other ∧ local' = some c ∧ len ≠ 0 ∧ off + len ≤ c.size
     let refused := s.dev.refusal (probe ((s.dev.routeOf dest).getD 1) (c.base + off) (op == 1)) ≠ none
     s.dev.blockHeld .SH = false ∧ ranged ∧ refused) := by decide +kernel

theorem wit_RingRequestsSent :
    (let s : State := st (mailing 9 0 (ringed 0 0)); let g : RingFrame := mailed; let r : Nat := 0
     let txn : BitVec 16 := 1; let dest := s.dev.fld R.SH_RMT_CTRL_DEST
     let idle := s.dev.fld R.SH_RMT_STATUS_BUSY = 0; let other := dest ≠ 0 ∧ dest ≠ s.dev.unitAddr
     let way := fun (to' : Nat) => s.dev.configured = true ∧ s.dev.routeOf to' ≠ none
     let tries := s.dev.fld R.SH_RING_CFG_RETRIES
     s.dev.blockHeld .SH = false ∧ idle ∧ other ∧ (¬ way dest) ∧ s.dev.requestOf txn = none ∧ r < tries ∧
     (¬ way g.dest.toNat)) ∧
    (let s : State := st (awaiting (ring) ⟨.mailbox, mailed, 0⟩); let txn : BitVec 16 := 1
     let g : RingFrame := mailed; let r : Nat := 0; let k : Fin 4 := 2; let id : Nat := 4
     let way := fun (to' : Nat) => s.dev.configured = true ∧ s.dev.routeOf to' ≠ none
     let tries := s.dev.fld R.SH_RING_CFG_RETRIES; let mail := s.dev.requestOf txn = some ⟨.mailbox, g, r⟩
     let piece := s.dev.requestOf txn = some ⟨.piece k id, g, r⟩; let dest := s.dev.fld R.SH_RMT_CTRL_DEST
     let idle := s.dev.fld R.SH_RMT_STATUS_BUSY = 0; let other := dest ≠ 0 ∧ dest ≠ s.dev.unitAddr
     s.dev.blockHeld .SH = false ∧ idle ∧ (¬ other) ∧ r < tries ∧ way g.dest.toNat ∧ (mail ∨ piece)) ∧
    (let s : State := st (mailing 9 0 (ring)); let dest := s.dev.fld R.SH_RMT_CTRL_DEST
     let idle := s.dev.fld R.SH_RMT_STATUS_BUSY = 0; let other := dest ≠ 0 ∧ dest ≠ s.dev.unitAddr
     let way := fun (to' : Nat) => s.dev.configured = true ∧ s.dev.routeOf to' ≠ none
     s.dev.blockHeld .SH = false ∧ idle ∧ other ∧ way dest) ∧
    (let s : State := st (mailing 9 1 (ring)); let idle := s.dev.fld R.SH_RMT_STATUS_BUSY = 0
     s.dev.blockHeld .SH = false ∧ (¬ idle)) ∧
    (let s : State := st (awaiting (ring) ⟨.mailbox, mailed, 7⟩); let r : Nat := 7
     let tries := s.dev.fld R.SH_RING_CFG_RETRIES
     s.dev.blockHeld .SH = false ∧ tries ≤ r) := by decide +kernel

theorem wit_StreamsAndSources_Streams :
    (let s : State := st (tileStream 1 0 1 0x40 32 ring); let m : Fin 16 := 2; let p : Fin 2 := 1
     let f : RingFrame := tile; let data : List Byte := (tile).payload; let c : Clearing := clearing1
     let size := s.dev.strRows m; let bytes := s.dev.strRowBytes m; let band := s.dev.strBandRows m
     let off := s.dev.fld (R.SH_STR_BUF_OFF_OFF m); let stride := s.dev.fld (R.SH_STR_BUF_STRIDE_STRIDE m)
     let pitch := s.dev.fld (R.SH_STR_PITCH_PITCH m)
     let clr := s.dev.clearings.find? (·.number == s.dev.fld (R.SH_STR_CTRL_CLEARING m))
     let here := s.dev.blockHeld .RP = false ∧ s.dev.Accepts p (asKind f 3 0) data ∧ f.tag.toNat = m
     let row := f.offset.toNat / 65536; let byte := f.offset.toNat % 65536; let rows := f.arg0.toNat / 65536
     let w := f.arg0.toNat % 65536
     let fits := s.dev.fld (R.SH_STR_CTRL_EN m) = 1 ∧ row + rows ≤ size ∧ byte + w ≤ bytes ∧
         (0 < rows → (row + rows - 1) / band = row / band)
     let d := (f.frame.toNat + 65536 - s.dev.strFrame m) % 65536
     let shut := ((s.dev.stream m).now[row / band]?.map (·.closed)).getD false
     let sound := here ∧ fits ∧ f.poison = false; let taken := sound ∧ (d = 0 ∧ shut = false ∨ d = 1)
     let at0 := (clr.map (·.base)).getD 0 + off + f.frame.toNat % 2 * stride + byte
     let refused := if s.dev.ringClosed c then some (4, c.number) else
         (s.dev.refusal (probe p at0 true)).or (if c.owner = f.owner.toNat then none else some (1, c.number))
     let ws := (List.range rows).flatMap fun i => writeRequests (portRequester p) (at0 + (row + i) * pitch)
         (slice data (i * w) w) (.ringWrite s.dev.sh.nextKey)
     let room := (clr.map (·.size)).getD 0
     let checks := [(1, (clr.map Clearing.ringVisible).getD false),
         (2, ((s.dev.fp.leRec (s.dev.fld (R.SH_STR_CTRL_LE m))).map (·.head == s.dev.fld (R.SH_STR_CTRL_HEAD m))).getD false),
         (3, off % 64 == 0 && stride % 64 == 0 && decide (bytes ≤ pitch ∧ size ≠ 0 ∧ ceilDiv size band ≤ 64)),
         (4, decide ((size - 1) * pitch + bytes ≤ stride ∧ off + 2 * stride ≤ room))]
     let failed := (checks.find? (fun x => !x.2)).map (·.1)
     s.dev.blockHeld .SH = false ∧ failed = none ∧ taken ∧ clr = some c ∧ refused = none ∧ ws ≠ [] ∧
     ((∀ x ∈ ws, s.dev.Passes x))) ∧
    (let s : State := st (tileStream 1 0 1 0x40 0 ring); let m : Fin 16 := 2; let p : Fin 2 := 1
     let f : RingFrame := tile; let data : List Byte := (tile).payload; let size := s.dev.strRows m
     let bytes := s.dev.strRowBytes m; let band := s.dev.strBandRows m
     let here := s.dev.blockHeld .RP = false ∧ s.dev.Accepts p (asKind f 3 0) data ∧ f.tag.toNat = m
     let row := f.offset.toNat / 65536; let byte := f.offset.toNat % 65536; let rows := f.arg0.toNat / 65536
     let w := f.arg0.toNat % 65536
     let fits := s.dev.fld (R.SH_STR_CTRL_EN m) = 1 ∧ row + rows ≤ size ∧ byte + w ≤ bytes ∧
         (0 < rows → (row + rows - 1) / band = row / band)
     let off := s.dev.fld (R.SH_STR_BUF_OFF_OFF m); let stride := s.dev.fld (R.SH_STR_BUF_STRIDE_STRIDE m)
     let pitch := s.dev.fld (R.SH_STR_PITCH_PITCH m)
     let clr := s.dev.clearings.find? (·.number == s.dev.fld (R.SH_STR_CTRL_CLEARING m))
     let room := (clr.map (·.size)).getD 0
     let checks := [(1, (clr.map Clearing.ringVisible).getD false),
         (2, ((s.dev.fp.leRec (s.dev.fld (R.SH_STR_CTRL_LE m))).map (·.head == s.dev.fld (R.SH_STR_CTRL_HEAD m))).getD false),
         (3, off % 64 == 0 && stride % 64 == 0 && decide (bytes ≤ pitch ∧ size ≠ 0 ∧ ceilDiv size band ≤ 64)),
         (4, decide ((size - 1) * pitch + bytes ≤ stride ∧ off + 2 * stride ≤ room))]
     let failed := (checks.find? (fun x => !x.2)).map (·.1); let e := 3
     s.dev.blockHeld .SH = false ∧ e ∈ failed ∧ here ∧ (¬ fits)) ∧
    (let s : State := st (tileStream 1 0 99 0x40 32 ring); let m : Fin 16 := 2; let p : Fin 2 := 1
     let f : RingFrame := tile; let data : List Byte := (tile).payload; let size := s.dev.strRows m
     let bytes := s.dev.strRowBytes m; let band := s.dev.strBandRows m
     let clr := s.dev.clearings.find? (·.number == s.dev.fld (R.SH_STR_CTRL_CLEARING m))
     let here := s.dev.blockHeld .RP = false ∧ s.dev.Accepts p (asKind f 3 0) data ∧ f.tag.toNat = m
     let row := f.offset.toNat / 65536; let byte := f.offset.toNat % 65536; let rows := f.arg0.toNat / 65536
     let w := f.arg0.toNat % 65536
     let fits := s.dev.fld (R.SH_STR_CTRL_EN m) = 1 ∧ row + rows ≤ size ∧ byte + w ≤ bytes ∧
         (0 < rows → (row + rows - 1) / band = row / band)
     let d := (f.frame.toNat + 65536 - s.dev.strFrame m) % 65536
     let shut := ((s.dev.stream m).now[row / band]?.map (·.closed)).getD false
     let sound := here ∧ fits ∧ f.poison = false; let taken := sound ∧ (d = 0 ∧ shut = false ∨ d = 1)
     taken ∧ clr = none) ∧
    (let s : State := st (tileStream 1 0 1 0x40 32 ring); let m : Fin 16 := 2; let p : Fin 2 := 1
     let f : RingFrame := { tile with frame := 0xFFFF }
     let data : List Byte := ({ tile with frame := 0xFFFF }).payload; let size := s.dev.strRows m
     let bytes := s.dev.strRowBytes m; let band := s.dev.strBandRows m
     let here := s.dev.blockHeld .RP = false ∧ s.dev.Accepts p (asKind f 3 0) data ∧ f.tag.toNat = m
     let row := f.offset.toNat / 65536; let byte := f.offset.toNat % 65536; let rows := f.arg0.toNat / 65536
     let w := f.arg0.toNat % 65536
     let fits := s.dev.fld (R.SH_STR_CTRL_EN m) = 1 ∧ row + rows ≤ size ∧ byte + w ≤ bytes ∧
         (0 < rows → (row + rows - 1) / band = row / band)
     let d := (f.frame.toNat + 65536 - s.dev.strFrame m) % 65536
     let shut := ((s.dev.stream m).now[row / band]?.map (·.closed)).getD false
     let sound := here ∧ fits ∧ f.poison = false
     sound ∧ (32768 ≤ d ∨ d = 0 ∧ shut = true)) ∧
    (let s : State := st (tileStream 1 0 1 0x40 32 ring); let m : Fin 16 := 2; let p : Fin 2 := 1
     let f : RingFrame := { tile with flags := 1 }; let data : List Byte := ({ tile with flags := 1 }).payload
     let size := s.dev.strRows m; let bytes := s.dev.strRowBytes m; let band := s.dev.strBandRows m
     let here := s.dev.blockHeld .RP = false ∧ s.dev.Accepts p (asKind f 3 0) data ∧ f.tag.toNat = m
     let row := f.offset.toNat / 65536; let byte := f.offset.toNat % 65536; let rows := f.arg0.toNat / 65536
     let w := f.arg0.toNat % 65536
     let fits := s.dev.fld (R.SH_STR_CTRL_EN m) = 1 ∧ row + rows ≤ size ∧ byte + w ≤ bytes ∧
         (0 < rows → (row + rows - 1) / band = row / band)
     here ∧ fits ∧ f.poison = true) ∧
    (let s : State := st (tileStream 1 0 1 0x40 32 ring); let m : Fin 16 := 2; let p : Fin 2 := 1
     let f : RingFrame := { tile with frame := 2 }; let data : List Byte := ({ tile with frame := 2 }).payload
     let size := s.dev.strRows m; let bytes := s.dev.strRowBytes m; let band := s.dev.strBandRows m
     let here := s.dev.blockHeld .RP = false ∧ s.dev.Accepts p (asKind f 3 0) data ∧ f.tag.toNat = m
     let row := f.offset.toNat / 65536; let byte := f.offset.toNat % 65536; let rows := f.arg0.toNat / 65536
     let w := f.arg0.toNat % 65536
     let fits := s.dev.fld (R.SH_STR_CTRL_EN m) = 1 ∧ row + rows ≤ size ∧ byte + w ≤ bytes ∧
         (0 < rows → (row + rows - 1) / band = row / band)
     let d := (f.frame.toNat + 65536 - s.dev.strFrame m) % 65536; let sound := here ∧ fits ∧ f.poison = false
     sound ∧ 2 ≤ d ∧ d < 32768) ∧
    (let s : State := st (tileStream 1 0 1 0x40 32 ring); let m : Fin 16 := 2; let p : Fin 2 := 1
     let f : RingFrame := { tile with owner := 3 }; let data : List Byte := ({ tile with owner := 3 }).payload
     let c : Clearing := clearing1; let why : Nat × Nat := (1, 1); let size := s.dev.strRows m
     let bytes := s.dev.strRowBytes m; let band := s.dev.strBandRows m; let off := s.dev.fld (R.SH_STR_BUF_OFF_OFF m)
     let stride := s.dev.fld (R.SH_STR_BUF_STRIDE_STRIDE m)
     let clr := s.dev.clearings.find? (·.number == s.dev.fld (R.SH_STR_CTRL_CLEARING m))
     let here := s.dev.blockHeld .RP = false ∧ s.dev.Accepts p (asKind f 3 0) data ∧ f.tag.toNat = m
     let row := f.offset.toNat / 65536; let byte := f.offset.toNat % 65536; let rows := f.arg0.toNat / 65536
     let w := f.arg0.toNat % 65536
     let fits := s.dev.fld (R.SH_STR_CTRL_EN m) = 1 ∧ row + rows ≤ size ∧ byte + w ≤ bytes ∧
         (0 < rows → (row + rows - 1) / band = row / band)
     let d := (f.frame.toNat + 65536 - s.dev.strFrame m) % 65536
     let shut := ((s.dev.stream m).now[row / band]?.map (·.closed)).getD false
     let sound := here ∧ fits ∧ f.poison = false; let taken := sound ∧ (d = 0 ∧ shut = false ∨ d = 1)
     let at0 := (clr.map (·.base)).getD 0 + off + f.frame.toNat % 2 * stride + byte
     let refused := if s.dev.ringClosed c then some (4, c.number) else
         (s.dev.refusal (probe p at0 true)).or (if c.owner = f.owner.toNat then none else some (1, c.number))
     taken ∧ clr = some c ∧ refused = some why) := by decide +kernel

theorem wit_StreamsAndSources_Sources :
    (let s : State := st (sourcing 0 0 9 1 0 7 100 ring); let k : Fin 8 := 2
     let on := s.dev.fld (R.SH_SRC_CTRL_EN k) = 1
     s.dev.blockHeld .SH = false ∧ (¬ on)) ∧
    (let s : State := st (sourcing 1 1 9 1 0 7 100 ring); let k : Fin 8 := 2
     let on := s.dev.fld (R.SH_SRC_CTRL_EN k) = 1
     s.dev.blockHeld .SH = false ∧ on ∧ s.dev.fld (R.SH_SRC_STATE_BUSY k) = 1) ∧
    (let s : State := st (sourcing 1 0 9 1 0 7 100 ring); let k : Fin 8 := 2; let n : Nat := 1
     let c : Clearing := clearing1; let dest := s.dev.fld (R.SH_SRC_CTRL_DEST k)
     let off := s.dev.fld (R.SH_SRC_OFF_OFF k); let pitch := s.dev.fld (R.SH_SRC_PITCH_PITCH k)
     let rows := s.dev.fld (R.SH_SRC_SIZE_ROWS k); let bytes := s.dev.fld (R.SH_SRC_SIZE_ROW_BYTES k)
     let clr := s.dev.clearings.find? (·.number == s.dev.fld (R.SH_SRC_CLR_CLEARING k))
     let on := s.dev.fld (R.SH_SRC_CTRL_EN k) = 1; let idle := on ∧ s.dev.fld (R.SH_SRC_STATE_BUSY k) = 0
     let other := idle ∧ dest ≠ 0 ∧ dest ≠ s.dev.unitAddr; let named := other ∧ clr = some c
     let refused := s.dev.refusal (probe ((s.dev.routeOf dest).getD 1) c.base false) ≠ none
     let allowed := named ∧ ¬ refused; let inside := off + (rows - 1) * pitch + bytes ≤ c.size
     let plan := Dev.tilePlan rows bytes (s.dev.fld (R.SH_SRC_CTRL_BAND_ROWS_M1 k) + 1) (if c.isProtected then 9136 else 9152)
     let reads := plan.head?.toList.flatMap fun x => (List.range x.rows).flatMap fun i =>
         readRequests (portRequester n) (c.base + off + (x.row + i) * pitch + x.byte) x.bytes (.sourceRead k)
     let goes := allowed ∧ inside ∧ s.dev.routeOf dest = some n
     s.dev.blockHeld .SH = false ∧ goes ∧ plan ≠ [] ∧ ((∀ x ∈ reads, s.dev.Passes x))) ∧
    (let s : State := st (sourcing 1 0 5 1 0 7 100 ring); let k : Fin 8 := 2
     let dest := s.dev.fld (R.SH_SRC_CTRL_DEST k); let on := s.dev.fld (R.SH_SRC_CTRL_EN k) = 1
     let idle := on ∧ s.dev.fld (R.SH_SRC_STATE_BUSY k) = 0
     s.dev.blockHeld .SH = false ∧ idle ∧ (dest = 0 ∨ dest = s.dev.unitAddr)) ∧
    (let s : State := st (sourcing 1 0 9 99 0 7 100 ring); let k : Fin 8 := 2
     let dest := s.dev.fld (R.SH_SRC_CTRL_DEST k)
     let clr := s.dev.clearings.find? (·.number == s.dev.fld (R.SH_SRC_CLR_CLEARING k))
     let on := s.dev.fld (R.SH_SRC_CTRL_EN k) = 1; let idle := on ∧ s.dev.fld (R.SH_SRC_STATE_BUSY k) = 0
     let other := idle ∧ dest ≠ 0 ∧ dest ≠ s.dev.unitAddr
     s.dev.blockHeld .SH = false ∧ other ∧ clr = none) ∧
    (let s : State := st (sourcing 1 0 9 1 0xFFFFF 7 100 ring); let k : Fin 8 := 2; let c : Clearing := clearing1
     let dest := s.dev.fld (R.SH_SRC_CTRL_DEST k); let off := s.dev.fld (R.SH_SRC_OFF_OFF k)
     let pitch := s.dev.fld (R.SH_SRC_PITCH_PITCH k); let rows := s.dev.fld (R.SH_SRC_SIZE_ROWS k)
     let bytes := s.dev.fld (R.SH_SRC_SIZE_ROW_BYTES k)
     let clr := s.dev.clearings.find? (·.number == s.dev.fld (R.SH_SRC_CLR_CLEARING k))
     let on := s.dev.fld (R.SH_SRC_CTRL_EN k) = 1; let idle := on ∧ s.dev.fld (R.SH_SRC_STATE_BUSY k) = 0
     let other := idle ∧ dest ≠ 0 ∧ dest ≠ s.dev.unitAddr; let named := other ∧ clr = some c
     let refused := s.dev.refusal (probe ((s.dev.routeOf dest).getD 1) c.base false) ≠ none
     let allowed := named ∧ ¬ refused; let inside := off + (rows - 1) * pitch + bytes ≤ c.size
     s.dev.blockHeld .SH = false ∧ allowed ∧ (¬ inside)) ∧
    (let s : State := st (sourcing 1 0 9 1 0 0 100 ring); let k : Fin 8 := 2; let n : Nat := 1
     let c : Clearing := clearing1; let dest := s.dev.fld (R.SH_SRC_CTRL_DEST k)
     let off := s.dev.fld (R.SH_SRC_OFF_OFF k); let pitch := s.dev.fld (R.SH_SRC_PITCH_PITCH k)
     let rows := s.dev.fld (R.SH_SRC_SIZE_ROWS k); let bytes := s.dev.fld (R.SH_SRC_SIZE_ROW_BYTES k)
     let clr := s.dev.clearings.find? (·.number == s.dev.fld (R.SH_SRC_CLR_CLEARING k))
     let on := s.dev.fld (R.SH_SRC_CTRL_EN k) = 1; let idle := on ∧ s.dev.fld (R.SH_SRC_STATE_BUSY k) = 0
     let other := idle ∧ dest ≠ 0 ∧ dest ≠ s.dev.unitAddr; let named := other ∧ clr = some c
     let refused := s.dev.refusal (probe ((s.dev.routeOf dest).getD 1) c.base false) ≠ none
     let allowed := named ∧ ¬ refused; let inside := off + (rows - 1) * pitch + bytes ≤ c.size
     let plan := Dev.tilePlan rows bytes (s.dev.fld (R.SH_SRC_CTRL_BAND_ROWS_M1 k) + 1) (if c.isProtected then 9136 else 9152)
     let goes := allowed ∧ inside ∧ s.dev.routeOf dest = some n
     s.dev.blockHeld .SH = false ∧ goes ∧ plan = []) ∧
    (let s : State := st (sourcing 1 0 9 1 0 7 100 (unsafeStacks ring)); let k : Fin 8 := 2; let n : Nat := 1
     let c : Clearing := clearing1; let dest := s.dev.fld (R.SH_SRC_CTRL_DEST k)
     let off := s.dev.fld (R.SH_SRC_OFF_OFF k); let pitch := s.dev.fld (R.SH_SRC_PITCH_PITCH k)
     let rows := s.dev.fld (R.SH_SRC_SIZE_ROWS k); let bytes := s.dev.fld (R.SH_SRC_SIZE_ROW_BYTES k)
     let clr := s.dev.clearings.find? (·.number == s.dev.fld (R.SH_SRC_CLR_CLEARING k))
     let on := s.dev.fld (R.SH_SRC_CTRL_EN k) = 1; let idle := on ∧ s.dev.fld (R.SH_SRC_STATE_BUSY k) = 0
     let other := idle ∧ dest ≠ 0 ∧ dest ≠ s.dev.unitAddr; let named := other ∧ clr = some c
     let refused := s.dev.refusal (probe ((s.dev.routeOf dest).getD 1) c.base false) ≠ none
     let allowed := named ∧ ¬ refused; let inside := off + (rows - 1) * pitch + bytes ≤ c.size
     let plan := Dev.tilePlan rows bytes (s.dev.fld (R.SH_SRC_CTRL_BAND_ROWS_M1 k) + 1) (if c.isProtected then 9136 else 9152)
     let reads := plan.head?.toList.flatMap fun x => (List.range x.rows).flatMap fun i =>
         readRequests (portRequester n) (c.base + off + (x.row + i) * pitch + x.byte) x.bytes (.sourceRead k)
     let goes := allowed ∧ inside ∧ s.dev.routeOf dest = some n
     s.dev.blockHeld .SH = false ∧ goes ∧ ((∃ x ∈ reads.head?, s.dev.fs.tagFree x = true ∧
     s.dev.fs.waiting.any x.sameSource = false ∧ ¬ s.dev.Passes x))) ∧
    (let s : State := st (sourcing 1 0 9 1 0 7 100 (ringed 0 0)); let k : Fin 8 := 2; let c : Clearing := clearing1
     let dest := s.dev.fld (R.SH_SRC_CTRL_DEST k); let off := s.dev.fld (R.SH_SRC_OFF_OFF k)
     let pitch := s.dev.fld (R.SH_SRC_PITCH_PITCH k); let rows := s.dev.fld (R.SH_SRC_SIZE_ROWS k)
     let bytes := s.dev.fld (R.SH_SRC_SIZE_ROW_BYTES k)
     let clr := s.dev.clearings.find? (·.number == s.dev.fld (R.SH_SRC_CLR_CLEARING k))
     let on := s.dev.fld (R.SH_SRC_CTRL_EN k) = 1; let idle := on ∧ s.dev.fld (R.SH_SRC_STATE_BUSY k) = 0
     let other := idle ∧ dest ≠ 0 ∧ dest ≠ s.dev.unitAddr; let named := other ∧ clr = some c
     let refused := s.dev.refusal (probe ((s.dev.routeOf dest).getD 1) c.base false) ≠ none
     let allowed := named ∧ ¬ refused; let inside := off + (rows - 1) * pitch + bytes ≤ c.size
     s.dev.blockHeld .SH = false ∧ allowed ∧ inside ∧ s.dev.routeOf dest = none) ∧
    (let s : State := st (sourcing 1 0 9 1 0 7 100 ({ ring with fp := { floorplan with clearings := [{ clearing1 with attr := 0 }] } }))
     let k : Fin 8 := 2; let c : Clearing := { clearing1 with attr := 0 }
     let dest := s.dev.fld (R.SH_SRC_CTRL_DEST k)
     let clr := s.dev.clearings.find? (·.number == s.dev.fld (R.SH_SRC_CLR_CLEARING k))
     let on := s.dev.fld (R.SH_SRC_CTRL_EN k) = 1; let idle := on ∧ s.dev.fld (R.SH_SRC_STATE_BUSY k) = 0
     let other := idle ∧ dest ≠ 0 ∧ dest ≠ s.dev.unitAddr; let named := other ∧ clr = some c
     let refused := s.dev.refusal (probe ((s.dev.routeOf dest).getD 1) c.base false) ≠ none
     s.dev.blockHeld .SH = false ∧ named ∧ refused) := by decide +kernel

theorem wit_ShapersAndAlmanacs :
    (let s : State := st (almanacked 5000 5 0 ring); let p : Fin 2 := 1; let open' := s.dev.blockHeld .SH = false
     let count := s.dev.fld (R.SH_ALM_CTRL_PEND_COUNT p); let bank := s.dev.pendBank p
     let e := s.dev.almCheck p bank count; let on := s.dev.fld (R.SH_ALM_CTRL_CAL p); let now := s.dev.calNow on
     let base := nearestTime now (s.dev.fld (R.SH_ALM_BASE_S_S p)) (s.dev.fld (R.SH_ALM_BASE_NS_NS p))
     let lag := calDiff ((now + 1000 * nsUnits) % calWrap) base
     open' ∧ e = 0 ∧ lag ≤ 0 ∧ (s.dev.almanac p).pending = none ∧ s.dev.fld (R.SH_ALM_STATE_RUNNING p) = 0) ∧
    (let s : State := st (pendingAlmanac 1); let p : Fin 2 := 1; let at' : Nat := 7 * secUnits; let cal : Nat := 1
     let k : Nat := 2; let open' := s.dev.blockHeld .SH = false; let count := s.dev.fld (R.SH_ALM_CTRL_PEND_COUNT p)
     let bank := s.dev.pendBank p; let e := s.dev.almCheck p bank count
     open' ∧ e ≠ 0 ∧ (s.dev.almanac p).pending = some (at', cal, k) ∧ s.dev.fld (R.SH_ALM_STATE_RUNNING p) = 1) ∧
    (let s : State := st (almanacked 5000 0 0 ring); let p : Fin 2 := 1; let open' := s.dev.blockHeld .SH = false
     let count := s.dev.fld (R.SH_ALM_CTRL_PEND_COUNT p); let bank := s.dev.pendBank p
     let e := s.dev.almCheck p bank count; let on := s.dev.fld (R.SH_ALM_CTRL_CAL p); let now := s.dev.calNow on
     let base := nearestTime now (s.dev.fld (R.SH_ALM_BASE_S_S p)) (s.dev.fld (R.SH_ALM_BASE_NS_NS p))
     let lag := calDiff ((now + 1000 * nsUnits) % calWrap) base
     open' ∧ e = 0 ∧ 0 < lag) := by decide +kernel

/-! ### Witnesses: time, pins, interrupts and the board -/

/-- Both ports of TS are on; calendar x is in a state, with a port role each. -/
def clocked (x state port0 port1 : Nat) : Dev := ring.setFlds [(R.TS_CALA_CTRL_MODE, 2), (R.TS_CALB_CTRL_MODE, 1),
  (R.TS_CAL_STATE_STATE x, state), (R.TS_CAL_STATE_PORT0 x, port0), (R.TS_CAL_STATE_PORT1 x, port1),
    (R.TS_RP_CFG_EN 0, 1),
  (R.TS_RP_CFG_EN 1, 1), (R.TS_CALB_CTRL_DOMAIN, 1), (R.TS_CLOCK_ID_LO_ID, 0x777), (R.TS_CLOCK_ID_HI_ID, 0)]

/-- A time message 5 of clock 0x1234, in calendar A's domain. -/
def timeMsg : TimeMsg := ⟨0, ⟨0x1234, 3⟩, 5, false, 0, 100, 77, ⟨0x777, 2⟩⟩

def toldTwice : TimeMsg := { timeMsg with twoStep := true }

def announced (clock : Nat) : Announce := ⟨0, ⟨BitVec.ofNat 64 clock, 3⟩, 7, 0x55, 10, 6, 0x21, 100, 128, 0⟩

def twoStep : TwoStep := ⟨5, 0x1234, 3, 99999999999, -700⟩

def exchanged (got : Option (Nat × Int)) : Exchange := ⟨5, 123456, got⟩

/-- A two-step Sync waits on port 0 for its Follow_Up. -/
def syncWaits : Dev :=
  let d := clocked 0 1 9 5
  { d with ts := { d.ts with cals := upd d.ts.cals 0 fun c =>
      { c with ports := upd c.ports 0 fun q => { q with sync := some twoStep } } } }

/-- A peer delay exchange is open on port 0. -/
def measuring (e : Exchange) : Dev :=
  let d := clocked 0 1 9 5
  { d with ts := { d.ts with ports := upd d.ts.ports 0 fun q => { q with exchange := some e } } }

/-- Calendar 0 masters both ports and has been given a hint. -/
def hinted : Dev :=
  let d := (clocked 0 1 6 6).setFld (R.TS_CAL_HINT_AGE_VALID 0) 1
  { d with ts := { d.ts with cals := upd d.ts.cals 0 fun c => { c with hint := some ⟨77, 999999999, 5, 3⟩ } } }

/-- Pin 47 in a mode, with its width, its period, its START second and its SKIP_LATE. -/
def pinned (mode width period start skip : Nat) (d : Dev) : Dev := d.setFlds [(R.EV_CTRL_MODE 47, mode),
  (R.EV_WIDTH_NS 47, width), (R.EV_PERIOD_NS_NS 47, period), (R.EV_COUNT_COUNT 47, 3), (R.EV_START_S_S 47, start),
  (R.EV_CTRL_SKIP_LATE 47, skip)]

/-- A schedule of three pulses, at pulse k; its pulse is high where it has an end. -/
def pulses (k : Nat) (off : Option Nat) : Schedule :=
  ⟨1000 * fineNs, 100 * fineNs + 7, 15 * fineNs, some 3, k, 0, off, false⟩

/-- Pin 47 runs a schedule, holds captures, and may have a notice not sent yet. -/
def pinBusy (q : Option Schedule) (fifo : List (Nat × Bool)) (unsent : Bool) (d : Dev) : Dev :=
  let d := { d with ev := upd d.ev 47 fun e => { e with schedule := q, fifo := fifo, notice := if unsent then some 5 else none } }
  if unsent then { d with sh := { d.sh with waiting := [(1, .device { frame with kind := 7, src := 5, txn := 5 })] } } else d

def captured (n : Nat) : List (Nat × Bool) := List.replicate n (77, true)

/-- Target 3 of an interrupt controller whose sources 5 and 9 go to it. -/
def interrupting (inflight : List (List Nat)) (stack : List StackEntry) (d : Dev) : Dev :=
  { (d.setFlds [(⟨R.IC_EN_w 0, 5, 5⟩, 1), (R.IC_SRCs_PRIO 5, 2), (⟨R.IC_PEND_w 0, 5, 5⟩, 1)]) with
    ic := { d.ic with inflight := inflight, targets := upd d.ic.targets 3 fun _ => ⟨stack, false, 0, false⟩ }
    fp := { floorplan with irqMap := [(5, 3), (9, 3)] } }

/-- Coalescing group 7 has counted since 5 us, with a time of 3 us. -/
def gathering : Dev :=
  let d := (interrupting [] [] based).setFld (R.IC_COALg_TIME_US 6) 3
  { d with ic := { d.ic with groups := upd d.ic.groups 7 fun g => { g with since := some 5, isOpen := false } } }

def msix (d : Dev) : Dev := { d with ic := { d.ic with msixEnable := true } }

theorem wit_SnapshotLatchesAllTimes :
    let s : State := st based; let i := 1; s.dev.blockHeld .TS = false ∧ i < 2 := by decide +kernel

theorem wit_CalendarsAndHints_Calendars :
    (let s : State := st (clocked 0 1 6 6); let x : Fin 2 := 0; let unlocked := s.dev.calState x ≠ 2
     let set := (s.dev.get64 (R.TS_CAL_SET_S_LO x) (R.TS_CAL_SET_S_HI x) * secUnits +
         s.dev.fld (R.TS_CAL_SET_NS_NS x) * nsUnits) % calWrap
     let by' := signed 32 (s.dev.fld (R.TS_CAL_STEP_S_STEP x)) * 1000000000 + signed 32 (s.dev.fld (R.TS_CAL_STEP_NS_STEP x))
     let step := (((s.dev.calNow x : Int) + by' * nsUnits) % calWrap).toNat; let c := (.calStep 0, step)
     s.dev.blockHeld .TS = false ∧ c ∈ [(Instr.calSet x, set), (.calStep x, step)] ∧ unlocked) ∧
    (let s : State := st (clocked 0 2 6 6); let x : Fin 2 := 0; let unlocked := s.dev.calState x ≠ 2
     let c := (.calStep 0)
     s.dev.blockHeld .TS = false ∧ c ∈ [Instr.calSet x, .calStep x] ∧ (¬ unlocked)) := by decide +kernel

theorem wit_CalendarsAndHints_ActiveViewAndHints :
    (let s : State := st (based.setFlds [(R.TS_CTRL_AUTO_ACTIVE, 1), (R.TS_STATUS_ACTIVE_NOW, 0)])
     s.dev.blockHeld .TS = false ∧ s.dev.fld R.TS_CTRL_AUTO_ACTIVE = 1) ∧
    (let s : State := st (based.setFlds [(R.TS_CTRL_AUTO_ACTIVE, 0), (R.TS_STATUS_ACTIVE_NOW, 0)])
     let x : Fin 2 := 0
     s.dev.blockHeld .TS = false ∧ s.dev.fld R.TS_CTRL_AUTO_ACTIVE = 0 ∧ s.dev.activeNow = x) ∧
    (let s : State := st (based.setFlds [(R.TS_CTRL_AUTO_ACTIVE, 0), (R.TS_STATUS_ACTIVE_NOW, 1)])
     let x : Fin 2 := 0
     s.dev.blockHeld .TS = false ∧ s.dev.fld R.TS_CTRL_AUTO_ACTIVE = 0 ∧ s.dev.activeNow ≠ x) := by decide +kernel

theorem wit_TimeMessages_TimeMessagesReceived :
    (let s : State := st (measuring (exchanged none)); let p : Fin 2 := 0; let x : Fin 2 := 0
     let a : Announce := announced 0x55; let m : TimeMsg := { timeMsg with requester := ⟨0x777, 1⟩ }
     let e : Exchange := exchanged none; let w : TwoStep := twoStep; let on := s.dev.fld (R.TS_RP_CFG_EN p) = 1
     let alone := on ∧ s.dev.calsOf a.domain.toNat = [x.val]; let own := a.source.clock.toNat = s.dev.clockId
     let mine := on ∧ s.dev.calsOf m.domain.toNat = [x.val]
     let matched := (s.dev.tsPort p).exchange = some e ∧ e.seq = m.seq.toNat ∧ m.requester = s.dev.portId p
     let port := fun (d : Dev) => at' (d.cal x).ports p ⟨[], none⟩; let slave := s.dev.slavePort x = some p.val
     s.dev.blockHeld .RP = false ∧ s.dev.linkUp p = true ∧ s.dev.rxBuffered p + 82 ≤ 524288 ∧ mine ∧ slave ∧
     m.twoStep = false ∧ ((port s.dev).sync = none ∨ (port s.dev).sync = some w ∧ ¬ (w.seq = m.seq.toNat ∧
     w.clock = m.source.clock.toNat ∧ w.port = m.source.port.toNat)) ∧ alone ∧ (¬ own) ∧ matched ∧ e.got = none) ∧
    (let s : State := st (measuring (exchanged (some (777777, -5)))); let p : Fin 2 := 0; let x : Fin 2 := 0
     let m : TimeMsg := { toldTwice with requester := ⟨0x777, 1⟩ }; let e : Exchange := exchanged (some (777777, -5))
     let t4 : Nat := 777777; let part : Int := -5; let on := s.dev.fld (R.TS_RP_CFG_EN p) = 1
     let mine := on ∧ s.dev.calsOf m.domain.toNat = [x.val]
     let matched := (s.dev.tsPort p).exchange = some e ∧ e.seq = m.seq.toNat ∧ m.requester = s.dev.portId p
     let slave := s.dev.slavePort x = some p.val
     s.dev.blockHeld .RP = false ∧ s.dev.linkUp p = true ∧ s.dev.rxBuffered p + 82 ≤ 524288 ∧ mine ∧ slave ∧
     m.twoStep = true ∧ matched ∧ e.got = some (t4, part)) ∧
    (let s : State := st (clocked 0 1 9 5); let p : Fin 2 := 0
     let a : Announce := { announced 0x55 with domain := 9 }; let m : TimeMsg := { timeMsg with domain := 9 }
     let on := s.dev.fld (R.TS_RP_CFG_EN p) = 1
     let msgs := [Instr.syncRx p m, .followUpRx p m, .pdelayReqRx p m, .pdelayRespRx p m, .pdelayRespFollowUpRx p m]
     let c := (.syncRx 0 m)
     s.dev.blockHeld .RP = false ∧ s.dev.linkUp p = true ∧ s.dev.rxBuffered p + 82 ≤ 524288 ∧ c ∈ msgs ∧
     (¬ on ∨ s.dev.calsOf m.domain.toNat = []) ∧ (¬ on ∨ s.dev.calsOf a.domain.toNat = [])) ∧
    (let s : State := st (clocked 0 1 6 9); let p : Fin 2 := 0; let x : Fin 2 := 0; let m : TimeMsg := timeMsg
     let e : Exchange := exchanged none; let on := s.dev.fld (R.TS_RP_CFG_EN p) = 1
     let mine := on ∧ s.dev.calsOf m.domain.toNat = [x.val]; let slave := s.dev.slavePort x = some p.val
     s.dev.blockHeld .RP = false ∧ s.dev.linkUp p = true ∧ s.dev.rxBuffered p + 82 ≤ 524288 ∧ mine ∧ (¬ slave) ∧
     ((s.dev.tsPort p).exchange = none ∨ (s.dev.tsPort p).exchange = some e ∧ ¬ (e.seq = m.seq.toNat ∧
     m.requester = s.dev.portId p))) ∧
    (let s : State := st (syncWaits); let p : Fin 2 := 0; let x : Fin 2 := 0; let m : TimeMsg := timeMsg
     let w : TwoStep := twoStep; let on := s.dev.fld (R.TS_RP_CFG_EN p) = 1
     let mine := on ∧ s.dev.calsOf m.domain.toNat = [x.val]; let slave := s.dev.slavePort x = some p.val
     let port := fun (d : Dev) => at' (d.cal x).ports p ⟨[], none⟩
     let waits := (port s.dev).sync = some w ∧ w.seq = m.seq.toNat ∧ w.clock = m.source.clock.toNat ∧
         w.port = m.source.port.toNat
     s.dev.blockHeld .RP = false ∧ s.dev.linkUp p = true ∧ s.dev.rxBuffered p + 82 ≤ 524288 ∧ mine ∧ slave ∧ waits) ∧
    (let s : State := st (clocked 0 1 9 5); let p : Fin 2 := 0; let x : Fin 2 := 0
     let a : Announce := announced 0x777; let on := s.dev.fld (R.TS_RP_CFG_EN p) = 1
     let alone := on ∧ s.dev.calsOf a.domain.toNat = [x.val]; let own := a.source.clock.toNat = s.dev.clockId
     s.dev.blockHeld .RP = false ∧ s.dev.linkUp p = true ∧ s.dev.rxBuffered p + 82 ≤ 524288 ∧ alone ∧ own) :=
  by decide +kernel

theorem wit_TimeMessages_TimeMessagesSent :
    (let s : State := st (clocked 0 1 6 6); let x : Fin 2 := 0; let p : Fin 2 := 0
     let can := s.dev.fld (R.TS_RP_CFG_EN p) = 1 ∧ s.dev.linkUp p = true; let master := can ∧ s.dev.portState x p = 6
     let hinted := s.dev.fld (R.TS_CAL_HINT_AGE_VALID x) = 1 ∧ (s.dev.cal x).hint ≠ none
     s.dev.blockHeld .TS = false ∧ master ∧ (¬ hinted) ∧ can ∧ s.dev.calMode x ≠ 0 ∧ s.dev.calState x ≠ 2) ∧
    (let s : State := st ((clocked 0 1 9 9).setFld R.TS_CALA_CTRL_MODE 0); let x : Fin 2 := 0; let p : Fin 2 := 0
     let can := s.dev.fld (R.TS_RP_CFG_EN p) = 1 ∧ s.dev.linkUp p = true; let master := can ∧ s.dev.portState x p = 6
     s.dev.blockHeld .TS = false ∧ (¬ master) ∧ (¬ can ∨ s.dev.calMode x = 0) ∧ s.dev.calMode x = 0) ∧
    (let s : State := st (clocked 0 2 9 6); let x : Fin 2 := 0; s.dev.blockHeld .TS = false ∧ s.dev.calState x = 2) ∧
    (let x : Fin 2 := 0; let p : Fin 2 := 0; let s : State := st (hinted)
     let can := s.dev.fld (R.TS_RP_CFG_EN p) = 1 ∧ s.dev.linkUp p = true; let master := can ∧ s.dev.portState x p = 6
     let hinted := s.dev.fld (R.TS_CAL_HINT_AGE_VALID x) = 1 ∧ (s.dev.cal x).hint ≠ none
     s.dev.blockHeld .TS = false ∧ master ∧ hinted) := by decide +kernel

theorem wit_EventPins_PinSchedules :
    (let s : State := st (pinned 1 15 40 0 0 based); let n : Fin 48 := 47; let sched := (s.dev.pin n).schedule
     s.dev.blockHeld .EV = false ∧ sched = none ∧ s.dev.pinMode n ≠ 2) ∧
    (let s : State := st (pinned 2 9 40 0 0 based); let n : Fin 48 := 47; let pns := s.dev.fld (R.EV_PERIOD_NS_NS n)
     let wns := s.dev.fld (R.EV_WIDTH_NS n); let count := s.dev.fld (R.EV_COUNT_COUNT n)
     let period := if pns = 0 then 0 else pns * fineNs + s.dev.fld (R.EV_PERIOD_FRAC_FRAC n)
     let short := wns < 10 ∨ 0 < pns ∧ pns < 40 ∨ 0 < pns ∧ count ≠ 1 ∧ period < (wns + 20) * fineNs
     s.dev.blockHeld .EV = false ∧ s.dev.pinMode n = 2 ∧ short) ∧
    (let s : State := st (pinned 2 15 40 15433 0 based); let n : Fin 48 := 47
     let pns := s.dev.fld (R.EV_PERIOD_NS_NS n); let wns := s.dev.fld (R.EV_WIDTH_NS n)
     let count := s.dev.fld (R.EV_COUNT_COUNT n)
     let period := if pns = 0 then 0 else pns * fineNs + s.dev.fld (R.EV_PERIOD_FRAC_FRAC n)
     let short := wns < 10 ∨ 0 < pns ∧ pns < 40 ∨ 0 < pns ∧ count ≠ 1 ∧ period < (wns + 20) * fineNs
     let cal := s.dev.fld (R.EV_CTRL_CAL n)
     let start := nearestTime (s.dev.viewTime cal) (s.dev.fld (R.EV_START_S_S n)) (s.dev.fld (R.EV_START_NS_NS n)) * 65536
     let ta := s.dev.fineNow cal; let late := fineDiff (start % fineWrap) ta < 200 * fineNs
     let armed := s.dev.pinMode n = 2 ∧ ¬ short
     s.dev.blockHeld .EV = false ∧ armed ∧ (¬ late)) ∧
    (let s : State := st (pinned 2 15 0 0 0 based); let n : Fin 48 := 47; let pns := s.dev.fld (R.EV_PERIOD_NS_NS n)
     let wns := s.dev.fld (R.EV_WIDTH_NS n); let count := s.dev.fld (R.EV_COUNT_COUNT n)
     let period := if pns = 0 then 0 else pns * fineNs + s.dev.fld (R.EV_PERIOD_FRAC_FRAC n)
     let short := wns < 10 ∨ 0 < pns ∧ pns < 40 ∨ 0 < pns ∧ count ≠ 1 ∧ period < (wns + 20) * fineNs
     let cal := s.dev.fld (R.EV_CTRL_CAL n)
     let start := nearestTime (s.dev.viewTime cal) (s.dev.fld (R.EV_START_S_S n)) (s.dev.fld (R.EV_START_NS_NS n)) * 65536
     let ta := s.dev.fineNow cal; let late := fineDiff (start % fineWrap) ta < 200 * fineNs
     let skip := s.dev.fld (R.EV_CTRL_SKIP_LATE n) = 1; let armed := s.dev.pinMode n = 2 ∧ ¬ short
     s.dev.blockHeld .EV = false ∧ armed ∧ late ∧ (¬ skip)) ∧
    (let s : State := st (pinned 2 15 40 0xFFFFFFFF 1 based); let n : Fin 48 := 47
     let pns := s.dev.fld (R.EV_PERIOD_NS_NS n); let wns := s.dev.fld (R.EV_WIDTH_NS n)
     let count := s.dev.fld (R.EV_COUNT_COUNT n)
     let period := if pns = 0 then 0 else pns * fineNs + s.dev.fld (R.EV_PERIOD_FRAC_FRAC n)
     let short := wns < 10 ∨ 0 < pns ∧ pns < 40 ∨ 0 < pns ∧ count ≠ 1 ∧ period < (wns + 20) * fineNs
     let cal := s.dev.fld (R.EV_CTRL_CAL n)
     let start := nearestTime (s.dev.viewTime cal) (s.dev.fld (R.EV_START_S_S n)) (s.dev.fld (R.EV_START_NS_NS n)) * 65536
     let new : Schedule := ⟨start, period, wns * fineNs,
       if pns = 0 then some 1 else if count = 0 then none else some count, 0,
         cal, none, false⟩
     let ta := s.dev.fineNow cal; let late := fineDiff (start % fineWrap) ta < 200 * fineNs
     let skip := s.dev.fld (R.EV_CTRL_SKIP_LATE n) = 1; let kept := Dev.resumeAt new ((ta + 200 * fineNs) % fineWrap)
     let armed := s.dev.pinMode n = 2 ∧ ¬ short
     s.dev.blockHeld .EV = false ∧ armed ∧ late ∧ skip ∧ new.has kept = false) ∧
    (let s : State := st (pinBusy (some (pulses 0 none)) [] false based); let n : Fin 48 := 47
     let q : Schedule := pulses 0 none; let sched := (s.dev.pin n).schedule
     s.dev.blockHeld .EV = false ∧ sched = some q ∧ q.off = none ∧ q.has q.k = true) ∧
    (let s : State := st (pinBusy (some (pulses 0 (some 5))) [] false based); let n : Fin 48 := 47
     let q : Schedule := pulses 0 (some 5); let sched := (s.dev.pin n).schedule
     s.dev.blockHeld .EV = false ∧ sched = some q ∧ q.off ≠ none ∧ q.has q.k = true) ∧
    (let s : State := st (pinBusy (some (pulses 3 none)) [] false based); let n : Fin 48 := 47
     let q : Schedule := pulses 3 none; let sched := (s.dev.pin n).schedule
     s.dev.blockHeld .EV = false ∧ sched = some q ∧ q.off = none ∧ q.has q.k = false) ∧
    (let s : State := st (pinBusy (some (pulses 3 (some 5))) [] false based); let n : Fin 48 := 47
     let q : Schedule := pulses 3 (some 5); let sched := (s.dev.pin n).schedule
     s.dev.blockHeld .EV = false ∧ sched = some q ∧ q.off ≠ none ∧ q.has q.k = false) ∧
    (let s : State := st ((pinned 2 15 40 0 1 based).setFld (R.EV_COUNT_COUNT 47) 0); let n : Fin 48 := 47
     let pns := s.dev.fld (R.EV_PERIOD_NS_NS n); let wns := s.dev.fld (R.EV_WIDTH_NS n)
     let count := s.dev.fld (R.EV_COUNT_COUNT n)
     let period := if pns = 0 then 0 else pns * fineNs + s.dev.fld (R.EV_PERIOD_FRAC_FRAC n)
     let short := wns < 10 ∨ 0 < pns ∧ pns < 40 ∨ 0 < pns ∧ count ≠ 1 ∧ period < (wns + 20) * fineNs
     let cal := s.dev.fld (R.EV_CTRL_CAL n)
     let start := nearestTime (s.dev.viewTime cal) (s.dev.fld (R.EV_START_S_S n)) (s.dev.fld (R.EV_START_NS_NS n)) * 65536
     let new : Schedule := ⟨start, period, wns * fineNs,
       if pns = 0 then some 1 else if count = 0 then none else some count, 0,
         cal, none, false⟩
     let ta := s.dev.fineNow cal; let late := fineDiff (start % fineWrap) ta < 200 * fineNs
     let skip := s.dev.fld (R.EV_CTRL_SKIP_LATE n) = 1; let kept := Dev.resumeAt new ((ta + 200 * fineNs) % fineWrap)
     let armed := s.dev.pinMode n = 2 ∧ ¬ short
     s.dev.blockHeld .EV = false ∧ armed ∧ late ∧ skip ∧ new.has kept = true) := by decide +kernel

theorem wit_EventPins_PinCapture :
    (let s : State := st (pinned 2 15 40 0 0 based); let n : Fin 48 := 47; let fifo := (s.dev.pin n).fifo
     s.dev.blockHeld .EV = false ∧
     ((∀ h < 8, s.dev.fld (R.DP_HPD_CTRL_EN h) = 0 ∨ s.dev.fld (R.DP_HPD_CTRL_SRC h) ≠ n)) ∧ 2 ≤ s.dev.pinMode n ∧
     fifo = []) ∧
    (let s : State := st ((pinBusy none (captured 4) false (pinned 1 15 40 0 0 based)).setFlds [(R.EV_CTRL_EDGE 47, 1),
      (R.EV_CTRL_NOTICE_EN 47, 0)])
     let n : Fin 48 := 47; let e : Nat × Bool := (77, true); let rest : List (Nat × Bool) := captured 3
     let level : Bool := true; let chosen := bit (s.dev.fld (R.EV_CTRL_EDGE n)) (if level then 0 else 1) = true
     let takes := s.dev.pinMode n = 1 ∧ chosen; let fifo := (s.dev.pin n).fifo
     let notes := s.dev.fld (R.EV_CTRL_NOTICE_EN n) = 1
     s.dev.blockHeld .EV = false ∧
     ((∀ h < 8, s.dev.fld (R.DP_HPD_CTRL_EN h) = 0 ∨ s.dev.fld (R.DP_HPD_CTRL_SRC h) ≠ n)) ∧ takes ∧ fifo.length < 16 ∧
     (¬ notes) ∧ fifo = e :: rest) ∧
    (let s : State := st (based); let n : Fin 48 := 47; let level : Bool := true
     let chosen := bit (s.dev.fld (R.EV_CTRL_EDGE n)) (if level then 0 else 1) = true
     s.dev.blockHeld .EV = false ∧
     ((∀ h < 8, s.dev.fld (R.DP_HPD_CTRL_EN h) = 0 ∨ s.dev.fld (R.DP_HPD_CTRL_SRC h) ≠ n)) ∧
     (s.dev.pinMode n = 0 ∨ s.dev.pinMode n = 1 ∧ ¬ chosen)) ∧
    (let s : State := st ((pinBusy none (captured 16) false (pinned 1 15 40 0 0 based)).setFlds [(R.EV_CTRL_EDGE 47, 1),
      (R.EV_CTRL_NOTICE_EN 47, 0)])
     let n : Fin 48 := 47; let level : Bool := true
     let chosen := bit (s.dev.fld (R.EV_CTRL_EDGE n)) (if level then 0 else 1) = true
     let takes := s.dev.pinMode n = 1 ∧ chosen; let fifo := (s.dev.pin n).fifo
     s.dev.blockHeld .EV = false ∧
     ((∀ h < 8, s.dev.fld (R.DP_HPD_CTRL_EN h) = 0 ∨ s.dev.fld (R.DP_HPD_CTRL_SRC h) ≠ n)) ∧ takes ∧ 16 ≤ fifo.length) ∧
    (let s : State := st ((pinBusy none (captured 4) false (pinned 1 15 40 0 0 based)).setFlds [(R.EV_CTRL_EDGE 47, 1),
      (R.EV_CTRL_NOTICE_EN 47, 1)])
     let n : Fin 48 := 47; let level : Bool := true
     let chosen := bit (s.dev.fld (R.EV_CTRL_EDGE n)) (if level then 0 else 1) = true
     let takes := s.dev.pinMode n = 1 ∧ chosen; let fifo := (s.dev.pin n).fifo
     let notes := s.dev.fld (R.EV_CTRL_NOTICE_EN n) = 1
     let unsent := ((s.dev.pin n).notice.map s.dev.noticeUnsent).getD false
     s.dev.blockHeld .EV = false ∧
     ((∀ h < 8, s.dev.fld (R.DP_HPD_CTRL_EN h) = 0 ∨ s.dev.fld (R.DP_HPD_CTRL_SRC h) ≠ n)) ∧ takes ∧ fifo.length < 16 ∧
     notes ∧ unsent = false) ∧
    (let s : State := st ((pinBusy none (captured 4) true (pinned 1 15 40 0 0 based)).setFlds [(R.EV_CTRL_EDGE 47, 1),
      (R.EV_CTRL_NOTICE_EN 47, 1)])
     let n : Fin 48 := 47; let level : Bool := true
     let chosen := bit (s.dev.fld (R.EV_CTRL_EDGE n)) (if level then 0 else 1) = true
     let takes := s.dev.pinMode n = 1 ∧ chosen; let fifo := (s.dev.pin n).fifo
     let notes := s.dev.fld (R.EV_CTRL_NOTICE_EN n) = 1
     let unsent := ((s.dev.pin n).notice.map s.dev.noticeUnsent).getD false
     s.dev.blockHeld .EV = false ∧
     ((∀ h < 8, s.dev.fld (R.DP_HPD_CTRL_EN h) = 0 ∨ s.dev.fld (R.DP_HPD_CTRL_SRC h) ≠ n)) ∧ takes ∧ fifo.length < 16 ∧
     notes ∧ unsent = true) := by decide +kernel

theorem wit_InterruptController :
    (let s : State := st (interrupting [[5, 6]] [] based); let x : Fin 16 := 3; let n : BitVec 10 := 5
     let src : Fin 1024 := 5; let b : List Nat := [5, 6]; let e : StackEntry := ⟨5, 2⟩
     let usable := s.dev.blockHeld .IC = false; let live := usable ∧ (s.dev.icTarget x).fault = false ∧ n ≠ 0x3FF
     let can := usable ∧ s.dev.canClaim x = true ∧ s.dev.bestCandidate x = some src.val
     let first := s.dev.ic.inflight.find? (fun b => b.any (fun e => islandOf e == islandOf src.val))
     first = some b ∧ src.val ∈ b ∧ assigned src = true ∧ can ∧ live ∧
     (s.dev.icTarget x).stack.head?.map (·.src) ≠ some n.toNat) ∧
    (let s : State := st (interrupting [] [⟨5, 2⟩] based); let x : Fin 16 := 3; let n : BitVec 10 := 5
     let src : Fin 1024 := 5; let b : List Nat := []; let e : StackEntry := ⟨5, 2⟩; let rest : List StackEntry := []
     let usable := s.dev.blockHeld .IC = false; let live := usable ∧ (s.dev.icTarget x).fault = false ∧ n ≠ 0x3FF
     let top := (s.dev.icTarget x).stack = e :: rest ∧ e.src = n.toNat
     let first := s.dev.ic.inflight.find? (fun b => b.any (fun e => islandOf e == islandOf src.val))
     first = none ∧ usable ∧ s.dev.canClaim x = false ∧ live ∧ top) ∧
    (let s : State := st (interrupting [[9]] [] based); let src : Fin 1024 := 5; let b : List Nat := [9]
     let e : StackEntry := ⟨5, 2⟩
     let first := s.dev.ic.inflight.find? (fun b => b.any (fun e => islandOf e == islandOf src.val))
     first = some b ∧ src.val ∉ b) ∧
    (let s : State := st (interrupting [] [] based); let x : Fin 16 := 3; let n : BitVec 10 := 0x3FF
     let usable := s.dev.blockHeld .IC = false; let live := usable ∧ (s.dev.icTarget x).fault = false ∧ n ≠ 0x3FF
     usable ∧ (¬ live)) ∧
    (let s : State := st (interrupting [[1020]] [] based); let src : Fin 1024 := 1020; let b : List Nat := [1020]
     let e : StackEntry := ⟨5, 2⟩
     let first := s.dev.ic.inflight.find? (fun b => b.any (fun e => islandOf e == islandOf src.val))
     first = some b ∧ src.val ∈ b ∧ assigned src = false) := by decide +kernel

theorem wit_TargetResetEmptiesStack :
    let s : State := st (interrupting [] [⟨5, 2⟩] based); s.dev.blockHeld .IC = false := by decide +kernel

theorem wit_InterruptDelivery :
    (let s : State := st (gathering); let w : Fin 64 := 3; let g : Fin 32 := 7
     let capable := s.dev.configRetry = false; let grp := s.dev.coal g
     let counts := grp.isOpen = false ∧ grp.since ≠ none ∧ s.dev.fld (R.IC_COALg_TIME_US (g.val - 1)) ≠ 0
     s.dev.blockHeld .IC = false ∧ counts ∧ w.val ≤ 54 ∧ s.dev.wakeLatch w = false ∧ capable ∧
     s.dev.ic.msixEnable = false) ∧
    (let s : State := st (Dev.reset); let w : Fin 64 := 60; let g : Fin 32 := 7
     let capable := s.dev.configRetry = false; let grp := s.dev.coal g
     let counts := grp.isOpen = false ∧ grp.since ≠ none ∧ s.dev.fld (R.IC_COALg_TIME_US (g.val - 1)) ≠ 0
     (¬ counts) ∧ (54 < w.val ∨ s.dev.wakeLatch w = true) ∧ (¬ capable)) ∧
    (let s : State := st (msix gathering); let capable := s.dev.configRetry = false
     capable ∧ s.dev.ic.msixEnable = true) := by decide +kernel

theorem wit_TemperaturesManagementAndTest_Temperatures :
    (let s : State := st (based); let stack := s.dev.blockHeld .FS = false; let por := s.dev.chain.power = .por
     (¬ por) ∧ stack) ∧
    (let s : State := st ({ based with chain := { based.chain with power := .por } })
     let por := s.dev.chain.power = .por
     por) := by decide +kernel

theorem wit_TemperaturesManagementAndTest_ManagementPort :
    (let s : State := st (based); let por := s.dev.chain.power = .por; (¬ por)) ∧
    (let s : State := st ({ based with chain := { based.chain with power := .por } })
     let por := s.dev.chain.power = .por
     por) := by decide +kernel

/-! ### The spec's worked examples -/

/-- R15: the S2.13 pattern 0x6000 reads as −8,192. -/
theorem test_fixed_point : signed 15 0x6000 = -8192 ∧ signed 15 0x3FFF = 16383 ∧ signed 15 0x4000 = -16384 := by
  decide +kernel

/-- R12: HD5_BG_COLOR is reset by the HRST of head 5 and not by that of head 4. -/
theorem test_reset_scope :
    let s := st (based.set (R.HD_BG_COLOR 5 0) 0x1234567)
    (run1 (.hrst 5) s).dev.get (R.HD_BG_COLOR 5 0) = 0 ∧ (run1 (.hrst 4) s).dev.get (R.HD_BG_COLOR 5 0) = 0x1234567 := by
  decide +kernel

/-- Chapter 17: register addresses and their aliases (R116 to R118, R139, R140). -/
theorem test_addresses : R.LE_SRC_BASE 40 1 0 = 0x680108 ∧ decodeBar0 0xE80108 = 0x680108 ∧
    R.HD_BG_COLOR 5 1 = 0x250D00 ∧ decodeBar2 0x4BA000 = (0x250D00, 0) ∧ R.IC_T_CLAIM 3 = 0x80234 ∧
    decodeBar2 0x894 = (0x44, 5) ∧ decodeBar2 0x1000894 = (0x44, 5) ∧ decodeBar2 0x7FFFC = (0x30FFC, 31) :=
  by decide +kernel

/-- R139: a 1 at BAR2 offset 0x894 resets head 5. -/
theorem test_alias_of_a_strobe :
    (run1 (.bitAliasWrite 0x894 1) (st based)).dev.fld ⟨R.SY_RESET_BUSY, 5, 5⟩ = 1 := by decide +kernel

/-- R143, a clear that meets a new event: CH_LOAD_STATUS 0x17000084. -/
def clash : State := run1 (.chLoadDataWrite 0) (st (based.set R.CH_LOAD_STATUS 0x17000084))

theorem test_clear_meets_event : clash.dev.get R.CH_LOAD_STATUS = 0x1800008C ∧
    (let s := run1 (.rsClearWrite (BitVec.ofNat 24 R.CH_LOAD_STATUS) 0x17000004) clash
     s.dev.get R.CH_LOAD_STATUS = 0x1800008C ∧ s.dev.fld R.SY_STALE_CLEAR_STALE_CLEAR = 1 ∧
       (run1 (.rsClearWrite (BitVec.ofNat 24 R.CH_LOAD_STATUS) 0x1800000C) s).dev.get R.CH_LOAD_STATUS = 0x18000080) := by
  decide +kernel

/-- R151: 0x00FF0034 at BAR4 offset 0x2000C makes HD1_BG_COLOR_STG 0x1234ABCD. -/
theorem test_masked_write :
    (run1 (.compatMaskedWrite 0x2000C 0x00FF0034) (st (based.set (R.HD_BG_COLOR 1 1) 0x1256ABCD))).dev.get
      (R.HD_BG_COLOR 1 1) = 0x1234ABCD := by decide +kernel

/-- The one-head image of chapter 02, byte by byte. -/
def oneHead : List Byte :=
  let clearings : List Byte := [0x02, 0x00, 0x10, 0x00, 0x00, 0x00, 0x00, 0x00, 0x00, 0x3c, 0x00, 0x00, 0x00, 0x00, 0x00,
    0x00,
    0x00, 0x00, 0xf5, 0x03, 0x00, 0x00, 0x00, 0x00, 0x01, 0x0c, 0x00, 0x00, 0x00, 0x00, 0xf5, 0x03, 0x00, 0x00, 0xfe,
      0x00,
    0x00, 0x00, 0x00, 0x00]
  let leMap : List Byte := [0x02, 0x00, 0x08, 0x00, 0x00, 0x00, 0x00, 0x00, 0x00, 0x00, 0x80, 0x00, 0x00, 0x00, 0x00,
    0x00, 0x01,
    0x00, 0x40, 0x00, 0x00, 0x00, 0x00, 0x00]
  let canopy : List Byte := [0x01, 0x00, 0x08, 0x00, 0x00, 0x00, 0x00, 0x00, 0x00, 0x00, 0x01, 0x00, 0x00, 0x00, 0x00,
    0x00]
  let heads : List Byte := [0x01, 0x00, 0x10, 0x00, 0x00, 0x00, 0x00, 0x00, 0x00, 0x01, 0x40, 0xff, 0xff, 0x00, 0x03,
    0x00, 0x00,
    0x0f, 0x70, 0x08, 0x00, 0x00, 0x00, 0x00]
  let entry := fun (ty off : Nat) (body : List Byte) =>
    toLe 2 ty ++ toLe 2 0 ++ toLe 4 off ++ toLe 4 body.length ++ toLe 4 (crc32 body)
  let head : List Byte := [0x41, 0x46, 0x50, 0x49, 0x02, 0x00, 0x40, 0x00, 0xe8, 0x00, 0x00, 0x00, 0x16, 0x84, 0xb1,
    0x01, 0x04,
    0x00, 0x00, 0x00, 0x40, 0x00, 0x00, 0x00, 0x07, 0x00, 0x51, 0x20, 0x02, 0x00, 0x03, 0x00] ++ List.replicate 28 0
  head ++ toLe 4 (crc32 head) ++ entry 2 0x80 clearings ++ entry 3 0xA8 leMap ++ entry 4 0xC0 canopy ++
    entry 5 0xD0 heads ++ clearings ++ leMap ++ canopy ++ heads

theorem test_one_head_image :
    oneHead.length = 232 ∧ checkImage oneHead Floorplan.blank true Otp.blank 0 false = none := by decide +kernel

theorem test_one_head_floorplan :
    let f := (merge oneHead Floorplan.blank true).floorplan
    (f.clearings.map fun c => (c.number, c.base, c.size)) = [(0, 0, 0x03F50000), (1, 0x03F50000, 0x00FE0000)] ∧
      f.leMap = [⟨0, 0, 128⟩, ⟨1, 0, 64⟩] ∧ f.canopy = [⟨0, 0, 1, 0⟩] ∧
      (f.heads.map fun h => (h.head, h.mode, h.root, h.linkMax, h.hactMax, h.vactMax)) = [(0, 1, 0x40, 3, 3840, 2160)] := by
  decide +kernel

/-- The same image with ROOT 0x41 (and its CRC to match): code 0x49, section 3, record 0. -/
theorem test_one_head_bad_root :
    let heads := ((oneHead.drop 0xD0).set 10 (0x41 : Byte))
    let image := oneHead.take 0x7C ++ toLe 4 (crc32 heads) ++ (oneHead.drop 0x80).take 0x50 ++ heads
    checkImage image Floorplan.blank true Otp.blank 0 false = some ⟨0x49, 3, 0⟩ := by decide +kernel

/-- Filling a buffer through a window of clearing 1 of that image (R183, R184). -/
def window1 (ctrl : Word) : Dev :=
  (({ based with fp := (merge oneHead Floorplan.blank true).floorplan } : Dev)).set (R.CL_WINn_CTRL 0) ctrl

theorem test_window_addresses : (window1 0x01010001).windowMap 0 0x0440 = (0x03F52440, none) ∧
    stackOf 0x03F52440 = 1 ∧ (window1 0x010107EF).windowMap 0 0x1FC0 = (0x04F2FFC0, none) ∧
    (((window1 0x010107F0).windowMap 0 0).1 = 0x04F30000 ∧ ((window1 0x010107F0).windowMap 0 0).2.map (·.1) = some 3) := by
  decide +kernel

theorem test_window_auto :
    (run1 (.hostWindowWrite 0x1FC0 (.replicate 64 7)) (st (window1 0x01010001))).dev.get (R.CL_WINn_CTRL 0) = 0x01010002 := by
  decide +kernel

/-- The upscaled 4:2:0 layer of chapter 06: LE05 as its register words say. -/
def upscaled : LeCfg :=
  ([(R.LE_FORMAT 5 0, 0x50), (R.LE_SCALE_MODE 5 0, 0x33), (R.LE_STEP 5 0 0, 0x71C72), (R.LE_STEP 5 0 1, 0x71C72),
    (R.LE_INIT 5 0 0, 0xFB8E39), (R.LE_INIT 5 0 1, 0xFB8E39), (R.LE_CROP_SIZE 5 0, 0x02D00500),
      (R.LE_SRC_SIZE 5 0, 0x02D00500),
    (R.LE_PITCH 5 0 0, 1280), (R.LE_PITCH 5 0 1, 1280)].foldl (fun d p => d.set p.1 (BitVec.ofNat 32 p.2)) based).leCfg 5 0

theorem test_upscaled_taps : upscaled.initH = -291271 ∧ upscaled.need = 20480 ∧ LeCfg.phase upscaled.initH = 46 ∧
    (upscaled.hTapsAt 0).map (·.1) = [-4, -3, -2, -1, 0, 1, 2, 3] ∧
    (upscaled.hTapsAt 2879).map (·.1) = [1276, 1277, 1278, 1279, 1280, 1281, 1282, 1283] ∧
    LeCfg.phase (upscaled.initH + 2879 * 466034) = 17 := by decide +kernel

/-- The four-layer composition of chapter 07, in FP16. -/
theorem test_four_layers :
    let le08 : Pixel := .rgba 0x3400 0x3600 0x3800 0x3C00
    let le40 : Pixel := .rgba 0x3600 0x2C00 0x2C00 0x3800
    let le09 : Pixel := .rgba 0x3400 0x3400 0x3400 0x3400
    let le10 : Pixel := .rgba 0x2C00 0x2800 0 0x3000
    let bn08 := blendNode 3 0x8000 le40 le08
    let bn09 := blendNode 3 0x8000 le09 bn08
    bn08 = .rgba 0x3800 0x3400 0x3500 0x3C00 ∧ bn09 = .rgba 0x3900 0x3700 0x37C0 0x3C00 ∧
      blendNode 12 0x8000 le10 bn09 = .rgba 0x3980 0x3780 0x37C0 0x3C00 := by decide +kernel

/-- Nesting on one target (chapter 15): the four sources of T3, SUBBITS 4, every edge latched. -/
def nested (stack : List StackEntry) (pend : List Nat) : Dev :=
  let d : Dev := { based with
    fp := { floorplan with irqMap := [(0x120, 3), (0x080, 3), (0x06D, 3), (0x02B, 3)] }
    ic := { based.ic with targets := upd based.ic.targets 3 fun _ => ⟨stack, false, 0, true⟩ } }
  d.setFlds ([(R.IC_T_CFG_SUBBITS 3, 4)] ++ ([(0x120, 0x40), (0x080, 0x45), (0x06D, 0x83), (0x02B, 0xC0)].flatMap fun p =>
    [(R.IC_SRCs_PRIO p.1, p.2), (⟨R.IC_EN_w (p.1 / 32), p.1 % 32, p.1 % 32⟩, 1)]) ++
    pend.map fun k => (⟨R.IC_PEND_w (k / 32), k % 32, k % 32⟩, 1))

theorem test_nesting_order : (nested [] [0x120, 0x02B]).bestCandidate 3 = some 0x02B ∧
    (nested [] [0x120, 0x06D]).bestCandidate 3 = some 0x06D ∧ (nested [] [0x120, 0x080]).bestCandidate 3 = some 0x080 ∧
    (nested [] [0x120]).bestCandidate 3 = some 0x120 := by decide +kernel

theorem test_nesting_line : (nested [⟨0x02B, 0xC0⟩] [0x120, 0x06D]).canClaim 3 = false ∧
    (run1 (.icComplete 3 0x120) (st (nested [⟨0x06D, 0x83⟩] []))).dev.icTarget 3 = ⟨[⟨0x06D, 0x83⟩], true, 0x120,
      false⟩ := by
  decide +kernel

/-- A late start of an almanac (R440): CHANGE at 300,040 ns after BASE starts the list of 125,000 ns at 375,000 ns. -/
theorem test_almanac_late_start :
    let d := (clocked 0 1 5 9).setFlds [(R.SH_ALM_Bb_Ee_GATES 1 0 0, 0xC0), (R.SH_ALM_Bb_Ee_INTERVAL 1 0 0, 20000),
      (R.SH_ALM_Bb_Ee_GATES 1 0 1, 0xBF), (R.SH_ALM_Bb_Ee_INTERVAL 1 0 1, 105000), (R.SH_ALM_CTRL_PEND_COUNT 1, 2),
      (R.SH_ALM_BASE_S_S 1, 1000), (⟨R.TS_CAL_SET_S_LO 0, 31, 0⟩, 1000), (R.TS_CAL_SET_NS_NS 0, 300040)]
    let t := run1 (.almanacChange 1) (run1 (.calSet 0) (st d))
    (t.dev.almanac 1).pending = some (1000 * secUnits + 375000 * nsUnits, 0, 2) ∧ t.dev.fld ⟨R.SH_STATUS, 4, 4⟩ = 1 := by
  decide +kernel

/-- FIPS 197, appendix C.3: AES-256 of one block, and back. -/
theorem test_aes :
    let keys := aesKeys ((List.range 32).map fun i => BitVec.ofNat 8 i)
    aesEncrypt keys 0x00112233445566778899aabbccddeeff = 0x8ea2b7ca516745bfeafc49904b496089 ∧
      aesDecrypt keys 0x8ea2b7ca516745bfeafc49904b496089 = 0x00112233445566778899aabbccddeeff := by decide +kernel

/-- RFC 3394, section 4.6: 256 bits of key data wrapped with a 256-bit key. -/
theorem test_key_unwrap :
    unwrapKey ((List.range 32).map fun i => BitVec.ofNat 8 i)
      (toBe 40 0x28C9F404C4B810F4CBCCB35CFB87F8263F5786E2D80ED326CBC7F0E71A99F43BFB988B9B7A02DD21) =
      some (toBe 32 0x00112233445566778899AABBCCDDEEFF000102030405060708090A0B0C0D0E0F) := by decide +kernel

/-- FIPS 180-4's example: the digest of "abc". -/
theorem test_sha256 :
    sha256 [0x61, 0x62, 0x63] = toBe 32 0xba7816bf8f01cfea414140de5dae2223b00361a396177a9cb410ff61f20015ad := by
  decide +kernel

end Sys2Proof.Tests
end

section
/-! The rows of the register table (R12). -/
namespace Sys2Proof.Machine

/-- The fields of a row lie in its 32 bits, and no two of them share one. -/
abbrev RegRow.WellFormed (r : RegRow) : Prop :=
  (∀ f ∈ r.fields, f.lo ≤ f.hi ∧ f.hi < 32) ∧ r.fields.Pairwise (fun f g => f.hi < g.lo ∨ g.hi < f.lo)

theorem Block.rows_wellFormed (b : Block) : ∀ r ∈ b.rows, r.WellFormed := by
  cases b <;> decide +kernel

theorem rowIn_wellFormed {b : Block} {n rel : Nat} {r : RegRow} (h : rowIn b n rel = some r) : r.WellFormed := by
  refine b.rows_wellFormed r ?_
  unfold rowIn at h
  split at h
  next q hq =>
    split at h
    · cases h
    · cases h; exact List.mem_of_find?_eq_some hq
  next => cases h

theorem rowOf_wellFormed {a : Nat} {r : RegRow} (h : rowOf a = some r) : r.WellFormed := by
  unfold rowOf at h
  split at h
  · exact rowIn_wellFormed h
  · cases h

/-! Several fields stored into one word. -/

/-- A number with the selected fields of a list at their values. -/
def storeFields (sel : FieldDef → Prop) [DecidablePred sel] (val : FieldDef → Nat) (fs : List FieldDef) (w : Nat) : Nat :=
  fs.foldl (fun acc f => if sel f then setBits acc f.hi f.lo (val f) else acc) w

section StoreFields
variable {sel : FieldDef → Prop} [DecidablePred sel] {val : FieldDef → Nat}

theorem storeFields_cons (f : FieldDef) (fs : List FieldDef) (w : Nat) : storeFields sel val (f :: fs) w =
    storeFields sel val fs (if sel f then setBits w f.hi f.lo (val f) else w) := rfl

theorem storeFields_lt {fs : List FieldDef} (hok : ∀ f ∈ fs, f.lo ≤ f.hi ∧ f.hi < 32) {w : Nat} (hw : w < 2 ^ 32) :
    storeFields sel val fs w < 2 ^ 32 := by
  induction fs generalizing w with
  | nil => exact hw
  | cons g t ih =>
    obtain ⟨⟨hle, hlt⟩, ht⟩ := List.forall_mem_cons.1 hok
    rw [storeFields_cons]
    refine ih ht ?_
    split
    · exact setBits_lt _ _ _ _ 32 hle hw hlt
    · exact hw

/-- A bit in none of the selected fields is not stored. -/
theorem testBit_storeFields_outside {fs : List FieldDef} (hok : ∀ f ∈ fs, f.lo ≤ f.hi ∧ f.hi < 32) {i : Nat}
    (h : ∀ f ∈ fs, sel f → i < f.lo ∨ f.hi < i) (w : Nat) :
    (storeFields sel val fs w).testBit i = w.testBit i := by
  induction fs generalizing w with
  | nil => rfl
  | cons g t ih =>
    obtain ⟨⟨hle, -⟩, ht⟩ := List.forall_mem_cons.1 hok
    obtain ⟨hg, hrest⟩ := List.forall_mem_cons.1 h
    rw [storeFields_cons, ih ht hrest]
    split
    next hs =>
      rw [testBit_setBits _ _ _ _ _ hle]
      rcases hg hs with hi | hi
      · rw [if_pos hi]
      · rw [if_neg (by omega), if_neg (by omega)]
    next => rfl

/-- A bit in a selected field is its value's. -/
theorem testBit_storeFields_inside {fs : List FieldDef} (hok : ∀ f ∈ fs, f.lo ≤ f.hi ∧ f.hi < 32)
    (hd : fs.Pairwise (fun f g => f.hi < g.lo ∨ g.hi < f.lo)) {f : FieldDef} (hf : f ∈ fs) (hs : sel f) {i : Nat}
    (hlo : f.lo ≤ i) (hhi : i ≤ f.hi) (w : Nat) :
    (storeFields sel val fs w).testBit i = (val f).testBit (i - f.lo) := by
  induction fs generalizing w with
  | nil => cases hf
  | cons g t ih =>
    obtain ⟨⟨hle, -⟩, ht⟩ := List.forall_mem_cons.1 hok
    obtain ⟨hg, hdt⟩ := List.pairwise_cons.1 hd
    rw [storeFields_cons]
    rcases List.mem_cons.1 hf with rfl | hf
    · rw [testBit_storeFields_outside ht (fun q hq _ => by have := hg q hq; omega), if_pos hs,
        testBit_setBits _ _ _ _ _ hle, if_neg (by omega), if_pos hhi]
    · exact ih ht hdt hf _

/-- A selected field reads its value. -/
theorem bits_storeFields_selected {fs : List FieldDef} (hok : ∀ f ∈ fs, f.lo ≤ f.hi ∧ f.hi < 32)
    (hd : fs.Pairwise (fun f g => f.hi < g.lo ∨ g.hi < f.lo)) {f : FieldDef} (hf : f ∈ fs) (hs : sel f) (w : Nat) :
    bits (storeFields sel val fs w) f.hi f.lo = val f % 2 ^ (f.hi + 1 - f.lo) := by
  refine Nat.eq_of_testBit_eq fun i => ?_
  rw [testBit_bits, Nat.testBit_mod_two_pow]
  by_cases hi : i < f.hi + 1 - f.lo
  · rw [testBit_storeFields_inside hok hd hf hs (by omega) (by omega), Nat.add_sub_cancel_left]
  · simp [hi]

/-- Bits of which none lies in a selected field stay. -/
theorem bits_storeFields_apart {fs : List FieldDef} (hok : ∀ f ∈ fs, f.lo ≤ f.hi ∧ f.hi < 32) {hi lo : Nat}
    (h : ∀ f ∈ fs, sel f → hi < f.lo ∨ f.hi < lo) (w : Nat) :
    bits (storeFields sel val fs w) hi lo = bits w hi lo := by
  refine Nat.eq_of_testBit_eq fun i => ?_
  rw [testBit_bits, testBit_bits]
  by_cases hi' : i < hi + 1 - lo
  · rw [testBit_storeFields_outside hok (fun f hf hs => by have := h f hf hs; omega)]
  · simp [hi']

end StoreFields
end Sys2Proof.Machine
end

section
/-! Resets of fields (R11, R12). -/
namespace Sys2Proof.Machine

theorem RegRow.WellFormed.apart {r : RegRow} (h : r.WellFormed) {f g : FieldDef} (hf : f ∈ r.fields) (hg : g ∈ r.fields)
    (hne : f ≠ g) : f.hi < g.lo ∨ g.hi < f.lo := by
  obtain ⟨-, hd⟩ := h
  generalize r.fields = fs at hf hg hd
  induction hd with
  | nil => cases hf
  | cons hhead _ ih =>
    rcases List.mem_cons.1 hf with rfl | hft
    · rcases List.mem_cons.1 hg with rfl | hgt
      · exact absurd rfl hne
      · exact hhead g hgt
    · rcases List.mem_cons.1 hg with rfl | hgt
      · exact (hhead f hft).symm
      · exact ih hft hgt

theorem setBits_bits_self (n hi lo : Nat) (h : lo ≤ hi) : setBits n hi lo (bits n hi lo) = n := by
  refine Nat.eq_of_testBit_eq fun i => ?_
  rw [testBit_setBits _ _ _ _ _ h, testBit_bits]
  split
  · rfl
  · split
    · rw [show lo + (i - lo) = i by omega, decide_eq_true (by omega), Bool.true_and]
    · rfl

/-- A reset of a word as a store of its fields. -/
theorem resetFields_toNat {r : RegRow} (hr : r.WellFormed) (hit : ResetClass → Bool) (rst w : Word) :
    (resetFields (some r) hit rst w).toNat =
      storeFields (fun f => hit f.cls) (fun f => bits rst.toNat f.hi f.lo) r.fields w.toNat := by
  obtain ⟨hok, -⟩ := hr
  simp only [resetFields]
  generalize r.fields = fs at hok
  induction fs generalizing w with
  | nil => rfl
  | cons f t ih =>
    obtain ⟨hf, ht⟩ := List.forall_mem_cons.1 hok
    rw [storeFields_cons, List.foldl_cons, ih _ ht]
    split
    · rw [word_of_setBits w ⟨0, f.hi, f.lo⟩ _ hf]
    · rfl

/-- A word at its reset value stays there. -/
theorem resetFields_self {row : Option RegRow} (hr : ∀ r, row = some r → r.WellFormed) (hit : ResetClass → Bool)
    (w : Word) : resetFields row hit w w = w := by
  cases row with
  | none => rfl
  | some r =>
    obtain ⟨hok, -⟩ := hr r rfl
    simp only [resetFields]
    generalize r.fields = fs at hok
    induction fs with
    | nil => rfl
    | cons f t ih =>
      obtain ⟨⟨hle, -⟩, ht⟩ := List.forall_mem_cons.1 hok
      rw [List.foldl_cons, setBits_bits_self _ _ _ hle, BitVec.ofNat_toNat, BitVec.setWidth_eq, ite_self]
      exact ih ht

theorem Dev.get_resetRegs (d : Dev) (rank : Nat) (scope : Nat → Bool) (a : Nat) : (d.resetRegs rank scope).get a =
    if scope a then resetFields (rowOf a) (·.hitBy rank) (resetWord a) (d.get a) else d.get a := by
  change cellAt resetWord (mapCells resetWord _ d.regs) a = _
  rw [cellAt_mapCells]
  split
  · rfl
  next hout =>
    have hd : d.get a = resetWord a := by
      refine cellAt_of_not_mem _ _ _ fun c hc he => hout ?_
      exact List.any_eq_true.2 ⟨c, hc, by simp [he]⟩
    rw [hd, resetFields_self fun r => rowOf_wellFormed, ite_self]

section Fields
variable (d : Dev) (rank : Nat) {scope : Nat → Bool} {a : Nat} {r : RegRow} {f : FieldDef}

theorem Dev.fld_resetRegs_of_hit (hs : scope a = true) (hr : rowOf a = some r) (hf : f ∈ r.fields)
    (hit : f.cls.hitBy rank = true) : (d.resetRegs rank scope).fld ⟨a, f.hi, f.lo⟩ = bits (resetWord a).toNat f.hi f.lo := by
  have hw := rowOf_wellFormed hr
  simp only [Dev.fld, Dev.get_resetRegs, if_pos hs, hr, resetFields_toNat hw]
  rw [bits_storeFields_selected hw.1 hw.2 hf hit, bits, Nat.mod_mod]

theorem Dev.fld_resetRegs_of_not_hit (hr : rowOf a = some r) (hf : f ∈ r.fields) (hit : f.cls.hitBy rank = false) :
    (d.resetRegs rank scope).fld ⟨a, f.hi, f.lo⟩ = d.fld ⟨a, f.hi, f.lo⟩ := by
  have hw := rowOf_wellFormed hr
  simp only [Dev.fld, Dev.get_resetRegs]
  split
  · rw [hr, resetFields_toNat hw]
    refine bits_storeFields_apart hw.1 (fun g hg hhit => ?_) _
    exact hw.apart hf hg fun e => by rw [e] at hit; exact absurd hhit (by simp [hit])
  · rfl

end Fields

/-! CRST (R99, R514). -/
namespace Dev

theorem fld_crstCore_of_ne (d : Dev) {f : Fld} (h : f.addr ≠ R.SY_RESET_CAUSE) :
    d.crstCore.fld f = (d.resetRegs 2 fun _ => true).fld f :=
  fld_event_ne _ _ _ _ h

/-- What a CRST leaves of a field outside SY_RESET_CAUSE. -/
theorem fld_crstCore_field (d : Dev) {a : Nat} {r : RegRow} {f : FieldDef} (ha : a ≠ R.SY_RESET_CAUSE)
    (hr : rowOf a = some r) (hf : f ∈ r.fields) : d.crstCore.fld ⟨a, f.hi, f.lo⟩ =
      if f.cls.hitBy 2 then bits (resetWord a).toNat f.hi f.lo else d.fld ⟨a, f.hi, f.lo⟩ := by
  rw [fld_crstCore_of_ne d ha]
  cases hit : f.cls.hitBy 2 with
  | true => rw [if_pos rfl, d.fld_resetRegs_of_hit 2 rfl hr hf hit]
  | false => rw [if_neg Bool.false_ne_true, d.fld_resetRegs_of_not_hit 2 hr hf hit]

theorem fld_crstCore_cause (d : Dev) : d.crstCore.fld R.SY_RESET_CAUSE_CRST = 1 :=
  fld_event_bit _ _ _ _ (by decide) (by decide)

theorem fld_crstCore_seq (d : Dev) :
    d.crstCore.fld R.SY_RESET_CAUSE_SEQ = (d.fld R.SY_RESET_CAUSE_SEQ + 1) % 256 := by
  have hrow : rowOf R.SY_RESET_CAUSE = rowsSY0[1]? := by decide +kernel
  refine (fld_event_seq _ _ _ (by decide) (by decide)).trans ?_
  exact congrArg (fun x => (x + 1) % 256)
    (d.fld_resetRegs_of_not_hit 2 (f := ⟨"SEQ", 31, 24, .seq, 0, .por⟩) hrow (by decide) (by decide))

/-- A low level on CRST_N that counts. -/
theorem crst_long (d : Dev) {lowNs : Nat} (h : 10000 ≤ lowNs) : d.crst lowNs =
    if d.chain.power = .por then d.setChain fun c => { c with crstLow := true }
    else (d.setChain fun c => { c with crstLow := true }).crstCore := by
  unfold crst
  rw [if_neg (by omega), if_neg (by omega)]
  rfl

theorem crst_short (d : Dev) {lowNs : Nat} (h : lowNs < 1000) : d.crst lowNs = d := if_pos h

/-- From 1 µs to 10 µs a free value decides (R514). -/
theorem crst_between (d : Dev) {lowNs : Nat} (h : 1000 ≤ lowNs) (h' : lowNs < 10000) :
    d.crst lowNs = if Config.crstTaken d.freeCount then d.fresh.crst 10000 else d.fresh := by
  rw [crst_long _ (Nat.le_refl _)]
  unfold crst
  rw [if_neg (by omega), if_pos h']
  rfl

end Dev

theorem exec_crst (lowNs : Nat) (s : State) : exec (.crst lowNs) s = .next { s with dev := s.dev.crst lowNs } := rfl

end Sys2Proof.Machine
open Sys2Proof Sys2Proof.Machine

/-- Settles O8: the fields by `fld_crstCore_field`; what lies outside the registers stands in `crstCore` itself. -/
theorem crstResetsItsClasses : Obligations.CrstResetsItsClasses := by
  intro lowNs s
  refine ⟨fun h => ?_, fun h h' => ?_, fun h hp => ?_, fun h hp => ?_⟩
  · rw [exec_crst, Dev.crst_short _ h]
  · rw [exec_crst, exec_crst, Dev.crst_between _ h h']
    cases Config.crstTaken s.dev.freeCount with
    | true => exact .inr rfl
    | false => exact .inl rfl
  · rw [exec_crst, Dev.crst_long _ h, if_pos hp]
    rfl
  · rw [exec_crst, Dev.crst_long _ h, if_neg hp]
    refine ⟨_, rfl, fun a r f ha hr hf => Dev.fld_crstCore_field _ ha hr hf, Dev.fld_crstCore_cause _,
      Dev.fld_crstCore_seq _, ?_⟩
    simp only [Dev.crstCore, Dev.event_fp, Dev.event_loader, Dev.event_chain, Dev.event_raw, Dev.event_otp,
      Dev.event_shadow]
    exact ⟨rfl, rfl, rfl, rfl, rfl, rfl, rfl, fun _ => rfl, rfl⟩

/-- Settles O4: POR is a record of reset values with the exceptions listed, so each part reads off it. -/
theorem powerOnState : Obligations.PowerOnState :=
  ⟨⟨rfl, rfl, rfl, fun _ => rfl, fun _ _ => rfl, rfl, rfl, rfl, rfl⟩,
    fun _ => ⟨_, rfl, fun _ => rfl, fun _ _ => rfl, rfl, rfl, rfl⟩⟩

/-- Settles O15, by the rules of field stores and event bits. -/
theorem fieldStores : Obligations.FieldStores := by
  refine ⟨fun d f g v hle hlt => ⟨d.fld_setFld_same g v ⟨hle, hlt⟩, d.fld_setFld_apart f g v ⟨hle, hlt⟩⟩,
    fun d a b evs h => ⟨fun c hc => d.fld_event_bit a c _ hc h, d.fld_event_seq a _ (List.cons_ne_nil _ _) h,
      fun c hc hne => ?_, fun x hx => d.get_set_ne a x _ hx⟩⟩
  refine d.fld_event_apart a _ ⟨a, c, c⟩ hc fun e he => ⟨h e he, ?_⟩
  have : e ≠ c := fun q => hne (q ▸ he)
  dsimp only
  omega
end

section
/-! The RW fields that a write stores (R8, R129). -/
namespace Sys2Proof.Machine

theorem RegRow.mask_eq_storeFields (r : RegRow) (t : FieldType) :
    r.mask t = storeFields (fun f => f.ty = t) (fun f => 2 ^ (f.hi + 1 - f.lo) - 1) r.fields 0 := rfl

/-- A bit of a row's mask is a bit of a field of the type. -/
theorem RegRow.testBit_mask {r : RegRow} (hr : r.WellFormed) (t : FieldType) (i : Nat) :
    (r.mask t).testBit i = true ↔ ∃ f ∈ r.fields, f.ty = t ∧ f.lo ≤ i ∧ i ≤ f.hi := by
  obtain ⟨hok, hd⟩ := hr
  rw [r.mask_eq_storeFields]
  constructor
  · intro h
    refine Classical.byContradiction fun hno => ?_
    have hout : ∀ f ∈ r.fields, f.ty = t → i < f.lo ∨ f.hi < i := by
      intro f hf ht
      have hin : ¬ (f.lo ≤ i ∧ i ≤ f.hi) := fun hin => hno ⟨f, hf, ht, hin⟩
      omega
    rw [testBit_storeFields_outside hok hout, Nat.zero_testBit] at h
    exact Bool.false_ne_true h
  · rintro ⟨f, hf, ht, hlo, hhi⟩
    rw [testBit_storeFields_inside hok hd hf ht hlo hhi, Nat.testBit_two_pow_sub_one]
    exact decide_eq_true (by omega)

/-- A field's value under a write of the bits in `m` of `w`, before its bounds apply. -/
def FieldDef.written (f : FieldDef) (old w m : Nat) : Nat :=
  (bits old f.hi f.lo &&& (2 ^ (f.hi + 1 - f.lo) - 1 - bits m f.hi f.lo)) ||| (bits w f.hi f.lo &&& bits m f.hi f.lo)

theorem bits_lt (n hi lo : Nat) : bits n hi lo < 2 ^ (hi + 1 - lo) := Nat.mod_lt _ (Nat.two_pow_pos _)

theorem testBit_fullMask (i : Nat) : (0xFFFFFFFF : Nat).testBit i = decide (i < 32) := Nat.testBit_two_pow_sub_one 32 i

theorem bits_ne_zero {n hi lo k : Nat} (h : n.testBit k = true) (hlo : lo ≤ k) (hhi : k ≤ hi) : bits n hi lo ≠ 0 := by
  intro h0
  have hb := testBit_bits n hi lo (k - lo)
  rw [h0, Nat.zero_testBit, Nat.add_sub_cancel' hlo, h, decide_eq_true (by omega)] at hb
  exact Bool.false_ne_true hb

/-- A field holds a bit of a one-bit mask if it has that bit. -/
theorem bits_two_pow_ne_zero_iff (k hi lo : Nat) : bits (2 ^ k) hi lo ≠ 0 ↔ lo ≤ k ∧ k ≤ hi := by
  refine ⟨fun hne => ?_, fun h => bits_ne_zero Nat.testBit_two_pow_self h.1 h.2⟩
  obtain ⟨j, hj⟩ := Nat.exists_testBit_of_ne_zero hne
  rw [testBit_bits, Nat.testBit_two_pow, Bool.and_eq_true, decide_eq_true_eq, decide_eq_true_eq] at hj
  omega

theorem FieldDef.testBit_written (f : FieldDef) (old w m i : Nat) (h : f.lo ≤ i) (h' : i ≤ f.hi) :
    (f.written old w m).testBit (i - f.lo) = if m.testBit i then w.testBit i else old.testBit i := by
  have hi : i - f.lo < f.hi + 1 - f.lo := by omega
  rw [FieldDef.written, Nat.sub_sub, Nat.add_comm 1]
  simp only [Nat.testBit_or, Nat.testBit_and, Nat.testBit_two_pow_sub_succ (bits_lt m f.hi f.lo), testBit_bits, hi,
    Nat.add_sub_cancel' h, decide_true, Bool.true_and]
  cases m.testBit i <;> simp

/-- A write of the whole word gives a field its bits of the value. -/
theorem FieldDef.written_full (f : FieldDef) (h : f.hi < 32) (old w : Nat) :
    f.written old w 0xFFFFFFFF = bits w f.hi f.lo := by
  refine Nat.eq_of_testBit_eq fun i => ?_
  by_cases hi : i < f.hi + 1 - f.lo
  · have := f.testBit_written old w 0xFFFFFFFF (f.lo + i) (by omega) (by omega)
    rw [Nat.add_sub_cancel_left] at this
    rw [this, testBit_bits, decide_eq_true hi, Bool.true_and, if_pos]
    exact (testBit_fullMask _).trans (decide_eq_true (by omega))
  · rw [FieldDef.written, Nat.testBit_or, Nat.testBit_and, Nat.testBit_and, testBit_bits, testBit_bits]
    simp [hi]

/-- With no bit held, a write stores each RW field that it touches, within its bounds. -/
theorem newWord_eq_storeFields (r : RegRow) (b : Block) (rel old w m : Nat) : Dev.newWord r b rel 0 old w m =
    storeFields (fun f => f.ty = .rw ∧ bits m f.hi f.lo ≠ 0)
      (fun f => storeAdjust b rel f.lo (f.written old w m)) r.fields old := by
  have hfree : ∀ f : FieldDef, bits m f.hi f.lo &&& (2 ^ (f.hi + 1 - f.lo) - 1 - bits 0 f.hi f.lo) = bits m f.hi f.lo := by
    intro f
    rw [show bits 0 f.hi f.lo = 0 by simp [bits], Nat.sub_zero, Nat.and_two_pow_sub_one_eq_mod]
    exact Nat.mod_eq_of_lt (bits_lt _ _ _)
  simp only [Dev.newWord, hfree]
  rfl

section NewWord
variable {r : RegRow} (hr : r.WellFormed) (b : Block) (rel old w m : Nat)
include hr

theorem newWord_lt (h : old < 2 ^ 32) : Dev.newWord r b rel 0 old w m < 2 ^ 32 := by
  rw [newWord_eq_storeFields]
  exact storeFields_lt hr.1 h

theorem bits_newWord_full {f : FieldDef} (hf : f ∈ r.fields) (ht : f.ty = .rw) :
    bits (Dev.newWord r b rel 0 old w 0xFFFFFFFF) f.hi f.lo =
      storeAdjust b rel f.lo (bits w f.hi f.lo) % 2 ^ (f.hi + 1 - f.lo) := by
  obtain ⟨hle, hlt⟩ := hr.1 f hf
  have hm : bits 0xFFFFFFFF f.hi f.lo ≠ 0 :=
    bits_ne_zero ((testBit_fullMask f.lo).trans (decide_eq_true (by omega))) (Nat.le_refl _) hle
  rw [newWord_eq_storeFields, bits_storeFields_selected hr.1 hr.2 hf ⟨ht, hm⟩, f.written_full hlt]

/-- Bits outside the RW fields stay. -/
theorem bits_newWord_apart {hi lo : Nat} (h : ∀ f ∈ r.fields, f.ty = .rw → hi < f.lo ∨ f.hi < lo) :
    bits (Dev.newWord r b rel 0 old w m) hi lo = bits old hi lo := by
  rw [newWord_eq_storeFields]
  exact bits_storeFields_apart hr.1 (fun f hf hs => h f hf hs.1) _

/-- A write of one bit, in an RW field without bounds, replaces that bit. -/
theorem testBit_newWord_bit {f : FieldDef} (hf : f ∈ r.fields) (ht : f.ty = .rw) {k : Nat} (hlo : f.lo ≤ k) (hhi : k ≤ f.hi)
    (hadj : ∀ v, storeAdjust b rel f.lo v = v) (i : Nat) :
    (Dev.newWord r b rel 0 old w (2 ^ k)).testBit i = if i = k then w.testBit i else old.testBit i := by
  rw [newWord_eq_storeFields]
  by_cases hin : f.lo ≤ i ∧ i ≤ f.hi
  · rw [testBit_storeFields_inside hr.1 hr.2 hf ⟨ht, (bits_two_pow_ne_zero_iff _ _ _).2 ⟨hlo, hhi⟩⟩ hin.1 hin.2, hadj,
      f.testBit_written _ _ _ _ hin.1 hin.2, Nat.testBit_two_pow]
    simp only [decide_eq_true_eq, eq_comm (a := k)]
  · rw [if_neg (by omega), testBit_storeFields_outside hr.1]
    intro g hg hs
    have hgf : g = f := by
      refine Classical.byContradiction fun hne => ?_
      have hapart := hr.apart hg hf hne
      have hbit := (bits_two_pow_ne_zero_iff _ _ _).1 hs.2
      omega
    rw [hgf]
    omega

end NewWord
end Sys2Proof.Machine
end

section
/-! Writes of registers without effects beyond their fields (R129, R139 to R141). -/
namespace Sys2Proof.Machine
namespace Dev

/-- The unit as a write to block b finds it: the lines in progress are drawn where the block's registers shape pixels
(R129, R221). -/
def drawn (d : Dev) (b : Block) : Dev := if b.shown then d.catchUp else d

/-- A write of the bits `m` of `w` to the register at an offset finds a block that can be used and no bit that is held,
and has no effect beyond the row's fields. -/
structure PlainWrite (d : Dev) (addr w m : Nat) (b : Block) (n : Nat) (r : RegRow) : Prop where
  slot : blockOfSlot (addr / 0x10000) = some (b, n)
  row : rowIn b n (addr % 0x10000) = some r
  usable : d.blockHeld b = false
  own : ownBits b (addr % 0x10000) = 0
  free : (d.drawn b).heldBits r b n (addr % 0x10000) = 0
  effect : ∀ (e : Dev) (x : Written) (a : Nat) (l : Bool), x.trig = w &&& (m &&& r.mask .wp) →
    e.writeEffect b n (addr % 0x10000) x a l = e

/-- The unit after such a write has stored its fields. -/
def stored (d : Dev) (addr w m : Nat) (b : Block) (r : RegRow) : Dev :=
  if r.mask .rw &&& m = 0 then d
  else (d.set (d.physical addr) (BitVec.ofNat 32
      (newWord r b (addr % 0x10000) 0 (d.get (d.physical addr)).toNat w m))).renew (d.physical addr) (r.mask .rw &&& m)

section Plain
variable {d : Dev} {addr w m : Nat} {b : Block} {n : Nat} {r : RegRow}

theorem regWrite_plain (h : d.PlainWrite addr w m b n r) (log : Nat) :
    d.regWrite addr log w m = (d.drawn b).stored addr w m b r := by
  obtain ⟨hslot, hrow, husable, hown, hfree, heff⟩ := h
  have hword : ∀ x : Nat, BitVec.ofNat 32 (x &&& (0xFFFFFFFF - 0) ||| 0) = BitVec.ofNat 32 x := by
    intro x
    rw [Nat.or_zero, Nat.sub_zero, show (0xFFFFFFFF : Nat) = 2 ^ 32 - 1 from rfl, Nat.and_two_pow_sub_one_eq_mod]
    exact BitVec.eq_of_toNat_eq (by simp)
  unfold regWrite
  simp only [hslot, hrow, husable, Bool.false_eq_true, if_false, hown]
  generalize hd : (if b.shown = true then d.catchUp else d) = e
  obtain rfl : d.drawn b = e := hd
  simp only [hfree, Nat.and_zero, if_true, hword]
  rw [heff _ _ _ _ rfl, ite_self]
  rfl

theorem sameButRegs_stored (d : Dev) (addr w m : Nat) (b : Block) (r : RegRow) :
    d.SameButRegs (d.stored addr w m b r) := by
  unfold stored
  split <;> rfl

theorem fld_stored_elsewhere (d : Dev) (addr w m : Nat) (b : Block) (r : RegRow) {f : Fld}
    (h : f.addr ≠ d.physical addr) : (d.stored addr w m b r).fld f = d.fld f := by
  unfold stored
  split
  · rfl
  · exact fld_set_ne _ _ _ _ h

/-- With a bit of an RW field in the mask, the register holds the new word. -/
theorem get_stored (hr : r.WellFormed) {f : FieldDef} (hf : f ∈ r.fields) (ht : f.ty = .rw) {k : Nat} (hlo : f.lo ≤ k)
    (hhi : k ≤ f.hi) (hm : m.testBit k = true) (d : Dev) :
    ((d.stored addr w m b r).get (d.physical addr)).toNat =
      newWord r b (addr % 0x10000) 0 (d.get (d.physical addr)).toNat w m := by
  have hne : r.mask .rw &&& m ≠ 0 := fun h => by
    have h0 := Nat.testBit_and (r.mask .rw) m k
    rw [h, Nat.zero_testBit, hm, (RegRow.testBit_mask hr .rw k).2 ⟨f, hf, ht, hlo, hhi⟩] at h0
    exact Bool.false_ne_true h0
  rw [stored, if_neg hne, get_renew, get_set_same, BitVec.toNat_ofNat]
  exact Nat.mod_eq_of_lt (newWord_lt hr _ _ _ _ _ (BitVec.isLt _))

/-- A write whose mask reaches no RW field stores nothing. -/
theorem stored_of_no_field (hr : r.WellFormed) {k : Nat} (h : ∀ f ∈ r.fields, f.ty = .rw → k < f.lo ∨ f.hi < k) (d : Dev) :
    d.stored addr w (2 ^ k) b r = d := by
  refine if_pos (Nat.eq_of_testBit_eq fun i => ?_)
  rw [Nat.testBit_and, Nat.testBit_two_pow, Nat.zero_testBit]
  refine Bool.eq_false_iff.2 fun hboth => ?_
  obtain ⟨hi, hk⟩ := Bool.and_eq_true_iff.1 hboth
  obtain rfl := of_decide_eq_true hk
  obtain ⟨f, hf, ht, hlo, hhi⟩ := (RegRow.testBit_mask hr .rw k).1 hi
  have hout := h f hf ht
  omega

/-- A write of the whole word gives every RW field its bits, within its bounds. -/
theorem fld_stored_full (hr : r.WellFormed) {f : FieldDef} (hf : f ∈ r.fields) (ht : f.ty = .rw) (d : Dev) :
    (d.stored addr w 0xFFFFFFFF b r).fld ⟨d.physical addr, f.hi, f.lo⟩ =
      storeAdjust b (addr % 0x10000) f.lo (bits w f.hi f.lo) % 2 ^ (f.hi + 1 - f.lo) := by
  obtain ⟨hle, hlt⟩ := hr.1 f hf
  have hm : (0xFFFFFFFF : Nat).testBit f.lo = true := (testBit_fullMask _).trans (decide_eq_true (by omega))
  rw [fld, get_stored hr hf ht (Nat.le_refl _) hle hm, bits_newWord_full hr b _ _ w hf ht]

/-- The fields apart from a row's RW fields stay. -/
theorem fld_stored_apart (hr : r.WellFormed) (d : Dev) (f : Fld)
    (h : ∀ g ∈ r.fields, g.ty = .rw → f.Apart ⟨d.physical addr, g.hi, g.lo⟩) :
    (d.stored addr w m b r).fld f = d.fld f := by
  by_cases ha : f.addr = d.physical addr
  · unfold stored
    split
    · rfl
    · rw [fld_renew, fld, ha, get_set_same, BitVec.toNat_ofNat,
        Nat.mod_eq_of_lt (newWord_lt hr _ _ _ _ _ (BitVec.isLt _)), bits_newWord_apart hr, fld, ha]
      intro g hg ht
      exact (h g hg ht).resolve_left (absurd ha)
  · exact d.fld_stored_elsewhere _ _ _ _ _ ha

section OneBit
variable (hr : r.WellFormed) {f : FieldDef} (hf : f ∈ r.fields) (ht : f.ty = .rw) {k : Nat} (hlo : f.lo ≤ k)
  (hhi : k ≤ f.hi) (hadj : ∀ v, storeAdjust b (addr % 0x10000) f.lo v = v)
include hr hf ht hlo hhi hadj

theorem testBit_stored_bit (d : Dev) (i : Nat) :
    ((d.stored addr w (2 ^ k) b r).get (d.physical addr)).toNat.testBit i =
      if i = k then w.testBit i else (d.get (d.physical addr)).toNat.testBit i := by
  rw [get_stored hr hf ht hlo hhi (Nat.testBit_two_pow_self), testBit_newWord_bit hr b _ _ w hf ht hlo hhi hadj]

/-- A write of one bit of an RW field without bounds stores it. -/
theorem fld_stored_bit (d : Dev) :
    (d.stored addr w (2 ^ k) b r).fld ⟨d.physical addr, k, k⟩ = (w.testBit k).toNat := by
  refine Nat.eq_of_testBit_eq fun i => ?_
  rw [fld, testBit_bits, testBit_stored_bit hr hf ht hlo hhi hadj]
  cases i with
  | zero => cases w.testBit k <;> simp
  | succ j => cases w.testBit k <;> simp [Nat.testBit_succ]

/-- And no other bit. -/
theorem fld_stored_bit_apart (d : Dev) (g : Fld) (hg : g.Apart ⟨d.physical addr, k, k⟩) :
    (d.stored addr w (2 ^ k) b r).fld g = d.fld g := by
  by_cases ha : g.addr = d.physical addr
  · refine Nat.eq_of_testBit_eq fun i => ?_
    have hb := hg.resolve_left (absurd ha)
    rw [fld, fld, testBit_bits, testBit_bits, ha, testBit_stored_bit hr hf ht hlo hhi hadj]
    by_cases hi : i < g.hi + 1 - g.lo
    · rw [if_neg (by dsimp only at hb; omega)]
    · simp [hi]
  · exact d.fld_stored_elsewhere _ _ _ _ _ ha

end OneBit

end Plain
end Dev
end Sys2Proof.Machine
end

section
namespace Sys2Proof.Machine

/-! ### 32-bit writes of BAR0 -/

theorem rowOf_of_rowIn {addr : Nat} {b : Block} {n : Nat} {r : RegRow} (h : addr < l3Bank)
    (hslot : blockOfSlot (addr / 0x10000) = some (b, n)) (hrow : rowIn b n (addr % 0x10000) = some r) :
    rowOf addr = some r := by
  simp only [rowOf, Nat.mod_eq_of_lt h, hslot, hrow]

/-- A register of a block other than CL, or of CL with no window part waiting, is not behind window parts (R184). -/
theorem atClearings_or_idle {addr : Nat} {b : Block} {n : Nat} {q : List HostItem}
    (hslot : blockOfSlot (addr / 0x10000) = some (b, n)) (hq : b = .CL → q = []) : addr / 0x10000 ≠ 3 ∨ q = [] := by
  by_cases h : addr / 0x10000 = 3
  · rw [h] at hslot
    cases hslot
    exact .inr (hq rfl)
  · exact .inl h

section Bar0
variable {s : State} {w : Word} {off : BitVec 24} {b : Block} {n : Nat} {r : RegRow}

theorem exec_registerWrite_plain (halign : off.toNat % 4 = 0) (hwin : inWindow (decodeBar0 off.toNat) = false)
    (hcl : b = .CL → s.dev.fs.hostQueue = []) (hrs : r.isRs = false)
    (h : s.dev.PlainWrite (decodeBar0 off.toNat) w.toNat 0xFFFFFFFF b n r) : exec (.registerWrite off w) s =
      .next { s with dev := (s.dev.drawn b).stored (decodeBar0 off.toNat) w.toNat 0xFFFFFFFF b r } := by
  have hlt : decodeBar0 off.toNat < 0x800000 := Nat.mod_lt _ (by decide)
  have halign' : decodeBar0 off.toNat / 4 * 4 = decodeBar0 off.toNat := by unfold decodeBar0; omega
  have hrow := rowOf_of_rowIn (Nat.lt_trans hlt (by decide)) h.slot h.row
  have hcause : busCause ⟨.bar0, true, .w32, off.toNat, [w]⟩ off.toNat = none := by
    simp [busCause, hwin, h.slot, badLanes, halign, halign', hrow, narrow]
  have hword : s.dev.writeWord (decodeBar0 off.toNat) (off.toNat % 0x1000000) w =
      (s.dev.drawn b).stored (decodeBar0 off.toNat) w.toNat 0xFFFFFFFF b r := by
    simp only [Dev.writeWord, hrow, hrs, Bool.not_false, if_true, Dev.regWrite_plain h]
  rw [← hword, ← Dev.access_write32 s.dev off.toNat w hcause hwin (atClearings_or_idle h.slot hcl)]
  rfl

/-- Such a write stores the row's RW fields and nothing else. -/
theorem exec_registerWrite_stores (halign : off.toNat % 4 = 0) (hwin : inWindow (decodeBar0 off.toNat) = false)
    (hcl : b = .CL → s.dev.fs.hostQueue = []) (hrs : r.isRs = false)
    (h : s.dev.PlainWrite (decodeBar0 off.toNat) w.toNat 0xFFFFFFFF b n r) :
    ∃ t, exec (.registerWrite off w) s = .next t ∧
      (∀ f ∈ r.fields, f.ty = .rw → t.dev.fld ⟨(s.dev.drawn b).physical (decodeBar0 off.toNat), f.hi, f.lo⟩ =
        storeAdjust b (decodeBar0 off.toNat % 0x10000) f.lo (bits w.toNat f.hi f.lo) % 2 ^ (f.hi + 1 - f.lo)) ∧
      OnlyFlds { s with dev := s.dev.drawn b } t ((r.fields.filter (·.ty = .rw)).map
        fun f => ⟨(s.dev.drawn b).physical (decodeBar0 off.toNat), f.hi, f.lo⟩) := by
  have hr := rowIn_wellFormed h.row
  refine ⟨_, exec_registerWrite_plain halign hwin hcl hrs h, fun f hf ht => Dev.fld_stored_full hr hf ht _,
    ⟨fun _ => rfl, rfl⟩, Dev.sameButRegs_stored .., fun f hf => Dev.fld_stored_apart hr _ f fun g hg ht => ?_⟩
  exact hf _ (List.mem_map.2 ⟨g, List.mem_filter.2 ⟨hg, decide_eq_true ht⟩, rfl⟩)

end Bar0

/-! ### The BAR2 bit space (R139 to R141) -/

theorem decodeBar2_lt (off : Nat) : (decodeBar2 off).1 < 0x800000 := by
  have h1 : bits off 23 17 < 128 := bits_lt off 23 17
  have h2 : bits off 16 7 < 1024 := bits_lt off 16 7
  simp only [decodeBar2]
  omega

/-- A sound 32-bit write in BAR2 writes its bit; one of a CL register that window parts stand before waits
for them (R184). -/
theorem Dev.access_alias32 (d : Dev) (off : Nat) (w : Word)
    (h : busCause ⟨.bar2, true, .w32, off, [w]⟩ off = none)
    (hq : (decodeBar2 off).1 / 0x10000 ≠ 3 ∨ d.fs.hostQueue = []) :
    d.access ⟨.bar2, true, .w32, off, [w]⟩ = d.aliasWrite off (bit w.toNat 0) := by
  have hr : List.range 1 = [0] := rfl
  have ho : d.writeInOrder ⟨.bar2, true, .w32, off, [w]⟩ off w = d.aliasWrite off (bit w.toNat 0) := by
    unfold Dev.writeInOrder
    rw [if_neg (by rcases hq with hq | hq <;> simp [atClearings, hq])]
    rfl
  simp [Dev.access, partCount, h, hr, List.zipIdx, ho]

theorem bit_eq_testBit (n i : Nat) : bit n i = n.testBit i := by
  rw [bit, Nat.shiftRight_eq_div_pow, Nat.testBit_eq_decide_div_mod_eq]
  rfl

theorem testBit_b2n_mul_two_pow (v : Bool) (k : Nat) : (b2n v * 2 ^ k).testBit k = v := by
  cases v <;> simp [b2n]

section Bar2
variable {s : State} {w : Word} {off : BitVec 25} {b : Block} {n : Nat} {r : RegRow}

/-- The word that a BAR2 write of bit 0 of `w` writes to its register. -/
abbrev aliasWord (off : BitVec 25) (w : Word) : Nat := b2n (bit w.toNat 0) * 2 ^ (decodeBar2 off.toNat).2

theorem exec_bitAliasWrite_plain (halign : off.toNat % 4 = 0) (heff : accessEffect (decodeBar2 off.toNat).1 = false)
    (hcl : b = .CL → s.dev.fs.hostQueue = []) (hrs : r.isRs = false)
    (h : s.dev.PlainWrite (decodeBar2 off.toNat).1 (aliasWord off w) (2 ^ (decodeBar2 off.toNat).2) b n r) :
    exec (.bitAliasWrite off w) s = .next { s with
      dev := (s.dev.drawn b).stored (decodeBar2 off.toNat).1 (aliasWord off w) (2 ^ (decodeBar2 off.toNat).2) b r } := by
  have hrow := rowOf_of_rowIn (Nat.lt_trans (decodeBar2_lt off.toNat) (by decide)) h.slot h.row
  have hcause : busCause ⟨.bar2, true, .w32, off.toNat, [w]⟩ off.toNat = none := by
    simp [busCause, h.slot, badLanes, halign, hrow, heff, hrs, narrow]
  rw [← Dev.regWrite_plain h (bits off.toNat 24 17 * 0x10000 + bits off.toNat 16 7 * 4)]
  exact congrArg (fun d => Host.Outcome.next { s with dev := d })
    (s.dev.access_alias32 off.toNat w hcause (atClearings_or_idle h.slot hcl))

end Bar2

/-! ### SY_PARITY_CTRL and SY_THERMAL (R130, R150, R517) -/

/-- SY can always be used and locks nothing, so a write there is plain where its effect is none. -/
theorem Dev.plainWrite_SY (d : Dev) {rel w m : Nat} {r : RegRow} (hrel : rel < 0x10000) (hrow : rowIn .SY 0 rel = some r)
    (hheld : r.mask .wo ||| r.mask .fp = 0)
    (heff : ∀ (e : Dev) (x : Written), x.trig = w &&& (m &&& r.mask .wp) → e.writeSY rel x = e) :
    d.PlainWrite rel w m .SY 0 r := by
  refine ⟨?_, ?_, ?_, rfl, ?_, fun e x _ _ hx => ?_⟩
  · rw [Nat.div_eq_of_lt hrel]; rfl
  · rw [Nat.mod_eq_of_lt hrel, hrow]
  · simp [blockHeld]
  · simp [heldBits, lockedBits, hheld]
  · rw [Nat.mod_eq_of_lt hrel]
    exact heff e x hx

/-- The row of SY_PARITY_CTRL. -/
def parityCtrlRow : RegRow :=
  ⟨"SY_PARITY_CTRL", 0x00A8, [], [⟨"INJECT", 31, 31, .wp, 0, .flr⟩, ⟨"TARGET", 22, 2, .rw, 0, .flr⟩]⟩

/-- The row of SY_THERMAL. -/
def thermalRow : RegRow :=
  ⟨"SY_THERMAL", 0x00C0, [], [⟨"TRIPPED", 31, 31, .ro, 0, .por⟩, ⟨"WARN", 16, 16, .ro, 0, .por⟩,
    ⟨"WARN_C", 15, 8, .rw, 0x64, .flr⟩, ⟨"TJ_C", 7, 0, .ro, 0, .por⟩]⟩

end Sys2Proof.Machine

open Sys2Proof Sys2Proof.Machine

/-- Settles O16: both kinds of write are plain writes (`Dev.PlainWrite`), which store a row's RW fields alone. -/
theorem registerWrites : Obligations.RegisterWrites := by
  refine ⟨fun s w => ⟨?_, fun hw => ?_, ?_⟩, ?_⟩
  · intro off b n r halign hwin hcl hslot hrow hrs hheld hown heff d hfree
    exact exec_registerWrite_stores halign hwin hcl hrs ⟨hslot, hrow, hheld, hown, hfree, fun e x a l _ => heff e x a l⟩
  · have hrow : rowIn .SY 0 0xA8 = some parityCtrlRow := by decide +kernel
    have h : s.dev.PlainWrite 0xA8 w.toNat 0xFFFFFFFF .SY 0 parityCtrlRow := by
      refine s.dev.plainWrite_SY (by decide) hrow (by decide +kernel) fun e x hx => ?_
      have hbit : w.toNat.testBit 31 = false := by
        rw [← bit_eq_testBit, bit, show (w.toNat >>> 31) % 2 = 0 from hw]
        rfl
      have hfires : x.fires 31 = false := by
        rw [Written.fires, hx, bit_eq_testBit, Nat.testBit_and, hbit, Bool.false_and]
      simp [Dev.writeSY, hfires, Dev.when']
    obtain ⟨t, hexec, hfld, honly⟩ := exec_registerWrite_stores (off := 0xA8) rfl rfl (b := .SY) nofun rfl h
    refine ⟨t, hexec, ?_, honly⟩
    exact (hfld ⟨"TARGET", 22, 2, .rw, 0, .flr⟩ (by decide) rfl).trans (Nat.mod_eq_of_lt (bits_lt _ _ _))
  · have hrow : rowIn .SY 0 0xC0 = some thermalRow := by decide +kernel
    have h : s.dev.PlainWrite 0xC0 w.toNat 0xFFFFFFFF .SY 0 thermalRow :=
      s.dev.plainWrite_SY (by decide) hrow (by decide +kernel) fun _ _ _ => rfl
    obtain ⟨t, hexec, hfld, honly⟩ := exec_registerWrite_stores (off := 0xC0) rfl rfl (b := .SY) nofun rfl h
    refine ⟨t, hexec, ?_, honly⟩
    refine (hfld ⟨"WARN_C", 15, 8, .rw, 0x64, .flr⟩ (by decide) rfl).trans (Nat.mod_eq_of_lt ?_)
    exact Nat.lt_of_le_of_lt (Nat.min_le_right _ _) (by decide)
  · intro s off w b n r p halign hslot hrow hrs hacc hcl hheld hown heff d hfree
    have h : s.dev.PlainWrite p.1 (aliasWord off w) (2 ^ p.2) b n r :=
      ⟨hslot, hrow, hheld, hown, hfree, fun e x a l _ => heff e x a l⟩
    have hr := rowIn_wellFormed hrow
    have hexec := exec_bitAliasWrite_plain halign hacc hcl hrs h
    constructor
    · rintro ⟨f, hf, ht, hlo, hhi, hadj⟩
      refine ⟨_, hexec, ?_, ⟨fun _ => rfl, rfl⟩, Dev.sameButRegs_stored .., fun g hg => ?_⟩
      · refine (Dev.fld_stored_bit hr hf ht hlo hhi hadj _).trans ?_
        rw [testBit_b2n_mul_two_pow, bit_eq_testBit, Nat.toNat_testBit, Nat.pow_zero, Nat.div_one]
      · exact Dev.fld_stored_bit_apart hr hf ht hlo hhi hadj _ g (hg _ (List.mem_singleton.2 rfl))
    · intro hno
      rw [hexec, Dev.stored_of_no_field hr hno]
      rfl
end

section
/-! What an aborted load's held starts do after an FLR (R76, R79). -/
namespace Sys2Proof.Machine

/-- A unit that receives a PCI Express load, with a start held for head 256. -/
def heldBeyondHeads : State :=
  { State.reset with dev := { Dev.reset with loader := { LoaderSt.reset with phase := .receiving, held := [256] } } }

theorem dev_of_exec_flr {s t : State} (h : exec .flr s = .next t) : t.dev = s.dev.flr :=
  congrArg State.dev (Host.Outcome.next.inj h).symm

/-- The FLR takes heads 0 to 7 out of the held starts. The load that it then ends lets the start of head 256 go on to
the governor, whose head check stores code 7 (R294) in that head's CHECK register. -/
theorem fld_flr_heldBeyondHeads : heldBeyondHeads.dev.flr.fld (R.HD_CHECK_CODE 256) = 7 := by decide +kernel

end Sys2Proof.Machine

open Sys2Proof Sys2Proof.Machine

/-- Refutes O12: the statement takes any list of held starts. In `heldBeyondHeads` one is held for head 256, and its
CHECK register, which the model's tables count to head 0's slot and give the class HRST, holds 7 after the FLR where
its reset value is 0. The hypothesis that the held starts name heads 0 to 7 would exclude this state. -/
theorem not_functionLevelReset : ¬ Obligations.FunctionLevelReset := by
  intro h
  obtain ⟨t, hexec, -, hfields, -⟩ := (h heldBeyondHeads).1 (.inr (.inr rfl)) rfl
  have hrow : rowOf (R.HD_CHECK 256) = rowsHD0[11]? := by decide +kernel
  have hzero : t.dev.fld (R.HD_CHECK_CODE 256) = bits (resetWord (R.HD_CHECK 256)).toNat 7 0 :=
    hfields (R.HD_CHECK 256) _ ⟨"CODE", 7, 0, .ro, 0, .hrst⟩ .HD 0 (by decide) (.inl rfl) hrow (by decide) (by decide)
  have hreset : bits (resetWord (R.HD_CHECK 256)).toNat 7 0 = 0 := by decide +kernel
  rw [dev_of_exec_flr hexec, fld_flr_heldBeyondHeads, hreset] at hzero
  exact absurd hzero (by decide)
end

section
/-! Requests to the governor (R267, R268). -/
namespace Sys2Proof.Machine
namespace Dev

/-- From d to e only registers change, and none of those in `keep`. -/
def KeepsRegs (keep : Nat → Prop) (d e : Dev) : Prop := d.SameButRegs e ∧ ∀ x, keep x → e.get x = d.get x

theorem KeepsRegs.refl (keep : Nat → Prop) (d : Dev) : d.KeepsRegs keep d := ⟨.refl d, fun _ _ => rfl⟩

theorem KeepsRegs.trans {keep : Nat → Prop} {d e f : Dev} (h : KeepsRegs keep d e) (k : KeepsRegs keep e f) :
    KeepsRegs keep d f := ⟨h.1.trans k.1, fun x hx => (k.2 x hx).trans (h.2 x hx)⟩

theorem fld_of_get_eq {d e : Dev} {f : Fld} (h : e.get f.addr = d.get f.addr) : e.fld f = d.fld f :=
  congrArg (fun w : Word => bits w.toNat f.hi f.lo) h

theorem get_setFld_ne (d : Dev) (f : Fld) (v : Nat) {x : Nat} (h : x ≠ f.addr) : (d.setFld f v).get x = d.get x :=
  d.get_set_ne _ _ _ h

theorem get_setFlds_ne (d : Dev) (l : List (Fld × Nat)) {x : Nat} (h : ∀ p ∈ l, x ≠ p.1.addr) :
    (d.setFlds l).get x = d.get x := by
  unfold setFlds
  induction l generalizing d with
  | nil => rfl
  | cons p t ih =>
    rw [List.foldl_cons, ih _ fun q hq => h q (List.mem_cons_of_mem _ hq), get_setFld_ne _ _ _ (h p List.mem_cons_self)]

theorem keepsRegs_setFlds {keep : Nat → Prop} (d : Dev) (l : List (Fld × Nat)) (h : ∀ p ∈ l, ¬ keep p.1.addr) :
    KeepsRegs keep d (d.setFlds l) :=
  ⟨d.sameButRegs_setFlds l, fun _ hx => d.get_setFlds_ne l fun p hp he => h p hp (he ▸ hx)⟩

theorem keepsRegs_setFld {keep : Nat → Prop} (d : Dev) (f : Fld) (v : Nat) (h : ¬ keep f.addr) :
    KeepsRegs keep d (d.setFld f v) := ⟨d.sameButRegs_setFld f v, fun _ hx => d.get_setFld_ne f v fun he => h (he ▸ hx)⟩

/-- The address of an HDn_STATUS. -/
def IsHeadStatus (x : Nat) : Prop := ∃ n, x = R.HD_STATUS n

/-- The checks of an evaluation record their results outside the HDn_STATUS registers (R219, R294, R333). -/
theorem checks_not_isHeadStatus (n : Nat) : ¬ IsHeadStatus (R.HD_CHECK n) ∧ ¬ IsHeadStatus (R.DP_LINK_CHECK n) ∧
    ¬ IsHeadStatus (R.LE_STATUS n) ∧ ¬ IsHeadStatus (R.LE_CACHE_INFO n) := by
  simp only [IsHeadStatus, R.HD_STATUS, R.HD_CHECK, R.DP_LINK_CHECK, R.LE_STATUS, R.LE_CACHE_INFO, not_exists]
  refine ⟨fun m => ?_, fun m => ?_, fun m => ?_, fun m => ?_⟩ <;> omega

theorem keepsRegs_recordCheck (d : Dev) (n : Nat) (k : HeadCheck) : d.KeepsRegs IsHeadStatus (d.recordCheck n k) := by
  obtain ⟨hhead, hlink, -, -⟩ := checks_not_isHeadStatus n
  have hcode := d.keepsRegs_setFld (R.HD_CHECK_CODE n) k.code hhead
  unfold recordCheck
  dsimp only
  split
  · exact hcode.trans (keepsRegs_setFld _ _ _ hlink)
  · exact hcode

theorem keepsRegs_headChecks (d : Dev) (hs : List Nat) : d.KeepsRegs IsHeadStatus (d.headChecks hs).1 :=
  foldl_keeps (fun a b : Dev × Option Failure => a.1.KeepsRegs IsHeadStatus b.1) (fun a => .refl _ a.1) KeepsRegs.trans _
    (fun a n => a.1.keepsRegs_recordCheck n _) hs (d, none)

theorem keepsRegs_layerCheck (d : Dev) (l : Nat) : d.KeepsRegs IsHeadStatus (d.layerCheck l).1 := by
  obtain ⟨-, -, hstatus, hcache⟩ := checks_not_isHeadStatus l
  exact d.keepsRegs_setFlds _ (List.forall_mem_cons.2 ⟨hstatus, List.forall_mem_singleton.2 hcache⟩)

theorem keepsRegs_layerChecks (d : Dev) (ls : List Nat) : d.KeepsRegs IsHeadStatus (d.layerChecks ls).1 := by
  induction ls generalizing d with
  | nil => exact .refl _ d
  | cons l t ih => exact (d.keepsRegs_layerCheck l).trans (ih _)

/-- Whatever its verdict, an evaluation changes nothing but the records of its checks. -/
theorem keepsRegs_evaluate (d : Dev) (q : GvRequest) : d.KeepsRegs IsHeadStatus (d.evaluate q).1 := by
  have h := fun ls => (d.keepsRegs_headChecks q.heads).trans (keepsRegs_layerChecks _ ls)
  unfold evaluate
  dsimp only
  split
  · exact h _
  · split
    · exact h _
    · split
      · exact h _
      · split <;> exact h _

theorem gvNext_of_busy {d : Dev} (h : d.gv.busy ≠ none) : d.gvNext = d := by
  unfold gvNext
  split
  · contradiction
  · rfl

theorem gvNext_of_idle {d : Dev} {q : GvRequest} {t : List GvRequest} (hb : d.gv.busy = none) (hw : d.gv.waiting = q :: t) :
    d.gvNext.gv.waiting = t ∧ d.gvNext.gv.busy.map (·.1) = some q := by
  unfold gvNext
  rw [hb, hw]
  dsimp only
  rw [(keepsRegs_evaluate _ q).1]
  exact ⟨rfl, rfl⟩

theorem gvNext_keeps (d : Dev) : d.gvNext.hd = d.hd ∧ ∀ n, d.gvNext.get (R.HD_STATUS n) = d.get (R.HD_STATUS n) := by
  unfold gvNext
  split
  · next q t _ _ =>
    have h := keepsRegs_evaluate { d with gv := { d.gv with waiting := t } } q
    refine ⟨?_, fun n => h.2 _ ⟨n, rfl⟩⟩
    dsimp only
    rw [h.1]
  · exact ⟨rfl, fun _ => rfl⟩

/-- A request that meets no waiting one joins the end of the queue (R268). -/
theorem gvRequest_eq (d : Dev) (q : GvRequest) : ∃ w,
    d.gvRequest q = ({ d with gv := { d.gv with waiting := w } }).gvNext ∧
      ((∀ p ∈ d.gv.waiting, ∀ h ∈ q.heads, h ∉ p.heads) → w = d.gv.waiting ++ [q]) := by
  refine ⟨_, rfl, fun hapart => ?_⟩
  have hnone : d.gv.waiting.find? (fun p => p.heads.any q.heads.contains) = none := by
    refine List.find?_eq_none.2 fun p hp hmeets => ?_
    obtain ⟨h, hhp, hhq⟩ := List.any_eq_true.1 hmeets
    exact hapart p hp h (List.contains_iff_mem.1 hhq) hhp
  rw [hnone]

@[simp] theorem gvRequest_hd (d : Dev) (q : GvRequest) : (d.gvRequest q).hd = d.hd := by
  obtain ⟨w, hw, -⟩ := d.gvRequest_eq q
  rw [hw, (gvNext_keeps _).1]

@[simp] theorem head_gvRequest (d : Dev) (q : GvRequest) (n : Nat) : (d.gvRequest q).head n = d.head n :=
  congrArg (fun v => at' v n HeadSt.reset) (d.gvRequest_hd q)

theorem fld_gvRequest_status (d : Dev) (q : GvRequest) (n hi lo : Nat) :
    (d.gvRequest q).fld ⟨R.HD_STATUS n, hi, lo⟩ = d.fld ⟨R.HD_STATUS n, hi, lo⟩ := by
  obtain ⟨w, hw, -⟩ := d.gvRequest_eq q
  rw [hw]
  exact fld_of_get_eq ((gvNext_keeps _).2 n)

/-- A busy governor changes no register when a request comes. -/
theorem get_gvRequest_of_busy {d : Dev} (h : d.gv.busy ≠ none) (q : GvRequest) (x : Nat) :
    (d.gvRequest q).get x = d.get x := by
  obtain ⟨w, hw, -⟩ := d.gvRequest_eq q
  rw [hw, gvNext_of_busy (by exact h)]
  rfl

theorem asks_gvRequest {d e : Dev} (h : e.gv = d.gv) (q : GvRequest) : d.Asks (e.gvRequest q) q := by
  intro hapart
  obtain ⟨w, hw, hjoin⟩ := e.gvRequest_eq q
  rw [h] at hw hjoin
  rw [hw, hjoin hapart]
  refine ⟨fun hbusy => ?_, fun hidle hempty => ?_⟩
  · rw [gvNext_of_busy (by exact hbusy)]
    exact ⟨rfl, rfl⟩
  · exact gvNext_of_idle (by exact hidle) (by simp only [hempty, List.nil_append])

end Dev
end Sys2Proof.Machine
end

section
/-! Commits of heads (R298, R301, R302, R313). -/
namespace Sys2Proof.Machine

theorem onBlock_of_not_held {b : Block} {s : State} (h : s.dev.blockHeld b = false) (f : Dev → Dev) :
    onBlock b f s = .next { s with dev := f s.dev } := by
  simp only [onBlock, onDev, h, Bool.false_eq_true, if_false]

theorem exec_headArm {s : State} (h : s.dev.blockHeld .HD = false) (n : Fin 8) :
    exec (.headArm n) s = .next { s with dev := s.dev.headArm n } :=
  (rfl : _ = onBlock .HD (·.headArm n) s).trans (onBlock_of_not_held h _)

theorem exec_headCancel {s : State} (h : s.dev.blockHeld .HD = false) (n : Fin 8) :
    exec (.headCancel n) s = .next { s with dev := s.dev.headCancel n } :=
  (rfl : _ = onBlock .HD (·.headCancel n) s).trans (onBlock_of_not_held h _)

theorem exec_stagedWriteRecheck {s : State} (h : s.dev.blockHeld .HD = false) (n : Fin 8) (engines : List (Fin 64)) :
    exec (.stagedWriteRecheck n engines) s = .next { s with dev := s.dev.recheck n (engines.map (·.val)) } :=
  (rfl : _ = onBlock .HD (·.recheck n (engines.map (·.val))) s).trans (onBlock_of_not_held h _)

/-- The commit of a head after an ARM (R298, R299, R313). -/
def HeadSt.armedBy (s : HeadSt) (pair : Bool) : ArmSt :=
  match s.arm with
  | some a => { a with admitted := false, pair := a.pair || pair }
  | none => ⟨false, s.evePassed, false, pair⟩

namespace Dev

theorem head_of_sameButRegs {d e : Dev} (h : d.SameButRegs e) (n : Nat) : e.head n = d.head n := by rw [h]; rfl

theorem headRes_of_sameButRegs {d e : Dev} (h : d.SameButRegs e) (n : Nat) : e.headRes n = d.headRes n := by rw [h]; rfl

theorem head_updHead (d : Dev) {n : Nat} (hn : n < 8) (f : HeadSt → HeadSt) (m : Nat) :
    (d.updHead n f).head m = if n = m then f (d.head n) else d.head m := by
  simp only [head, updHead, at'_upd, hn, and_true]

theorem headRes_updRes (d : Dev) {n : Nat} (hn : n < 8) (f : HeadRes → HeadRes) :
    (d.updRes n f).headRes n = f (d.headRes n) := by
  simp only [headRes, updRes, at'_upd, hn, and_true, if_true]

/-- One head's part of an ARM: its commit, and COMMIT_LATE for a first arm after the eve line (R298, R299). -/
def armHead (pair : Bool) (d : Dev) (h : Nat) : Dev :=
  let e := d.updHead h (fun z => { z with arm := some ((d.head h).armedBy pair) })
  if (d.head h).evePassed && (d.head h).arm.isNone then e.headEvent h 4 else e

/-- The heads that an ARM of head n arms. -/
def armHeads (d : Dev) (n : Nat) (pair : Bool) : List Nat :=
  (if pair then (List.range 8).filter (fun h => h == n || d.partner n == some h) else [n]).filter
    (fun h => d.run h == 1 || d.run h == 2)

theorem headArm_eq (d : Dev) (n : Nat) {pair : Bool} (h : (d.flag (R.HD_COMMIT_PAIR n) && (d.partner n).isSome) = pair) :
    d.headArm n = if !(d.armHeads n pair).contains n then d
      else ((d.armHeads n pair).foldl (armHead pair) d).gvRequest ⟨d.armHeads n pair, 0, [], false⟩ := by
  subst h
  rfl

section ArmHead
variable (pair : Bool) (d : Dev) (h : Nat)

@[simp] theorem armHead_gv : (d.armHead pair h).gv = d.gv := by
  unfold armHead
  dsimp only
  split
  · exact event_gv ..
  · rfl

theorem head_armHead (hh : h < 8) (m : Nat) : (d.armHead pair h).head m =
    if h = m then { d.head h with arm := some ((d.head h).armedBy pair) } else d.head m := by
  rw [← d.head_updHead hh fun z => { z with arm := some ((d.head h).armedBy pair) }]
  unfold armHead
  dsimp only
  split
  · exact head_of_sameButRegs (sameButRegs_event ..) m
  · rfl

theorem fld_armHead_late (he : (d.head h).evePassed = true) (ha : (d.head h).arm = none) :
    (d.armHead pair h).fld ⟨R.HD_STATUS h, 4, 4⟩ = 1 := by
  simp only [armHead, he, ha, Option.isNone_none, Bool.and_self, if_true]
  exact fld_event_bit _ _ 4 [4] (List.mem_singleton.2 rfl) (by decide)

theorem fld_armHead_keeps (f : Fld)
    (hf : ∀ g ∈ if (d.head h).evePassed then [⟨R.HD_STATUS h, 4, 4⟩, R.HD_STATUS_SEQ h] else [], f.Apart g) :
    (d.armHead pair h).fld f = d.fld f := by
  unfold armHead
  dsimp only
  split
  · next hlate =>
    rw [if_pos (Bool.and_eq_true_iff.1 hlate).1] at hf
    refine (fld_event_keeps _ _ [4] f (by decide) (hf _ (by simp [R.HD_STATUS_SEQ])) fun c hc => ?_).trans (updHead_fld ..)
    rw [List.mem_singleton.1 hc]
    exact hf _ List.mem_cons_self
  · rfl

end ArmHead

/-- A head that neither starts nor runs is not armed (R304). -/
theorem headArm_of_not_up {d : Dev} {n : Nat} (h : ¬ (d.run n = 1 ∨ d.run n = 2)) : d.headArm n = d := by
  rw [d.headArm_eq n rfl, if_pos]
  rw [Bool.not_eq_true', ← Bool.not_eq_true, List.contains_iff_mem]
  intro hmem
  have hrun := (List.mem_filter.1 hmem).2
  simp only [Bool.or_eq_true, beq_iff_eq] at hrun
  exact h hrun

theorem headArm_of_alone {d : Dev} {n : Nat} (hup : d.run n = 1 ∨ d.run n = 2) (hp : d.partner n = none) :
    d.headArm n = (d.armHead false n).gvRequest ⟨[n], 0, [], false⟩ := by
  have hs : d.armHeads n false = [n] := List.filter_eq_self.2 fun h hh => by
    rw [List.mem_singleton.1 hh]
    simpa only [Bool.or_eq_true, beq_iff_eq] using hup
  rw [d.headArm_eq n (pair := false) (by rw [hp, Option.isSome_none, Bool.and_false]), hs, if_neg (by simp)]
  rfl

theorem range_filter_pair : ∀ n p : Fin 8, n < p →
    (List.range 8).filter (fun h => h == n.val || some p.val == some h) = [n.val, p.val] := by decide

theorem headArm_of_pair {d : Dev} {n p : Fin 8} (hn : d.run n = 1 ∨ d.run n = 2) (hp : d.run p = 1 ∨ d.run p = 2)
    (hpartner : d.partner n = some p.val) (hlt : n < p) (hpair : d.flag (R.HD_COMMIT_PAIR n) = true) :
    d.headArm n = ((d.armHead true n).armHead true p).gvRequest ⟨[n, p], 0, [], false⟩ := by
  have hs : d.armHeads n true = [n.val, p.val] := by
    unfold armHeads
    rw [if_pos rfl, hpartner, range_filter_pair n p hlt]
    refine List.filter_eq_self.2 fun h hh => ?_
    rw [Bool.or_eq_true, beq_iff_eq, beq_iff_eq]
    simp only [List.mem_cons, List.not_mem_nil, or_false] at hh
    rcases hh with rfl | rfl
    · exact hn
    · exact hp
  rw [d.headArm_eq n (pair := true) (by rw [hpair, hpartner]; rfl), hs, if_neg (by simp)]
  rfl

theorem recheck_of_alone {d : Dev} {n : Nat} {a : ArmSt} (ha : (d.head n).arm = some a) (hp : a.pair = false)
    (engines : List Nat) : d.recheck n engines =
      (d.updHead n (fun s => { s with arm := s.arm.map (fun a => { a with admitted := false }) })).gvRequest
        ⟨[n], 2, engines, false⟩ := by
  simp only [recheck, ha, hp, Bool.false_eq_true, if_false, List.foldl_cons, List.foldl_nil]

theorem recheck_of_none {d : Dev} {n : Nat} (ha : (d.head n).arm = none) (engines : List Nat) : d.recheck n engines = d := by
  simp only [recheck, ha]

theorem headCancel_of_unarmed {d : Dev} {n : Nat} (h : d.flag (R.HD_STATUS_ARMED n) = false) : d.headCancel n = d := by
  simp only [headCancel, h, Bool.not_false, if_true]

theorem headCancel_of_alone {d : Dev} {n : Nat} (h : d.flag (R.HD_STATUS_ARMED n) = true) (hp : d.partner n = none) :
    d.headCancel n = (d.withdraw n).gvRefresh := by
  have hp' : (d.withdraw n).partner n = none := hp
  simp only [headCancel, h, hp', Bool.not_true, Bool.false_eq_true, if_false]

section Withdraw
variable (d : Dev) {n : Nat}

theorem head_withdraw (hn : n < 8) : (d.withdraw n).head n = { d.head n with arm := none } :=
  (d.head_updHead hn _ n).trans (if_pos rfl)

theorem headRes_withdraw (hn : n < 8) : (d.withdraw n).headRes n = { d.headRes n with armed := none } :=
  headRes_updRes _ hn _

theorem fld_withdraw_armed (n : Nat) : (d.withdraw n).fld (R.HD_STATUS_ARMED n) = 0 :=
  fld_setFld_same _ (R.HD_STATUS_ARMED n) 0 ⟨Nat.le_refl 19, (by decide : 19 < 32)⟩

theorem get_withdraw_ne {x : Nat} (h : x ≠ R.HD_STATUS n) : (d.withdraw n).get x = d.get x :=
  get_setFld_ne _ (R.HD_STATUS_ARMED n) 0 h

end Withdraw

theorem slotOf_headStatus : ∀ n : Fin 8, slotOf (R.HD_STATUS n) ≠ Block.GV.base := by decide

theorem slotOf_gvRes : ∀ s < 4, slotOf (R.GV_RES_FSs s) = Block.GV.base ∧ slotOf (R.GV_MODEL_FSs s) = Block.GV.base := by
  decide

/-- Only GV's registers follow the reservations (R271, R276). -/
theorem keepsRegs_gvRefresh (d : Dev) : d.KeepsRegs (slotOf · ≠ Block.GV.base) d.gvRefresh := by
  unfold gvRefresh
  refine KeepsRegs.trans ?_ (keepsRegs_setFlds _ _ ?_)
  · refine List.foldlRecOn (List.range 4) _ (.refl _ d) fun e he s hs => he.trans (keepsRegs_setFlds e _ ?_)
    obtain ⟨hres, hmodel⟩ := slotOf_gvRes s (List.mem_range.1 hs)
    exact List.forall_mem_cons.2 ⟨fun h => h hres, List.forall_mem_singleton.2 fun h => h hmodel⟩
  · simp only [List.forall_mem_cons, ne_eq, Decidable.not_not]
    exact ⟨by decide, by decide, by decide, by decide, by decide, fun _ h => absurd h List.not_mem_nil⟩

end Dev
end Sys2Proof.Machine

open Sys2Proof Sys2Proof.Machine

/-- Settles O29: each command is the change of its heads' commits followed by a request to the governor, or by the
refresh of GV's registers. -/
theorem commitRequests : Obligations.CommitRequests := by
  intro s n p a engines up hheld
  rw [exec_headArm hheld, exec_headCancel hheld, exec_stagedWriteRecheck hheld]
  refine ⟨fun hup => ?_, fun hup hp ha => ?_, fun hup hp ha => ?_, fun hn hp hpartner hlt hpair ha ha' => ?_,
    fun harmed hp => ?_, fun hunarmed => ?_, fun ha hpair => ?_, fun ha => ?_⟩
  · rw [Dev.headArm_of_not_up hup]
  · rw [Dev.headArm_of_alone hup hp]
    refine ⟨_, rfl, ?_, Dev.asks_gvRequest (Dev.armHead_gv ..) _, fun he => ?_, ⟨fun _ => rfl, rfl⟩, fun hbusy f hf => ?_⟩
    · simp [Dev.head_armHead, HeadSt.armedBy, ha]
    · exact (Dev.fld_gvRequest_status ..).trans (Dev.fld_armHead_late _ _ _ he ha)
    · have hget := Dev.get_gvRequest_of_busy (d := s.dev.armHead false n) (by rwa [Dev.armHead_gv]) ⟨[n], 0, [], false⟩
      exact (Dev.fld_of_get_eq (hget _)).trans (Dev.fld_armHead_keeps _ _ _ f hf)
  · rw [Dev.headArm_of_alone hup hp]
    refine ⟨_, rfl, ?_, Dev.asks_gvRequest (Dev.armHead_gv ..) _, ⟨fun _ => rfl, rfl⟩⟩
    simp [Dev.head_armHead, HeadSt.armedBy, ha]
  · rw [Dev.headArm_of_pair hn hp hpartner hlt hpair]
    have hne : n.val ≠ p.val := Nat.ne_of_lt hlt
    refine ⟨_, rfl, ?_, ?_, Dev.asks_gvRequest (by simp) _, ⟨fun _ => rfl, rfl⟩⟩
    · simp [Dev.head_armHead, HeadSt.armedBy, ha, hne.symm]
    · simp [Dev.head_armHead, HeadSt.armedBy, ha', hne]
  · rw [Dev.headCancel_of_alone harmed hp]
    obtain ⟨hrest, hget⟩ := (s.dev.withdraw n).keepsRegs_gvRefresh
    refine ⟨_, rfl, ?_, ?_, ?_, ⟨fun _ => rfl, rfl⟩, fun x hx hne => (hget x hx).trans (s.dev.get_withdraw_ne hne)⟩
    · rw [Dev.head_of_sameButRegs hrest, s.dev.head_withdraw n.isLt]
    · exact (Dev.fld_of_get_eq (hget _ (Dev.slotOf_headStatus n))).trans (s.dev.fld_withdraw_armed n)
    · rw [Dev.headRes_of_sameButRegs hrest, s.dev.headRes_withdraw n.isLt]
  · rw [Dev.headCancel_of_unarmed hunarmed]
  · rw [Dev.recheck_of_alone ha hpair]
    refine ⟨_, rfl, ?_, Dev.asks_gvRequest (Dev.updHead_gv ..) _, ⟨fun _ => rfl, rfl⟩, fun hbusy x => ?_⟩
    · simp [Dev.head_updHead, ha]
    · exact Dev.get_gvRequest_of_busy (by exact hbusy) _ x
  · rw [Dev.recheck_of_none ha]
end
